-- ==== Sys2Proof/Word.lean ====
section
/-! DEFINITION. Word types and the plainest arithmetic over them. -/

namespace Sys2Proof

/-- A memory or scratch byte. -/
abbrev Byte := BitVec 8
/-- A register word of BAR0 (R11). -/
abbrev W32 := BitVec 32
/-- A scalar register, a counter, an instruction word. -/
abbrev W64 := BitVec 64

end Sys2Proof
end

