-- ==== Sys2Proof/Machine/Bits.lean ====
section
/-! DEFINITION. Bit fields, little-endian bytes (R8), saturating counts and CRCs (R274, R417). -/

namespace Sys2Proof.Machine

/-- Bits `hi..lo` of a number. -/
def field (x hi lo : Nat) : Nat := x / 2 ^ lo % 2 ^ (hi - lo + 1)

/-- Bit `i` of a number. -/
def bit (x i : Nat) : Bool := decide (x / 2 ^ i % 2 = 1)

def b2n (b : Bool) : Nat := if b then 1 else 0

/-- `n` little-endian bytes of a number (R8). -/
def leBytes (x : Nat) : Nat → List Byte
  | 0 => []
  | n + 1 => BitVec.ofNat 8 x :: leBytes (x / 256) n

/-- The number a little-endian byte list holds. -/
def leNat : List Byte → Nat
  | [] => 0
  | b :: t => b.toNat + 256 * leNat t

/-- Bytes `i .. i + n - 1` of a record, as a number. -/
def recField (r : List Byte) (i n : Nat) : Nat := leNat ((r.drop i).take n)

/-- Signed value of an `n`-bit number. -/
def signed (n x : Nat) : Int :=
  let y := x % 2 ^ n
  if y < 2 ^ (n - 1) then (y : Int) else (y : Int) - (2 ^ n : Nat)

/-- Add to a counter of width `w`, saturating. -/
def satAdd {w : Nat} (x : BitVec w) (k : Nat) : BitVec w :=
  if x.toNat + k < 2 ^ w then BitVec.ofNat w (x.toNat + k) else BitVec.allOnes w

/-- Ceiling division. -/
def ceilDiv (a b : Nat) : Nat := (a + b - 1) / b

/-- Eight shift steps of a reflected CRC with polynomial `poly`. -/
def crcByte (poly : Nat) : Nat → Nat → Nat
  | 0, c => c
  | k + 1, c => crcByte poly k (if c % 2 = 1 then Nat.xor (c / 2) poly else c / 2)

/-- Reflected CRC over bytes from register value `c`. -/
def crcRun (poly : Nat) : Nat → List Byte → Nat
  | c, [] => c
  | c, b :: t => crcRun poly (crcByte poly 8 (Nat.xor c b.toNat)) t

/-- CRC-32C: Castagnoli, reflected, initial value and final XOR all ones (R274). -/
def crc32c (bs : List Byte) : Nat := Nat.xor (crcRun 0x82F63B78 0xFFFFFFFF bs) 0xFFFFFFFF

/-- CRC-32 of IEEE 802.3, reflected, initial value and final XOR all ones. -/
def crc32 (bs : List Byte) : Nat := Nat.xor (crcRun 0xEDB88320 0xFFFFFFFF bs) 0xFFFFFFFF

/-- Numbers `a, a+1, …` (`n` of them). -/
def iota (a n : Nat) : List Nat := (List.range n).map (a + ·)

end Sys2Proof.Machine
end

