-- ==== Sys2Proof/Machine/Code.lean ====
section
/-! DEFINITION. The static checks that Stile makes on the words of an instruction stream (R63, R77–R80,
R96–R121, R187, R215, R217, R258). -/

namespace Sys2Proof.Machine

/-! Field masks of the base word (R77, R96) -/

/-- The mask of bits `hi..lo`. -/
def fm (hi lo : Nat) : Nat := 2 ^ (hi + 1) - 2 ^ lo
def fmIf (b : Bool) (hi lo : Nat) : Nat := if b then fm hi lo else 0

/-- Operand fields of layout T that an opcode uses, and its bits of MOD. -/
def maskT (ad aa ab sa sb sd : Bool) (md : Nat) : Nat :=
  fmIf ad 44 41 + fmIf aa 40 37 + fmIf ab 36 33 + fmIf sa 32 28 + fmIf sb 27 23 + fmIf sd 22 18 + md

/-- Layout S: SD, SA and the second operand. -/
def maskS (sd sa op : Bool) (w : Nat) : Nat :=
  fmIf sd 44 40 + fmIf sa 39 35 + (if op then (if bit w 34 then fm 34 0 else fm 33 29) else 0)

/-- Layout V. -/
def maskV (vd va vb vc pd aa sa cc : Bool) : Nat :=
  fmIf vd 44 40 + fmIf va 39 35 + fmIf vb 34 30 + fmIf vc 29 25 + fmIf pd 24 22 + fmIf aa 21 18 + fmIf sa 17 13
    + fmIf cc 12 10

/-- Layout F: bit 4 of a descriptor field is reserved in the scratch form. -/
def maskF (b : Bool) (w : Nat) : Nat :=
  if bit w 29 then fm 43 40 + fm 38 35 + fmIf b 33 30 + fm 29 29 else fm 44 40 + fm 39 35 + fmIf b 34 30

/-- Layout B: the second operand. -/
def maskB (e aa ad sa sd op : Bool) (w : Nat) : Nat :=
  fmIf e 44 41 + fmIf aa 40 37 + fmIf ad 36 33 + fmIf sa 32 28 + fmIf sd 22 18
    + (if op then (if bit w 17 then fm 17 0 else fm 27 23) else 0)

/-- What the opcode tables say of an opcode: extension word, level, fields used by word `w`, static
values allowed, and whether the word names a level-3 format or rule. -/
structure OpInfo where
  ext : Bool
  lvl : Nat
  mask : Nat
  ok : Bool
  lvl3 : Bool

def opPlain (lvl mask : Nat) : OpInfo := ⟨false, lvl, mask, true, false⟩

/-- Formats first defined at level 3: FP6b and T2 (R120). -/
def fmt3 (f : Nat) : Bool := f == 5 || f == 7

/-- Class 0x1 (R98). DESIGN CHOICE: DESC.ADJ and DESC.VALID take I = 1 and then IMM, as R98's lead sentence has the second
operand, though their rows name SB alone. -/
def opScl (op w : Nat) : Option OpInfo :=
  if op ≤ 14 then some (opPlain 2 (maskS true true true w))
  else if op = 15 then some { opPlain 2 (maskS true false false w) with ext := true }
  else if 16 ≤ op ∧ op ≤ 21 then some (opPlain 2 (fm 42 40 + maskS false true true w))
  else if op = 32 then some { opPlain 2 (fm 43 40 + maskS false true false w) with ok := decide (field w 39 35 ≤ 28) }
  else if op = 33 ∨ op = 34 then some (opPlain 2 (fm 43 40 + maskS false false true w))
  else if op = 35 then some { opPlain 2 (fm 44 40 + fm 38 35 + fm 34 34 + fm 1 0) with ok := bit w 34 }
  else none

/-- Class 0x2 (R99). -/
def opStr (op : Nat) : Option OpInfo :=
  match op with
  | 0 => some (opPlain 2 (maskT true true false false false false (fm 17 13)))
  | 1 => some (opPlain 2 (maskT true true false false false false 0))
  | 2 => some (opPlain 2 (maskT true true true false false false 0))
  | 3 => some (opPlain 2 (maskT false true true false false true 0))
  | 4 => some (opPlain 2 (maskT false true false false false false 0))
  | 5 => some (opPlain 2 (maskT true true false false false false 0))
  | _ => none

/-- Class 0x3 (R100, R101). -/
def opMma (op w : Nat) : Option OpInfo :=
  let f := field w 17 14
  let wok := decide (1 ≤ f) && decide (f ≤ 7)
  match op with
  | 0 => some { opPlain 2 (maskT false false true false false false (fm 17 14 + fm 10 10)) with ok := wok, lvl3 := fmt3 f }
  | 1 => some { opPlain 2 (maskT false true false false false false (fm 17 11)) with ok := wok, lvl3 := fmt3 f }
  | 2 => some (opPlain 2 (maskT false false false true false false (fm 13 13)))
  | 3 => some { opPlain 2 (maskT true false false false false false (fm 17 12)) with ok := decide (f ≤ 6), lvl3 := fmt3 f }
  | _ => none

/-- Class 0x4 (R104). -/
def opVec (op w : Nat) : Option OpInfo :=
  match op with
  | 0 | 1 | 2 | 4 | 5 | 12 | 13 => some (opPlain 2 (maskV true true true false false false false false))
  | 3 => some (opPlain 2 (maskV true true true true false false false false))
  | 6 | 14 => some (opPlain 2 (maskV true true false false false false false false))
  | 7 => some { opPlain 2 (maskV false true true false true false false true) with ok := decide (field w 12 10 ≤ 3) }
  | 8 => some (opPlain 2 (maskV true true true false true false false false))
  | 9 => some (opPlain 2 (maskV true false false false false false true false))
  | 10 | 11 => some (opPlain 2 (maskV true false false false false true true false))
  | _ => none

/-- Class 0x5 (R105). -/
def opFn (op w : Nat) : Option OpInfo :=
  match op with
  | 0 | 1 => some (opPlain 2 (maskF false w))
  | 2 | 3 => some (opPlain 2 (maskF true w))
  | 4 | 5 => some (opPlain 3 (maskF false w))
  | _ => none

/-- Class 0x6 (R107, R187). -/
def opRow (op w : Nat) : Option OpInfo :=
  let f := field w 17 14
  let aff := bit w 13
  match op with
  | 0 | 1 => some { opPlain 2 (maskT true true aff true false false (fm 17 13)) with ok := decide (f ≤ 6), lvl3 := fmt3 f }
  | 2 => some { opPlain 2 (maskT true true false true false false (fm 17 14)) with ok := decide (f ≤ 6), lvl3 := fmt3 f }
  | 3 => some { opPlain 2 (maskT true true false false false false (fm 17 14)) with ok := decide (f = 0) }
  | _ => none

/-- Class 0x7 (R108, R258). -/
def opWin (op w : Nat) : Option OpInfo :=
  let f := field w 8 5
  match op with
  | 0 => some { ext := true, lvl := 2, mask := fm 40 37 + fm 32 9 + fm 8 2, ok := decide (1 ≤ f) && decide (f ≤ 7), lvl3 := fmt3 f }
  | 1 => some { ext := true, lvl := 2, mask := fm 44 37 + fm 32 9 + fm 8 5 + fm 1 0
                ok := decide (f ≤ 6) && decide (field w 1 0 ≤ 1), lvl3 := fmt3 f }
  | 2 => some (opPlain 2 (maskT true true true true false false (fm 17 17)))
  | 3 => some (opPlain 3 (maskT true true true true false false (fm 17 17)))
  | 4 => some (opPlain 2 (maskT true true true false false false (fm 16 16)))
  | _ => none

/-- Class 0x8 (R109). -/
def opSort (op w : Nat) : Option OpInfo :=
  let ok := decide (field w 17 16 ≤ 2)
  match op with
  | 0 => some { opPlain 2 (maskT true true false false false true (fm 17 15)) with ok := ok }
  | 1 | 2 => some { opPlain 2 (maskT true true false true false true (fm 17 15)) with ok := ok }
  | _ => none

/-- Class 0x9 (R110, R215, R217). -/
def opAttn (op w : Nat) : Option OpInfo :=
  let f := field w 17 14
  match op with
  | 0 => some { opPlain 2 (maskT true true true true false true (fm 17 14)) with ok := decide (1 ≤ f) && decide (f ≤ 6), lvl3 := fmt3 f }
  | 1 => some (opPlain 2 (maskT true false false true false false 0))
  | 2 => some (opPlain 2 (maskT false true true true true false 0))
  | 3 => some (opPlain 2 (maskT true true false true true false 0))
  | 4 => some { opPlain 3 (maskT true true false false false false (fm 17 14)) with ok := decide (f = 2) }
  | 5 => some (opPlain 3 (maskT true true false true false true 0))
  | 6 => some (opPlain 3 (maskT false true false true true false 0))
  | 7 => some (opPlain 3 (maskT false false false true true true 0))
  | _ => none

/-- Class 0xA (R111). -/
def opHalo (op : Nat) : Option OpInfo :=
  match op with
  | 0 => some (opPlain 2 (maskT false true false true false false (fm 17 16)))
  | 1 | 2 => some (opPlain 2 (maskT true false false false false true (fm 17 16)))
  | 3 => some (opPlain 2 (maskT false true false false true true (fm 17 16)))
  | _ => none

/-- Class 0xB (R112). -/
def opSync (op w : Nat) : Option OpInfo :=
  match op with
  | 0 => some (opPlain 2 (maskB true false false false false true w))
  | 1 => some (opPlain 2 0)
  | 2 => some (opPlain 2 (maskB false false false true false true w))
  | 3 | 4 | 5 | 6 => some (opPlain 2 (maskB false false false true true true w))
  | 7 => some { opPlain 2 (maskB false false false true true true w) with ext := true }
  | 8 => some (opPlain 2 (maskB false true true false false false w))
  | 9 => some (opPlain 3 (maskB false true true false false false w))
  | _ => none

/-- Class 0xE (R116). -/
def opEsc (op : Nat) : Option OpInfo :=
  match op with
  | 0 => some (opPlain 3 (maskT true true false false false false (fm 14 11)))
  | 1 => some (opPlain 3 (maskT false false true false false true (fm 17 11)))
  | 2 => some (opPlain 3 (maskT false false false false false true (fm 14 11)))
  | 3 | 4 => some (opPlain 3 (maskT false false false false false false (fm 14 11)))
  | _ => none

/-- Class 0xF (R117). -/
def opSys (op w : Nat) : Option OpInfo :=
  match op with
  | 0 => some (opPlain 2 0)
  | 1 => some { opPlain 2 (fm 44 40 + fm 34 0) with ok := bit w 34 }
  | 2 => some (opPlain 2 (fm 44 40))
  | _ => none

/-- The opcode tables (R97–R117); none for a reserved opcode (R123). -/
def opInfo (w : Nat) : Option OpInfo :=
  let op := field w 59 54
  match field w 63 60 with
  | 0 => match op with
    | 0 => some (opPlain 2 (fm 31 0))
    | 1 => some { opPlain 2 (fm 44 40 + fm 31 0) with ok := decide (field w 44 40 ≠ 0) }
    | 2 => some (opPlain 2 0)
    | _ => none
  | 1 => opScl op w
  | 2 => opStr op
  | 3 => opMma op w
  | 4 => opVec op w
  | 5 => opFn op w
  | 6 => opRow op w
  | 7 => opWin op w
  | 8 => opSort op w
  | 9 => opAttn op w
  | 10 => opHalo op
  | 11 => opSync op w
  | 12 => if op = 0 then some (opPlain 2 (maskT false true false true false false 0)) else none
  | 13 => if op = 0 then some { opPlain 2 (maskT true true true true false true (fm 17 16)) with lvl3 := decide (field w 17 16 = 0) } else none
  | 14 => opEsc op
  | _ => opSys op w

/-- Does the issue unit execute the word (R79)? -/
def isIssueWord (w : Nat) : Bool :=
  let c := field w 63 60
  c == 0 || c == 1 || c == 15 || (c == 11 && decide (field w 59 54 ≤ 1))

/-- Code with which a word is rejected, if it is: reserved opcode, level, then the items of R80. -/
def wordFault (level w : Nat) (ext : Option Nat) : Option Nat :=
  match opInfo w with
  | none => some 0x0120
  | some o =>
    if level = 2 ∧ (o.lvl = 3 ∨ o.lvl3) then some 0x0112
    else if bit w 53 ≠ o.ext ∨ Nat.land (w % 2 ^ 45) o.mask ≠ w % 2 ^ 45 ∨ !o.ok then some 0x0122
    else if (isIssueWord w || !bit w 52) && decide (field w 51 48 ≠ 0) then some 0x0122
    else if isIssueWord w && bit w 52 then some 0x0122
    else if field w 63 60 == 7 && o.ext && (match ext with
        | some e => decide (field e 63 60 ≠ 0)
        | none => false) then some 0x0122
    else none

/-- An instruction of a stream: index of its base word, the word and its extension word. -/
structure CodeWord where
  idx : Nat
  w : Nat
  ext : Option Nat

/-- The instructions of a stream, and whether the last one is cut short by the stream's end. -/
def splitCode : Nat → Nat → List Nat → List CodeWord × Bool
  | 0, _, _ => ([], false)
  | _ + 1, _, [] => ([], false)
  | n + 1, i, w :: t =>
    if ((opInfo w).map (·.ext)).getD false then
      match t with
      | [] => ([⟨i, w, none⟩], true)
      | e :: t' => let r := splitCode n (i + 2) t'; (⟨i, w, some e⟩ :: r.1, r.2)
    else let r := splitCode n (i + 1) t; (⟨i, w, none⟩ :: r.1, r.2)

/-- Direction of a halo instruction. -/
def haloDir (w : Nat) : Option Nat := if field w 63 60 = 10 then some (field w 17 16) else none

/-- Does port `d` of logical (r, c) face outside an R × C grid (R68)? -/
def facesOut (rows cols r c d : Nat) : Bool :=
  match d with
  | 0 => decide (r = 0)
  | 1 => decide (cols ≤ c + 1)
  | 2 => decide (rows ≤ r + 1)
  | _ => decide (c = 0)

def isBranchWord (w : Nat) : Bool := field w 63 60 == 0 && decide (field w 59 54 ≤ 1)
/-- Target index of a branch. -/
def branchTarget (c : CodeWord) : Int := (c.idx : Int) + signed 32 (c.w % 2 ^ 32)

/-- Does a word end a stream: CTL.END, or CTL.BR with PRED = p0? DESIGN CHOICE: R80's PRED = p0 is asked of CTL.BR alone; CTL.END
ends a stream under any PRED. -/
def endsStream (w : Nat) : Bool :=
  field w 63 60 == 0 && (field w 59 54 == 2 || (field w 59 54 == 0 && field w 47 45 == 0))

/-- First failure in a stream: code and word index. -/
def streamFault (level rows cols r c : Nat) (words : List Nat) : Option (Nat × Nat) :=
  let p := splitCode (words.length + 1) 0 words
  let starts := p.1.map (·.idx)
  let one (k : CodeWord) : Option (Nat × Nat) :=
    match wordFault level k.w k.ext with
    | some e => some (e, k.idx)
    | none =>
      match haloDir k.w with
      | some d => if facesOut rows cols r c d then some (0x0121, k.idx) else none
      | none =>
        if isBranchWord k.w ∧ !(decide (0 ≤ branchTarget k) && starts.contains (branchTarget k).toNat) then
          some (0x0123, k.idx) else none
  match p.1.findSome? one with
  | some e => some e
  | none =>
    match p.1.getLast? with
    | none => some (0x0123, 0)
    | some k => if p.2 ∨ !endsStream k.w then some (0x0123, k.idx) else none

/-- Directions in which a stream puts, and in which it takes from its rings. -/
def streamHalo (words : List Nat) : List Nat × List Nat :=
  let cs := (splitCode (words.length + 1) 0 words).1.filter fun k => field k.w 63 60 == 10
  ((cs.filter fun k => field k.w 59 54 == 0).map fun k => field k.w 17 16,
   (cs.filter fun k => field k.w 59 54 == 1).map fun k => field k.w 17 16)

end Sys2Proof.Machine
end

