-- ==== Sys2Proof/Syntax.lean ====
section
/-! DEFINITION. The commands of the LN9 block and the records their operands carry. -/

namespace Sys2Proof

/-! Sett instructions: header and operand layouts (R77, R96) -/

/-- Bits 52..45 of a base word (R77). -/
structure Hdr where
  ev : Bool
  evt : BitVec 4
  pred : BitVec 3
  deriving DecidableEq, Repr

/-- Layout C. -/
structure LayC where
  sa : BitVec 5
  off : BitVec 32
  deriving DecidableEq, Repr

/-- Layout S. -/
structure LayS where
  sd : BitVec 5
  sa : BitVec 5
  i : Bool
  sb : BitVec 5
  imm : BitVec 34
  deriving DecidableEq, Repr

/-- Layout T; `md` is the MOD field. -/
structure LayT where
  ad : BitVec 4
  aa : BitVec 4
  ab : BitVec 4
  sa : BitVec 5
  sb : BitVec 5
  sd : BitVec 5
  md : BitVec 18
  deriving DecidableEq, Repr

/-- Layout V. -/
structure LayV where
  vd : BitVec 5
  va : BitVec 5
  vb : BitVec 5
  vc : BitVec 5
  pd : BitVec 3
  aa : BitVec 4
  sa : BitVec 5
  cc : BitVec 3
  deriving DecidableEq, Repr

/-- Layout F; `m` is the scratch form. -/
structure LayF where
  d : BitVec 5
  a : BitVec 5
  b : BitVec 5
  m : Bool
  deriving DecidableEq, Repr

/-- Layout W. -/
structure LayW where
  ad : BitVec 4
  aa : BitVec 4
  stride : BitVec 12
  dil : BitVec 12
  fmt : BitVec 4
  lb : Bool
  acc : Bool
  swap : Bool
  pk : BitVec 2
  deriving DecidableEq, Repr

/-- Layout B. -/
structure LayB where
  e : BitVec 4
  aa : BitVec 4
  ad : BitVec 4
  sa : BitVec 5
  sb : BitVec 5
  sd : BitVec 5
  i : Bool
  imm : BitVec 17
  deriving DecidableEq, Repr

/-- The units of a sett that own a queue (R42). -/
inductive UnitId where
  | stream | matrix | conv | vector | row | func | window | sort
  | haloN | haloE | haloS | haloW | mesh
  deriving DecidableEq, Repr

/-! The manifest of a run (R290, R291), as Stile reads it -/

/-- A carved region of scratch (R48). -/
structure Region where
  base : Nat
  size : Nat
  kind : Nat
  retain : Bool
  deriving DecidableEq, Repr

/-- Section 3: where the code of one logical sett lies, in 64-bit words. -/
structure StreamDecl where
  va : Nat
  words : Nat
  deriving DecidableEq, Repr

/-- Section 6: the ring of a receiving port (R276); `port` 0 N, 1 E, 2 S, 3 W. -/
structure HaloDecl where
  port : Nat
  region : Nat
  depth : Nat
  deriving DecidableEq, Repr

/-- One source of a ladder step (R164): step, object number and the source's format code. -/
structure LadderSource where
  step : Nat
  object : Nat
  fmt : Nat
  deriving DecidableEq, Repr

/-- Section 8: a ladder declaration (R164); `steps` has bit k for step k. -/
structure LadderDecl where
  slot : Nat
  base : Nat
  steps : BitVec 8
  weights : List LadderSource
  activations : List LadderSource
  reserve : Nat
  bytes : Nat
  deriving DecidableEq, Repr

/-- The per-sett part of a manifest: carving, preloads, halo rings and ladders. -/
structure SettDecl where
  carving : List Region
  descs : List (Nat × BitVec 256)
  scalars : List (Nat × W64)
  halo : List HaloDecl
  ladders : List LadderDecl
  deriving DecidableEq, Repr

/-- Section 7: a work counter (R285). -/
structure CounterDecl where
  va : Nat
  start : W64
  limit : W64
  deriving DecidableEq, Repr

/-- Section 9: a pool block with its ring, or a sequence table of `count` entries (R202, R205). -/
structure PoolDecl where
  isSeq : Bool
  va : Nat
  count : Nat
  deriving DecidableEq, Repr

/-- A manifest. Objects are the 64-byte entries of R317 (byte 0 in the low bits); group
declarations and members are the raw records of R430. `setts` lists rows × columns entries in
row-major order, `streams` likewise. -/
structure Manifest where
  version : Nat
  level : Nat
  rows : Nat
  cols : Nat
  bytes : Nat
  objects : List (BitVec 512)
  streams : List StreamDecl
  setts : List SettDecl
  counters : List CounterDecl
  pools : List PoolDecl
  cairn : List Nat
  groups : List (BitVec 384)
  members : List W64
  saveObject : Nat
  escBudget : W64
  wdogBudget : W64
  deriving DecidableEq, Repr

/-! Records that arrive from other units -/

/-- What boot finds (R499): flash readable, the straps as sampled (RECOVERY# low, SMB_ADDR), REFCLK there, quick and
full memory training, columns whose self-test fails (17 die + column), Lintel slices repaired per die and whether
every slice could be. -/
structure BootEnv where
  flashOk : Bool
  straps : BitVec 4
  refclk : Bool
  quickTrain : Bool
  fullTrain : Bool
  failCols : List Nat
  lintelRepaired : Nat × Nat
  lintelOk : Bool
  retrains : Nat × Nat
  deriving DecidableEq, Repr

/-- A Mortar message as it arrives from the fabric: header and payload bytes. -/
structure Chunk where
  header : List Byte
  payload : List Byte
  deriving DecidableEq, Repr

/-- A Golger flit of 256 bytes as it arrives on a port, and of the codeword that begins within it, if one does: whether the FEC
could not correct it, and else how many symbols it corrected (R415). -/
structure Flit where
  bytes : List Byte
  fecFailed : Bool
  fecCorrected : Nat
  deriving DecidableEq, Repr

/-- The commands of the block, one constructor for each row of the opcode table. -/
inductive Instr where
  /-- CTL_BR (R97): Branches to PC + 8 × OFF when lane 0 of PRED is set. -/
  | ctlBr (st : Nat) (h : Hdr) (f : LayC)
  /-- CTL_LOOP (R97): Decrements SA and branches while SA is nonzero. -/
  | ctlLoop (st : Nat) (h : Hdr) (f : LayC)
  /-- CTL_END (R71): Ends the sett's stream; the sett completes once every unit has drained. -/
  | ctlEnd (st : Nat) (h : Hdr) (f : LayC)
  /-- SCL_ADD (R98): Sets SD to the 64-bit wrapping sum of SA and the second operand. -/
  | sclAdd (st : Nat) (h : Hdr) (f : LayS)
  /-- SCL_SUB (R98): Sets SD to the 64-bit wrapping difference of SA and the second operand. -/
  | sclSub (st : Nat) (h : Hdr) (f : LayS)
  /-- SCL_MUL (R98): Sets SD to the low 64 bits of the product of SA and the second operand. -/
  | sclMul (st : Nat) (h : Hdr) (f : LayS)
  /-- SCL_DIVU (R98): Sets SD to the unsigned quotient, or to 2^64 − 1 for a zero divisor. -/
  | sclDivu (st : Nat) (h : Hdr) (f : LayS)
  /-- SCL_REMU (R98): Sets SD to the unsigned remainder, or to SA for a zero divisor. -/
  | sclRemu (st : Nat) (h : Hdr) (f : LayS)
  /-- SCL_AND (R98): Sets SD to the bitwise AND of SA and the second operand. -/
  | sclAnd (st : Nat) (h : Hdr) (f : LayS)
  /-- SCL_OR (R98): Sets SD to the bitwise OR of SA and the second operand. -/
  | sclOr (st : Nat) (h : Hdr) (f : LayS)
  /-- SCL_XOR (R98): Sets SD to the bitwise XOR of SA and the second operand. -/
  | sclXor (st : Nat) (h : Hdr) (f : LayS)
  /-- SCL_SHL (R98): Shifts SA left by bits [5:0] of the second operand. -/
  | sclShl (st : Nat) (h : Hdr) (f : LayS)
  /-- SCL_SHR (R98): Shifts SA right logically by bits [5:0] of the second operand. -/
  | sclShr (st : Nat) (h : Hdr) (f : LayS)
  /-- SCL_SRA (R98): Shifts SA right arithmetically by bits [5:0] of the second operand. -/
  | sclSra (st : Nat) (h : Hdr) (f : LayS)
  /-- SCL_MIN (R98): Sets SD to the signed minimum of SA and the second operand. -/
  | sclMin (st : Nat) (h : Hdr) (f : LayS)
  /-- SCL_MAX (R98): Sets SD to the signed maximum of SA and the second operand. -/
  | sclMax (st : Nat) (h : Hdr) (f : LayS)
  /-- SCL_MINU (R98): Sets SD to the unsigned minimum of SA and the second operand. -/
  | sclMinu (st : Nat) (h : Hdr) (f : LayS)
  /-- SCL_MAXU (R98): Sets SD to the unsigned maximum of SA and the second operand. -/
  | sclMaxu (st : Nat) (h : Hdr) (f : LayS)
  /-- SCL_LI (R98): Loads the extension word into SD. -/
  | sclLi (st : Nat) (h : Hdr) (f : LayS) (ext : W64)
  /-- SCL_CMP_EQ (R98): Sets every lane of predicate SD to whether SA equals the second operand. -/
  | sclCmpEq (st : Nat) (h : Hdr) (f : LayS)
  /-- SCL_CMP_NE (R98): Sets every lane of predicate SD to whether SA differs from the second operand. -/
  | sclCmpNe (st : Nat) (h : Hdr) (f : LayS)
  /-- SCL_CMP_LT (R98): Sets every lane of predicate SD to a signed less-than comparison. -/
  | sclCmpLt (st : Nat) (h : Hdr) (f : LayS)
  /-- SCL_CMP_LE (R98): Sets every lane of predicate SD to a signed less-or-equal comparison. -/
  | sclCmpLe (st : Nat) (h : Hdr) (f : LayS)
  /-- SCL_CMP_LTU (R98): Sets every lane of predicate SD to an unsigned less-than comparison. -/
  | sclCmpLtu (st : Nat) (h : Hdr) (f : LayS)
  /-- SCL_CMP_LEU (R98): Sets every lane of predicate SD to an unsigned less-or-equal comparison. -/
  | sclCmpLeu (st : Nat) (h : Hdr) (f : LayS)
  /-- DESC_SET (R90): Writes a descriptor from four scalars and checks its extent, ending the run with 0x0202 on failure. -/
  | descSet (st : Nat) (h : Hdr) (f : LayS)
  /-- DESC_ADJ (R98): Adds SB to a descriptor's offset or VA, and to its scale base for a narrow format, then rechecks it. -/
  | descAdj (st : Nat) (h : Hdr) (f : LayS)
  /-- DESC_VALID (R98): Sets a kind-0 descriptor's valid counts from SB, limited by its extents. -/
  | descValid (st : Nat) (h : Hdr) (f : LayS)
  /-- DESC_GET (R98): Reads one word of a descriptor into SD. -/
  | descGet (st : Nat) (h : Hdr) (f : LayS)
  /-- STR_LOAD (R578): Moves AA to AD with conversion, narrowing through the quantiser and recording measures when Q is set. -/
  | strLoad (st : Nat) (h : Hdr) (f : LayT)
  /-- STR_STORE (R578): Moves AA to AD with conversion and writes tile headers where the store covers a tile exactly. -/
  | strStore (st : Nat) (h : Hdr) (f : LayT)
  /-- STR_GATHER (R578): Copies the rows of AA named by the indices in AB into AD, converting formats. -/
  | strGather (st : Nat) (h : Hdr) (f : LayT)
  /-- STR_SCAN (R147): Derives a ledger anchor from the block scales or exponent fields of AA and AB. -/
  | strScan (st : Nat) (h : Hdr) (f : LayT)
  /-- STR_PREF (R578): Brings AA into the Lintel cache, skipping granules that do not translate, and never faults. -/
  | strPref (st : Nat) (h : Hdr) (f : LayT)
  /-- STR_COPY (R578): Copies the codes of AA's valid elements to AD unchanged. -/
  | strCopy (st : Nat) (h : Hdr) (f : LayT)
  /-- MMA_WLD (R102): Loads K × 128 weights from AB into the shadow plane. -/
  | mmaWld (st : Nat) (h : Hdr) (f : LayT)
  /-- MMA (R102): Optionally swaps the planes, then multiplies M activation rows into ledger bank LB, adding or replacing. -/
  | mma (st : Nat) (h : Hdr) (f : LayT)
  /-- LDG_ANCHOR (R144): Sets a bank's anchor to SA, clamped, and clears every ledger of the bank. -/
  | ldgAnchor (st : Nat) (h : Hdr) (f : LayT)
  /-- LDG_CVT (R150): Converts a ledger bank to FMT with one rounding, in residual form when ACC is set. -/
  | ldgCvt (st : Nat) (h : Hdr) (f : LayT)
  /-- VEC_ADD (R138): Adds FP32 lanes under IEEE 754 rules. -/
  | vecAdd (st : Nat) (h : Hdr) (f : LayV)
  /-- VEC_SUB (R138): Subtracts FP32 lanes under IEEE 754 rules. -/
  | vecSub (st : Nat) (h : Hdr) (f : LayV)
  /-- VEC_MUL (R138): Multiplies FP32 lanes under IEEE 754 rules. -/
  | vecMul (st : Nat) (h : Hdr) (f : LayV)
  /-- VEC_FMA (R138): Computes VA × VB + VC per lane with one rounding. -/
  | vecFma (st : Nat) (h : Hdr) (f : LayV)
  /-- VEC_MAX (R138): Takes the lane maximum, returning canonical NaN for a NaN operand. -/
  | vecMax (st : Nat) (h : Hdr) (f : LayV)
  /-- VEC_MIN (R138): Takes the lane minimum, returning canonical NaN for a NaN operand. -/
  | vecMin (st : Nat) (h : Hdr) (f : LayV)
  /-- VEC_ABS (R138): Clears bit 31 of each lane. -/
  | vecAbs (st : Nat) (h : Hdr) (f : LayV)
  /-- VEC_CMP (R104): Sets predicate lanes of PD from a comparison of VA and VB. -/
  | vecCmp (st : Nat) (h : Hdr) (f : LayV)
  /-- VEC_SEL (R104): Selects VA where PD is set and VB elsewhere. -/
  | vecSel (st : Nat) (h : Hdr) (f : LayV)
  /-- VEC_BCAST (R104): Copies SA 31..0 into every lane of VD. -/
  | vecBcast (st : Nat) (h : Hdr) (f : LayV)
  /-- VEC_LD (R579): Loads 128 elements of AA from linear index SA into VD, converted to FP32. -/
  | vecLd (st : Nat) (h : Hdr) (f : LayV)
  /-- VEC_ST (R579): Stores VD into 128 elements of AA, narrowing whole blocks for a narrow format. -/
  | vecSt (st : Nat) (h : Hdr) (f : LayV)
  /-- VEC_IADD (R104): Adds lanes as wrapping 32-bit integers. -/
  | vecIadd (st : Nat) (h : Hdr) (f : LayV)
  /-- VEC_PERM (R104): Sets lane i of VD to the lane of VA named by VB i mod 128. -/
  | vecPerm (st : Nat) (h : Hdr) (f : LayV)
  /-- VEC_RSUM (R104): Sums the lanes of VA by a fixed pairwise tree into lane 0. -/
  | vecRsum (st : Nat) (h : Hdr) (f : LayV)
  /-- FN_TANH (R178): Computes the hyperbolic tangent of each element. -/
  | fnTanh (st : Nat) (h : Hdr) (f : LayF)
  /-- FN_SIG (R178): Computes the logistic function of each element. -/
  | fnSig (st : Nat) (h : Hdr) (f : LayF)
  /-- GATE_SIG (R178): Computes a × σ(b) per element. -/
  | gateSig (st : Nat) (h : Hdr) (f : LayF)
  /-- GATE_TANH (R178): Computes a × tanh(b) per element. -/
  | gateTanh (st : Nat) (h : Hdr) (f : LayF)
  /-- GATE_SILU (R178): Computes a × σ(a) per element. -/
  | gateSilu (st : Nat) (h : Hdr) (f : LayF)
  /-- GATE_GELU (R178): Computes the tanh-form GELU per element through the σ form. -/
  | gateGelu (st : Nat) (h : Hdr) (f : LayF)
  /-- ROW_NORM (R185): Normalises each row by its exact mean and variance, with an optional affine step. -/
  | rowNorm (st : Nat) (h : Hdr) (f : LayT)
  /-- ROW_RMS (R185): Normalises each row by its root mean square, with an optional γ. -/
  | rowRms (st : Nat) (h : Hdr) (f : LayT)
  /-- ROW_SMAX (R190): Writes the soft maximum of each scaled row. -/
  | rowSmax (st : Nat) (h : Hdr) (f : LayT)
  /-- ROW_STAT (R185): Writes the mean and population variance of each row. -/
  | rowStat (st : Nat) (h : Hdr) (f : LayT)
  /-- WIN_CONV (R254): Streams sliding windows of AA into the matrix unit against the active plane, into bank LB. -/
  | winConv (st : Nat) (h : Hdr) (f : LayW) (ext : W64)
  /-- WIN_POOL (R258): Writes max or average pooling of AA into AD. -/
  | winPool (st : Nat) (h : Hdr) (f : LayW) (ext : W64)
  /-- FFT_R4 (R263): Performs radix-4 transform stages of AA into AD. -/
  | fftR4 (st : Nat) (h : Hdr) (f : LayT)
  /-- FFT_R8 (R263): Performs radix-8 transform stages of AA into AD. -/
  | fftR8 (st : Nat) (h : Hdr) (f : LayT)
  /-- FFT_CMUL (R265): Multiplies complex pairs of AA and AB, optionally conjugating AB. -/
  | fftCmul (st : Nat) (h : Hdr) (f : LayT)
  /-- SORT_PAIRS (R231): Writes all key–index pairs of AA in stable key order. -/
  | sortPairs (st : Nat) (h : Hdr) (f : LayT)
  /-- SORT_TOPK (R231): Writes the first min(SA, n) pairs of the stable key order. -/
  | sortTopk (st : Nat) (h : Hdr) (f : LayT)
  /-- SORT_MERGE (R233): Merges ranked runs across setts along a tree, in gather or select-back mode. -/
  | sortMerge (st : Nat) (h : Hdr) (f : LayT)
  /-- ATTN_STEP (R217): Performs one online soft-maximum scan or accumulate step over a score tile. -/
  | attnStep (st : Nat) (h : Hdr) (f : LayT)
  /-- ATTN_MERGE (R223): Merges attention partial rows across setts by log-sum-exp along a tree. -/
  | attnMerge (st : Nat) (h : Hdr) (f : LayT)
  /-- KV_SCATTER (R206): Appends token rows to their sequences' current pages, popping pages from the free ring. -/
  | kvScatter (st : Nat) (h : Hdr) (f : LayT)
  /-- KV_LOAD (R212): Copies one head block of each listed page into scratch. -/
  | kvLoad (st : Nat) (h : Hdr) (f : LayT)
  /-- KV_SUMM (R215): Writes the FP8a mean key of each head of each page. -/
  | kvSumm (st : Nat) (h : Hdr) (f : LayT)
  /-- CAIRN_LOOKUP (R240): Returns location words for page numbers from the bank of the issue epoch. -/
  | cairnLookup (st : Nat) (h : Hdr) (f : LayT)
  /-- CAIRN_FILL (R242): Writes page descriptors into the idle bank of a Cairn table. -/
  | cairnFill (st : Nat) (h : Hdr) (f : LayT)
  /-- CAIRN_FLIP (R243): Makes the idle bank current when the epoch equals SB. -/
  | cairnFlip (st : Nat) (h : Hdr) (f : LayT)
  /-- HALO_PUT (R278): Spends a credit and writes AA's rows with a tag into the neighbour's slot. -/
  | haloPut (st : Nat) (h : Hdr) (f : LayT)
  /-- HALO_TAKE (R279): Copies the oldest filled slot into AD, returns its tag and the credit. -/
  | haloTake (st : Nat) (h : Hdr) (f : LayT)
  /-- HALO_SPILL (R282): Moves filled slots of a port to memory as records, returning their credits. -/
  | haloSpill (st : Nat) (h : Hdr) (f : LayT)
  /-- HALO_FILL (R282): Fills records from memory into a port's ring, withdrawing sender credits. -/
  | haloFill (st : Nat) (h : Hdr) (f : LayT)
  /-- SYNC_WAIT (R59): Stalls issue until an event counter reaches a value. -/
  | syncWait (st : Nat) (h : Hdr) (f : LayB)
  /-- SYNC_FENCE (R60): Stalls issue until every earlier stream, store, scatter and atomic has completed. -/
  | syncFence (st : Nat) (h : Hdr) (f : LayB)
  /-- SYNC_WAITGE (R70): Places a wait in the Lintel slice until a word reaches a value. -/
  | syncWaitge (st : Nat) (h : Hdr) (f : LayB)
  /-- WC_TAKE (R286): Atomically fetches and adds to a word in the Lintel cache. -/
  | wcTake (st : Nat) (h : Hdr) (f : LayB)
  /-- ATOM_MAX (R112): Returns a word and replaces it with the unsigned maximum. -/
  | atomMax (st : Nat) (h : Hdr) (f : LayB)
  /-- ATOM_MIN (R112): Returns a word and replaces it with the unsigned minimum. -/
  | atomMin (st : Nat) (h : Hdr) (f : LayB)
  /-- ATOM_XCHG (R112): Returns a word and replaces it with the operand. -/
  | atomXchg (st : Nat) (h : Hdr) (f : LayB)
  /-- ATOM_CAS (R112): Returns a word and replaces it when it equals the extension word. -/
  | atomCas (st : Nat) (h : Hdr) (f : LayB) (ext : W64)
  /-- RED_ADD (R113): Adds AA into memory AD element by element in saturating I32, in the Lintel cache. -/
  | redAdd (st : Nat) (h : Hdr) (f : LayB)
  /-- RED_MAX (R113): Takes the FP32 maximum of AA and memory AD element by element, in the Lintel cache. -/
  | redMax (st : Nat) (h : Hdr) (f : LayB)
  /-- COLL_POST (R434): Posts a 64-byte record to a Mortar group's context queue. -/
  | collPost (st : Nat) (h : Hdr) (f : LayT)
  /-- UPD_SWEEP (R310): Applies an update rule to packed weight records with step tags. -/
  | updSweep (st : Nat) (h : Hdr) (f : LayT)
  /-- QNT_CVT (R155): Quantises AA into AD's format and accumulates block measures in a slot. -/
  | qntCvt (st : Nat) (h : Hdr) (f : LayT)
  /-- ESC_CHECK (R161): Compares a slot's measures with the layer descriptor's limits and sets PD and a mask. -/
  | escCheck (st : Nat) (h : Hdr) (f : LayT)
  /-- ESC_MARK (R168): Advances a slot's ladder one step, or records exhaustion. -/
  | escMark (st : Nat) (h : Hdr) (f : LayT)
  /-- ESC_PIN (R169): Holds a slot at its current step for the rest of the run. -/
  | escPin (st : Nat) (h : Hdr) (f : LayT)
  /-- ESC_CLR (R168): Clears a slot's measures and returns it to its base step unless pinned. -/
  | escClr (st : Nat) (h : Hdr) (f : LayT)
  /-- SYS_NOP (R117): Does nothing. -/
  | sysNop (st : Nat) (h : Hdr) (f : LayS)
  /-- SYS_CAPS (R119): Returns a capability value selected by IMM. -/
  | sysCaps (st : Nat) (h : Hdr) (f : LayS)
  /-- SYS_FLAGS (R118): Returns the sett flags set by completed instructions, without waiting. -/
  | sysFlags (st : Nat) (h : Hdr) (f : LayS)
  /-- FETCH_RETURN (R53): Instruction words of a fetch miss arrive and issue resumes. -/
  | fetchReturn (st : Nat)
  /-- ISSUE_STALL_RELEASE (R54): A full unit queue accepts the stalled instruction and issue resumes. -/
  | issueStallRelease (st : Nat)
  /-- INSTRUCTION_COMPLETE (R58): A unit completes an instruction and adds one to its event counter. -/
  | instructionComplete (st : Nat) (unit : UnitId)
  /-- SYNC_WAIT_RELEASE (R59): An event counter reaches the awaited value and issue resumes. -/
  | syncWaitRelease (st : Nat)
  /-- MMA_SWAP_RELEASE (R102): An MMA with SWAP starts once the preceding MMA.WLD has finished. -/
  | mmaSwapRelease (st : Nat)
  /-- ESC_CHECK_RELEASE (R158): ESC.CHECK proceeds once the matrix instructions whose sheds it counts have completed. -/
  | escCheckRelease (st : Nat)
  /-- HALO_CREDIT_ARRIVAL (R277): A returned credit reaches a sender and its waiting HALO.PUT proceeds. -/
  | haloCreditArrival (st : Nat) (dir : BitVec 2)
  /-- HALO_SLOT_ARRIVAL (R281): A slot becomes filled and a waiting HALO.TAKE proceeds. -/
  | haloSlotArrival (st : Nat) (dir : BitVec 2)
  /-- MERGE_PARTNER_ARRIVAL (R224): A merge partner's rows arrive and a waiting ATTN.MERGE or SORT.MERGE level proceeds. -/
  | mergePartnerArrival (st : Nat)
  /-- COLL_POST_QUEUE_RELEASE (R434): A full Mortar context queue frees room and a waiting COLL.POST is accepted. -/
  | collPostQueueRelease (st : Nat)
  /-- CAIRN_FILL_RELEASE (R242): A waiting fill begins writing once the target bank has no old lookups and its clear has ended. -/
  | cairnFillRelease (st : Nat)
  /-- CAIRN_FLIP_RELEASE (R243): A waiting flip sets E to SB + 1 once its fills and any clear have completed. -/
  | cairnFlipRelease (st : Nat)
  /-- CAIRN_CLEAR_START (R244): The table begins clearing a retired bank once no lookup of the retired epoch remains. -/
  | cairnClearStart (table : Nat)
  /-- CAIRN_CLEAR_DONE (R244): The clear of a retired bank completes. -/
  | cairnClearDone (table : Nat)
  /-- LINTEL_WAIT_RELEASE (R354): A word changes and the slice releases every wait the new value satisfies. -/
  | lintelWaitRelease (addr : Nat)
  /-- WAIT_RESEND (R354): A wait refused by a full wait table is sent again after 256 cycles. -/
  | waitResend (st : Nat)
  /-- SETT_COMPLETE (R71): A sett whose CTL.END has issued finishes draining and completes. -/
  | settComplete (st : Nat)
  /-- RESUME (R375): The client answers a waiting fault and the transfer translates again from its resume point. -/
  | resume (client : Nat) (faultId : BitVec 48)
  /-- FAIL (R375): The client answers a waiting fault and Stile ends the run with 0x0310. -/
  | fail (client : Nat) (faultId : BitVec 48)
  /-- XLAT_FQ_TAIL_WRITE (R374): The client frees fault-ring slots and held records are written in FAULT_ID order. -/
  | xlatFqTailWrite (client : Nat) (value : W32)
  /-- XLAT_FQ_BASE_WRITE (R373): Sets the fault-ring base and retries a record that could not be written. -/
  | xlatFqBaseWrite (client : Nat) (value : W64)
  /-- XLAT_FQ_CTRL_WRITE (R373): Sets the fault-ring control and retries a record that could not be written. -/
  | xlatFqCtrlWrite (client : Nat) (value : W32)
  /-- INVALIDATE (R369): Starts invalidation of a client's translations over an aligned range. -/
  | invalidate (va : W64) (ctrl : W32)
  /-- INVALIDATION_DONE (R369): An invalidation completes and XLAT_INV_DONE reports its sequence number. -/
  | invalidationDone
  /-- QUEUE_POLL (R396): A queue's poll interval expires and Stile reads its header and fetches descriptors. -/
  | queuePoll (client : Nat) (queue : Nat)
  /-- NOP (R392): A NOP descriptor completes at once, after its barrier if it has one. -/
  | nop (client : Nat) (queue : Nat)
  /-- RUN (R399): A fetched RUN descriptor becomes a ready run of its queue's class. -/
  | run (client : Nat) (queue : Nat) (manifest : Manifest)
  /-- COPY (R394): A COPY descriptor starts moving bytes between translated addresses. -/
  | copy (client : Nat) (queue : Nat)
  /-- COPY_COMPLETE (R394): A COPY finishes moving its bytes and completes. -/
  | copyComplete (client : Nat) (queue : Nat)
  /-- SCHEDULE_RUN (R400): With the array free and a run ready, Stile chooses the next run by class and deficit. -/
  | scheduleRun
  /-- SLICE_EXPIRY (R401): A run holds the array for its class slice while another client waits, and Stile pre-empts it. -/
  | sliceExpiry
  /-- PREEMPT (R376): The PF requests pre-emption of the running run. -/
  | preempt
  /-- PREEMPTION_SAVE_DONE (R377): The drain and save of a pre-empted run complete and the array passes on. -/
  | preemptionSaveDone
  /-- STOP (R410): The PF ends the running run with 0x0109. -/
  | stop
  /-- RUN_WATCHDOG_EXPIRY (R404): A run's watchdog reaches its budget and Stile ends it with 0x0104. -/
  | runWatchdogExpiry
  /-- CLIENT_RESET (R407): A write of STILE_CLIENT_RESET resets one client. -/
  | clientReset (client : Nat)
  /-- VF_FLR (R387): A function-level reset of a VF resets that client. -/
  | vfFlr (client : Nat)
  /-- PF_FLR (R387): A function-level reset of the PF resets every client and the Stile and translation registers. -/
  | pfFlr
  /-- QUEUE_ENABLE (R395): Writing EN of a queue clears ERR and resumes polling from the current TAIL. -/
  | queueEnable (client : Nat) (queue : Nat) (value : W32)
  /-- STILE_CQ_TAIL_WRITE (R405): The client frees completion-ring slots and waiting records are written. -/
  | stileCqTailWrite (client : Nat) (value : W32)
  /-- STILE_CQ_BASE_WRITE (R405): Sets the completion-ring base and retries a record that could not be written. -/
  | stileCqBaseWrite (client : Nat) (value : W64)
  /-- STILE_CQ_CTRL_WRITE (R405): Sets the completion-ring control and retries a record that could not be written. -/
  | stileCqCtrlWrite (client : Nat) (value : W32)
  /-- HOLDOFF_EXPIRY (R406): The interrupt holdoff ends and a deferred MSI-X signal is sent. -/
  | holdoffExpiry (client : Nat)
  /-- BAR2_READ (R389): A host read through BAR2 translates and returns device memory, or all ones. -/
  | bar2Read (client : Nat) (offset : Nat) (len : Nat)
  /-- BAR2_WRITE (R389): A host write through BAR2 translates and writes device memory, or is discarded. -/
  | bar2Write (client : Nat) (offset : Nat) (bytes : List Byte)
  /-- CONFIG_REQUEST (R501): A host configuration request arrives, answered with Request Retry Status before READY. -/
  | configRequest (client : Nat) (offset : Nat) (write : Option W32)
  /-- STREAM_OPEN (R469): Opens a codec stream from its stream block, taking a context and entries. -/
  | streamOpen (client : Nat) (queue : Nat)
  /-- STREAM_FLUSH (R487): Drives a codec stream to the end of its input or picture count. -/
  | streamFlush (client : Nat) (queue : Nat)
  /-- STREAM_CLOSE (R487): Ends a codec stream and releases its context and entries. -/
  | streamClose (client : Nat) (queue : Nat)
  /-- CODEC_SLICE_START (R478): A ready stream takes a codec core by class and starts its next slice. -/
  | codecSliceStart (core : Nat)
  /-- CODEC_SLICE_COMPLETE (R477): A core finishes its slice, and the core may switch stream; `part` is what the core had of the slice,
  in luma samples. -/
  | codecSliceComplete (core : Nat) (part : Nat)
  /-- BUDGET_EXPIRY (R481): A core's cycle budget for a picture expires, and it conceals or fills the rest. -/
  | budgetExpiry (core : Nat)
  /-- CODEC_FAULT_LIMIT_EXPIRY (R484): A codec fault unanswered for the fault limit ends the stream with 0x0607. -/
  | codecFaultLimitExpiry (core : Nat)
  /-- CODEC_CORE_FENCE (R488): Fences a codec core after its current slice. -/
  | codecCoreFence (core : Nat)
  /-- CODEC_CORE_UNFENCE (R488): Returns a fenced codec core to service. -/
  | codecCoreUnfence (core : Nat)
  /-- CODEC_CORE_TEST (R545): Starts the self-test of a fenced codec core. -/
  | codecCoreTest (core : Nat)
  /-- HOST_COLL_POST (R455): A host COLL descriptor posts a record for a host member. -/
  | hostCollPost (client : Nat) (queue : Nat)
  /-- HOST_COLL_OPEN (R455): A host COLL descriptor declares a group and binds it to a context. -/
  | hostCollOpen (client : Nat) (queue : Nat)
  /-- HOST_COLL_CLOSE (R455): A host COLL descriptor fails its collectives and frees the group. -/
  | hostCollClose (client : Nat) (queue : Nat)
  /-- COLLECTIVE_START (R437): A context starts its next collective in order of acceptance. -/
  | collectiveStart (ctx : Nat)
  /-- CHUNK_SEND (R446): A context holding a credit sends a DATA chunk as a Golger message. -/
  | chunkSend (ctx : Nat)
  /-- DATA_CHUNK (R447): A DATA chunk arrives and is checked, combined or refetched. -/
  | dataChunk (source : Nat) (chunk : Chunk)
  /-- ACK_CHUNK (R446): An ACK arrives, frees the send slot and returns staging credits. -/
  | ackChunk (source : Nat) (chunk : Chunk)
  /-- REFETCH (R447): A REFETCH arrives and the source sends its kept copy again. -/
  | refetch (source : Nat) (chunk : Chunk)
  /-- NOTICE (R449): A NOTICE arrives and the module adopts a higher group epoch. -/
  | notice (source : Nat) (chunk : Chunk)
  /-- ACK_LIMIT_EXPIRY (R447): No ACK arrives within the limit, and the chunk is resent or the collective fails. -/
  | ackLimitExpiry (ctx : Nat) (slot : Nat)
  /-- GROUP_TIMEOUT (R450): A collective's timer reaches the group timeout and the collective fails. -/
  | groupTimeout (ctx : Nat)
  /-- COLLECTIVE_COMPLETE (R444): A collective completes, writes its status word and advances CEVT. -/
  | collectiveComplete (ctx : Nat)
  /-- CONTEXT_TAKE_DOWN (R456): Takes a Mortar context down live. -/
  | contextTakeDown (ctx : Nat)
  /-- CONTEXT_RETURN (R456): Returns a Mortar context to the free pool. -/
  | contextReturn (ctx : Nat)
  /-- PORT_TRAIN (R412): A write of ADMIN = 0 has Hearth train a Golger port. -/
  | portTrain (port : Nat)
  /-- TRAINING_COMPLETE (R412): Port training ends, the port enters UP or fails with 0x0504. -/
  | trainingComplete (port : Nat) (ok : Bool) (lanes : BitVec 8) (peer : Nat)
  /-- PORT_TAKE_DOWN (R425): A write of ADMIN = 1 puts a port into DRAINING. -/
  | portTakeDown (port : Nat)
  /-- DRAIN_LIMIT_EXPIRY (R425): The drain limit ends, messages are aborted and the port is disabled. -/
  | drainLimitExpiry (port : Nat)
  /-- LINK_FAULT (R426): A port leaves UP through a link fault and its partial messages are abandoned. -/
  | linkFault (port : Nat)
  /-- DATA_FLIT (R417): A data flit arrives and is accepted, routed or delivered, or discarded. -/
  | dataFlit (port : Nat) (flit : Flit)
  /-- IDLE_FLIT (R416): An idle flit arrives carrying ACK and credits. -/
  | idleFlit (port : Nat) (flit : Flit)
  /-- CREDIT_ONLY_FLIT (R419): A credit-only flit returns credits to a sender. -/
  | creditOnlyFlit (port : Nat) (flit : Flit)
  /-- REPLAY_REQUEST (R417): A replay request arrives and the sender resends from the named SEQ. -/
  | replayRequest (port : Nat) (flit : Flit)
  /-- ABORT_FLIT (R426): An abort flit arrives and the partial message is discarded. -/
  | abortFlit (port : Nat) (flit : Flit)
  /-- STALL_LIMIT_EXPIRY (R424): A flit waits for a credit beyond the stall limit and the fabric alarm rises. -/
  | stallLimitExpiry (port : Nat)
  /-- GOLGER_MODULE_ID_WRITE (R427): Sets the module identifier, ignored unless every port is down or disabled. -/
  | golgerModuleIdWrite (value : W32)
  /-- SCRUB_BURST (R345): Patrol scrub reads a burst and writes back corrected or poisoned data. -/
  | scrubBurst (die : Nat) (addr : Nat)
  /-- MAP_RELEASE_RETRY (R510): After a rejected release list, MAP_RELEASE is posted again after 3,125,000 ticks. -/
  | mapReleaseRetry (die : Nat)
  /-- MAP_RELEASE_ANS (R510): The driver names the released frames and Hearth checks the list. -/
  | mapReleaseAns (mb : Nat) (msg : List Byte)
  /-- MAPOUT_COPY_START (R343): At a job boundary the copy engine starts copying the channel into released frames. -/
  | mapoutCopyStart (die : Nat)
  /-- MAPOUT_COMMIT (R343): The copy ends and the controller commits the mapping out. -/
  | mapoutCommit (die : Nat)
  /-- ZQ_CALIBRATION (R535): A memory device runs its periodic ZQ calibration inside refresh. -/
  | zqCalibration (die : Nat) (device : Nat)
  /-- TIMING_ADJUSTMENT (R535): Core 2 adjusts a pseudo-channel's timing behind refresh once per second. -/
  | timingAdjustment (die : Nat) (pc : Nat)
  /-- AGING_READOUT (R535): Core 3 reads aging slack and raises the core rail or lowers the clock step. -/
  | agingReadout (slack : Int)
  /-- TELEMETRY_SAMPLE (R539): Telemetry is sampled once per PWR_SAMPLE period. -/
  | telemetrySample
  /-- SUPPLY_SAMPLE (R529): The power controller samples the supply and raises the emergency level or trips. -/
  | supplySample (watts : Nat) (millivolts : Nat) (amps : Nat)
  /-- JUNCTION_SAMPLE (R525): The power controller samples junction temperatures and acts on the thermal limits. -/
  | junctionSample (tj : Int)
  /-- LEVEL_FALL (R529): The higher level's conditions stay clear for 3,125 ticks and the level falls one step. -/
  | levelFall
  /-- CLOCK_STEP_DOWN (R529): At level 1 the clock step falls by one each microsecond. -/
  | clockStepDown
  /-- CLOCK_STEP_UP (R529): At level 1 the clock step rises by one after 3,125 ticks below 95 % of the limit. -/
  | clockStepUp
  /-- REGULATOR_FAULT (R540): A rail regulator reports a fault and the crash record freezes. -/
  | regulatorFault (rail : Nat)
  /-- GATE_IDLE_EXPIRY (R533): The array stays idle for PWR_GATE_IDLE ticks and sett columns gate. -/
  | gateIdleExpiry
  /-- WAKE_COMPLETE (R534): A gated unit finishes waking, or its PLL fails to lock. -/
  | wakeComplete (unit : Nat) (locked : Bool)
  /-- CRASH_COPY_COMPLETE (R555): The frozen crash record finishes copying to the flash crash region. -/
  | crashCopyComplete
  /-- REARM (R540): Releases the crash record for the next fatal error. -/
  | rearm
  /-- HEARTH_WDOG_EXPIRY (R493): A Hearth core's watchdog expires and the core is reset or halted. -/
  | hearthWdogExpiry (core : Nat)
  /-- KICK (R493): A write restarts a Hearth core's watchdog count. -/
  | kick (core : Nat)
  /-- NACK (R509): The host marks a notification consumed and the next waiting one is posted. -/
  | nack
  /-- MAILBOX_RESET (R508): Resets mailbox 0 to its state before HELLO. -/
  | mailboxReset
  /-- HELLO (R508): Negotiates the mailbox version. -/
  | hello (mb : Nat) (msg : List Byte)
  /-- GET_INFO (R508): Returns running version, SVN, slot, trial state and serial number. -/
  | getInfo (mb : Nat) (msg : List Byte)
  /-- FW_STAGE (R515): Starts copying an image into the inactive flash slot. -/
  | fwStage (mb : Nat) (msg : List Byte)
  /-- FW_STAGE_COMPLETE (R515): Staging finishes erasing, programming and reading back the slot, and answers. -/
  | fwStageComplete (ok : Bool)
  /-- FW_VERIFY (R498): Verifies the staged image. -/
  | fwVerify (mb : Nat) (msg : List Byte)
  /-- FW_ACTIVATE (R517): Activates the verified staged image, or defers it during an emergency. -/
  | fwActivate (mb : Nat) (msg : List Byte)
  /-- ACTIVATION_CLEAR_EXPIRY (R516): The emergency level stays below 2 for 3,125,000 ticks and a deferred activation runs. -/
  | activationClearExpiry
  /-- FW_CANCEL (R516): Ends a deferred activation. -/
  | fwCancel (mb : Nat) (msg : List Byte)
  /-- FW_COMMIT (R518): Ends the trial and raises the OTP SVN count. -/
  | fwCommit (mb : Nat) (msg : List Byte)
  /-- FW_STATUS (R508): Returns HEARTH_FW_STATUS. -/
  | fwStatus (mb : Nat) (msg : List Byte)
  /-- OTP_READ (R508): Returns bytes of OTP. -/
  | otpRead (mb : Nat) (msg : List Byte)
  /-- OTP_WRITE_GEN (R513): Programs the next blank settings generation. -/
  | otpWriteGen (mb : Nat) (msg : List Byte)
  /-- OTP_REVOKE (R514): Revokes a signing key when another valid key signed the running image. -/
  | otpRevoke (mb : Nat) (msg : List Byte)
  /-- LOG_READ (R508): Returns bytes of the log partition. -/
  | logRead (mb : Nat) (msg : List Byte)
  /-- CRASH_READ (R555): Returns bytes of a stored crash record. -/
  | crashRead (mb : Nat) (msg : List Byte)
  /-- GET_VERSION (R504): SPDM request for supported versions. -/
  | getVersion (path : Nat) (body : List Byte)
  /-- GET_CAPABILITIES (R504): SPDM request for capabilities. -/
  | getCapabilities (path : Nat) (body : List Byte)
  /-- NEGOTIATE_ALGORITHMS (R504): SPDM request negotiating P-521 and SHA-512. -/
  | negotiateAlgorithms (path : Nat) (body : List Byte)
  /-- GET_DIGESTS (R504): SPDM request for certificate chain digests. -/
  | getDigests (path : Nat) (body : List Byte)
  /-- GET_CERTIFICATE (R505): SPDM request for the certificate chain. -/
  | getCertificate (path : Nat) (body : List Byte)
  /-- CHALLENGE (R505): SPDM request answered with a response signed by the identity key. -/
  | challenge (path : Nat) (body : List Byte)
  /-- GET_MEASUREMENTS (R504): SPDM request for measurement slots or the measurement log. -/
  | getMeasurements (path : Nat) (body : List Byte)
  /-- SPDM_UNSUPPORTED_REQUEST (R504): Any other SPDM request is answered with ERROR UnsupportedRequest. -/
  | spdmUnsupportedRequest (path : Nat) (body : List Byte)
  /-- SET_ENDPOINT_ID (R519): The MCTP bus owner assigns Hearth its endpoint ID. -/
  | setEndpointId (path : Nat) (eid : BitVec 8)
  /-- ACTIVATE_FIRMWARE (R520): A PLDM firmware-update activation, subject to the same deferral. -/
  | activateFirmware (path : Nat) (body : List Byte)
  /-- FENCE (R547): TEST_CMD fences a sett, ending the run that owns it. -/
  | fence (index : Nat)
  /-- UNFENCE (R546): TEST_CMD returns a fenced sett to service. -/
  | unfence (index : Nat)
  /-- SELF_TEST (R545): TEST_CMD starts a self-test or loopback test of a unit. -/
  | selfTest (unit : Nat) (index : Nat) (urgent : Bool) (persist : Bool)
  /-- RETRAIN (R536): TEST_CMD requests retraining of an HBM stack or fallow package. -/
  | retrain (unit : Nat) (index : Nat) (urgent : Bool)
  /-- TEST_DEFERRED_START (R545): A waiting test or retraining starts at the next job boundary. -/
  | testDeferredStart
  /-- SELF_TEST_COMPLETE (R546): A self-test ends, recording its result and any repair-log entry. -/
  | selfTestComplete (pass : Bool)
  /-- RETRAIN_COMPLETE (R536): The PHY training engine returns a retrained device to service. -/
  | retrainComplete (ok : Bool)
  /-- WARM_RESET (R553): TEST_RESET.WARM starts a warm module reset. -/
  | warmReset
  /-- COLD_RESET (R552): TEST_RESET.COLD starts a cold module reset. -/
  | coldReset
  /-- PERST (R552): PERST# falls and the module takes a warm reset. -/
  | perst
  /-- MRST (R552): MRST# falls and the module takes a cold reset. -/
  | mrst
  /-- PCIE_HOT_RESET (R552): A PCIe hot reset or link disable causes a warm reset. -/
  | pcieHotReset
  /-- POWER_UP (R571): Input power rises past 48 V and the always-on domain and rails come up. -/
  | powerUp
  /-- POWER_LOSS (R552): Input power is removed and all volatile state is lost. -/
  | powerLoss
  /-- BOOT_START (R499): MRST# and PERST# are both high and boot runs its steps to READY or Recovery. -/
  | bootStart (env : BootEnv)
  /-- REFCLK_LOSS (R569): REFCLK is lost while the link is up and the link goes down. -/
  | refclkLoss
  /-- BYPASS (R572): TAP instruction selecting the bypass register. -/
  | bypass
  /-- IDCODE (R572): TAP instruction selecting each die's IDCODE. -/
  | idcode
  /-- SAMPLE_PRELOAD (R572): TAP instruction sampling or preloading the boundary register. -/
  | samplePreload
  /-- EXTEST (R572): TAP instruction driving pins from the boundary register while MRST# is low. -/
  | extest
  /-- CLAMP (R572): TAP instruction holding outputs while bypassing, while MRST# is low. -/
  | clamp
  /-- HIGHZ (R572): TAP instruction placing outputs in high impedance, while MRST# is low. -/
  | highz
  /-- EXTEST_PULSE (R572): IEEE 1149.6 pulse test of AC-coupled lanes, while MRST# is low. -/
  | extestPulse
  /-- EXTEST_TRAIN (R572): IEEE 1149.6 train test of AC-coupled lanes, while MRST# is low. -/
  | extestTrain
  /-- REG64_SHADOW_READ (R12): A low-word read of a 64-bit register captures the high word in the function's shadow. -/
  | reg64ShadowRead (client : Nat) (offset : Nat)
  /-- REGISTER_WRITE (R13): A write to a register with no row of its own applies its access codes and 64-bit staging. -/
  | registerWrite (client : Nat) (offset : Nat) (value : W32)
  /-- UNKNOWN_MESSAGE_TYPE (R507): A mailbox request whose TYPE is unknown or not allowed on that mailbox or mode is answered with 0x0703. -/
  | unknownMessageType (mb : Nat) (msg : List Byte)
  /-- HEARTH_MEMORY_UNCORRECTABLE (R540): An uncorrectable error in Hearth memory is a fatal hardware error that freezes the crash record. -/
  | hearthMemoryUncorrectable (core : Nat)
  /-- MRST_RISE (R567): MRST# rises, ending a level-M reset: the straps are sampled and the TAP returns from EXTEST to BYPASS. -/
  | mrstRise (straps : BitVec 4)
  deriving DecidableEq, Repr

end Sys2Proof
end

