-- ==== Sys2Proof/Decode.lean ====
section
/-! DEFINITION. The sett instruction that a word of code spells (R77, R78, R95–R117). -/

namespace Sys2Proof

/-! Header and operand layouts (R77, R96) -/

def hdrOf (w : W64) : Hdr := ⟨w.getLsbD 52, w.extractLsb' 48 4, w.extractLsb' 45 3⟩
def layC (w : W64) : LayC := ⟨w.extractLsb' 40 5, w.extractLsb' 0 32⟩
/-- Bits [33:0] of layout S hold IMM where I is set, and else SB in their highest five. -/
def layS (w : W64) : LayS :=
  let i := w.getLsbD 34
  ⟨w.extractLsb' 40 5, w.extractLsb' 35 5, i, if i then 0 else w.extractLsb' 29 5, if i then w.extractLsb' 0 34 else 0⟩
def layT (w : W64) : LayT :=
  ⟨w.extractLsb' 41 4, w.extractLsb' 37 4, w.extractLsb' 33 4, w.extractLsb' 28 5, w.extractLsb' 23 5, w.extractLsb' 18 5
   , w.extractLsb' 0 18⟩
def layV (w : W64) : LayV :=
  ⟨w.extractLsb' 40 5, w.extractLsb' 35 5, w.extractLsb' 30 5, w.extractLsb' 25 5, w.extractLsb' 22 3, w.extractLsb' 18 4
   , w.extractLsb' 13 5, w.extractLsb' 10 3⟩
def layF (w : W64) : LayF := ⟨w.extractLsb' 40 5, w.extractLsb' 35 5, w.extractLsb' 30 5, w.getLsbD 29⟩
def layW (w : W64) : LayW :=
  ⟨w.extractLsb' 41 4, w.extractLsb' 37 4, w.extractLsb' 21 12, w.extractLsb' 9 12, w.extractLsb' 5 4, w.getLsbD 4
   , w.getLsbD 3, w.getLsbD 2, w.extractLsb' 0 2⟩
def layB (w : W64) : LayB :=
  ⟨w.extractLsb' 41 4, w.extractLsb' 37 4, w.extractLsb' 33 4, w.extractLsb' 28 5, w.extractLsb' 23 5, w.extractLsb' 18 5
   , w.getLsbD 17, w.extractLsb' 0 17⟩

/-! Opcodes by class (R97–R117) -/

/-- Class 0x0 (R97). -/
def decode0 (st : Nat) (w : W64) : Nat → Option Instr
  | 0 => some (.ctlBr st (hdrOf w) (layC w))
  | 1 => some (.ctlLoop st (hdrOf w) (layC w))
  | 2 => some (.ctlEnd st (hdrOf w) (layC w))
  | _ => none

/-- Class 0x1 (R98). -/
def decode1 (st : Nat) (w e : W64) : Nat → Option Instr
  | 0 => some (.sclAdd st (hdrOf w) (layS w))
  | 1 => some (.sclSub st (hdrOf w) (layS w))
  | 2 => some (.sclMul st (hdrOf w) (layS w))
  | 3 => some (.sclDivu st (hdrOf w) (layS w))
  | 4 => some (.sclRemu st (hdrOf w) (layS w))
  | 5 => some (.sclAnd st (hdrOf w) (layS w))
  | 6 => some (.sclOr st (hdrOf w) (layS w))
  | 7 => some (.sclXor st (hdrOf w) (layS w))
  | 8 => some (.sclShl st (hdrOf w) (layS w))
  | 9 => some (.sclShr st (hdrOf w) (layS w))
  | 10 => some (.sclSra st (hdrOf w) (layS w))
  | 11 => some (.sclMin st (hdrOf w) (layS w))
  | 12 => some (.sclMax st (hdrOf w) (layS w))
  | 13 => some (.sclMinu st (hdrOf w) (layS w))
  | 14 => some (.sclMaxu st (hdrOf w) (layS w))
  | 15 => some (.sclLi st (hdrOf w) (layS w) e)
  | 16 => some (.sclCmpEq st (hdrOf w) (layS w))
  | 17 => some (.sclCmpNe st (hdrOf w) (layS w))
  | 18 => some (.sclCmpLt st (hdrOf w) (layS w))
  | 19 => some (.sclCmpLe st (hdrOf w) (layS w))
  | 20 => some (.sclCmpLtu st (hdrOf w) (layS w))
  | 21 => some (.sclCmpLeu st (hdrOf w) (layS w))
  | 32 => some (.descSet st (hdrOf w) (layS w))
  | 33 => some (.descAdj st (hdrOf w) (layS w))
  | 34 => some (.descValid st (hdrOf w) (layS w))
  | 35 => some (.descGet st (hdrOf w) (layS w))
  | _ => none

/-- Class 0x2 (R99). -/
def decode2 (st : Nat) (w : W64) : Nat → Option Instr
  | 0 => some (.strLoad st (hdrOf w) (layT w))
  | 1 => some (.strStore st (hdrOf w) (layT w))
  | 2 => some (.strGather st (hdrOf w) (layT w))
  | 3 => some (.strScan st (hdrOf w) (layT w))
  | 4 => some (.strPref st (hdrOf w) (layT w))
  | 5 => some (.strCopy st (hdrOf w) (layT w))
  | _ => none

/-- Class 0x3 (R100). -/
def decode3 (st : Nat) (w : W64) : Nat → Option Instr
  | 0 => some (.mmaWld st (hdrOf w) (layT w))
  | 1 => some (.mma st (hdrOf w) (layT w))
  | 2 => some (.ldgAnchor st (hdrOf w) (layT w))
  | 3 => some (.ldgCvt st (hdrOf w) (layT w))
  | _ => none

/-- Class 0x4 (R104). -/
def decode4 (st : Nat) (w : W64) : Nat → Option Instr
  | 0 => some (.vecAdd st (hdrOf w) (layV w))
  | 1 => some (.vecSub st (hdrOf w) (layV w))
  | 2 => some (.vecMul st (hdrOf w) (layV w))
  | 3 => some (.vecFma st (hdrOf w) (layV w))
  | 4 => some (.vecMax st (hdrOf w) (layV w))
  | 5 => some (.vecMin st (hdrOf w) (layV w))
  | 6 => some (.vecAbs st (hdrOf w) (layV w))
  | 7 => some (.vecCmp st (hdrOf w) (layV w))
  | 8 => some (.vecSel st (hdrOf w) (layV w))
  | 9 => some (.vecBcast st (hdrOf w) (layV w))
  | 10 => some (.vecLd st (hdrOf w) (layV w))
  | 11 => some (.vecSt st (hdrOf w) (layV w))
  | 12 => some (.vecIadd st (hdrOf w) (layV w))
  | 13 => some (.vecPerm st (hdrOf w) (layV w))
  | 14 => some (.vecRsum st (hdrOf w) (layV w))
  | _ => none

/-- Class 0x5 (R105). -/
def decode5 (st : Nat) (w : W64) : Nat → Option Instr
  | 0 => some (.fnTanh st (hdrOf w) (layF w))
  | 1 => some (.fnSig st (hdrOf w) (layF w))
  | 2 => some (.gateSig st (hdrOf w) (layF w))
  | 3 => some (.gateTanh st (hdrOf w) (layF w))
  | 4 => some (.gateSilu st (hdrOf w) (layF w))
  | 5 => some (.gateGelu st (hdrOf w) (layF w))
  | _ => none

/-- Class 0x6 (R107). -/
def decode6 (st : Nat) (w : W64) : Nat → Option Instr
  | 0 => some (.rowNorm st (hdrOf w) (layT w))
  | 1 => some (.rowRms st (hdrOf w) (layT w))
  | 2 => some (.rowSmax st (hdrOf w) (layT w))
  | 3 => some (.rowStat st (hdrOf w) (layT w))
  | _ => none

/-- Class 0x7 (R108). -/
def decode7 (st : Nat) (w e : W64) : Nat → Option Instr
  | 0 => some (.winConv st (hdrOf w) (layW w) e)
  | 1 => some (.winPool st (hdrOf w) (layW w) e)
  | 2 => some (.fftR4 st (hdrOf w) (layT w))
  | 3 => some (.fftR8 st (hdrOf w) (layT w))
  | 4 => some (.fftCmul st (hdrOf w) (layT w))
  | _ => none

/-- Class 0x8 (R109). -/
def decode8 (st : Nat) (w : W64) : Nat → Option Instr
  | 0 => some (.sortPairs st (hdrOf w) (layT w))
  | 1 => some (.sortTopk st (hdrOf w) (layT w))
  | 2 => some (.sortMerge st (hdrOf w) (layT w))
  | _ => none

/-- Class 0x9 (R110). -/
def decode9 (st : Nat) (w : W64) : Nat → Option Instr
  | 0 => some (.attnStep st (hdrOf w) (layT w))
  | 1 => some (.attnMerge st (hdrOf w) (layT w))
  | 2 => some (.kvScatter st (hdrOf w) (layT w))
  | 3 => some (.kvLoad st (hdrOf w) (layT w))
  | 4 => some (.kvSumm st (hdrOf w) (layT w))
  | 5 => some (.cairnLookup st (hdrOf w) (layT w))
  | 6 => some (.cairnFill st (hdrOf w) (layT w))
  | 7 => some (.cairnFlip st (hdrOf w) (layT w))
  | _ => none

/-- Class 0xA (R111). -/
def decodeA (st : Nat) (w : W64) : Nat → Option Instr
  | 0 => some (.haloPut st (hdrOf w) (layT w))
  | 1 => some (.haloTake st (hdrOf w) (layT w))
  | 2 => some (.haloSpill st (hdrOf w) (layT w))
  | 3 => some (.haloFill st (hdrOf w) (layT w))
  | _ => none

/-- Class 0xB (R112). -/
def decodeB (st : Nat) (w e : W64) : Nat → Option Instr
  | 0 => some (.syncWait st (hdrOf w) (layB w))
  | 1 => some (.syncFence st (hdrOf w) (layB w))
  | 2 => some (.syncWaitge st (hdrOf w) (layB w))
  | 3 => some (.wcTake st (hdrOf w) (layB w))
  | 4 => some (.atomMax st (hdrOf w) (layB w))
  | 5 => some (.atomMin st (hdrOf w) (layB w))
  | 6 => some (.atomXchg st (hdrOf w) (layB w))
  | 7 => some (.atomCas st (hdrOf w) (layB w) e)
  | 8 => some (.redAdd st (hdrOf w) (layB w))
  | 9 => some (.redMax st (hdrOf w) (layB w))
  | _ => none

/-- Class 0xC (R114). -/
def decodeC (st : Nat) (w : W64) : Nat → Option Instr
  | 0 => some (.collPost st (hdrOf w) (layT w))
  | _ => none

/-- Class 0xD (R115). -/
def decodeD (st : Nat) (w : W64) : Nat → Option Instr
  | 0 => some (.updSweep st (hdrOf w) (layT w))
  | _ => none

/-- Class 0xE (R116). -/
def decodeE (st : Nat) (w : W64) : Nat → Option Instr
  | 0 => some (.qntCvt st (hdrOf w) (layT w))
  | 1 => some (.escCheck st (hdrOf w) (layT w))
  | 2 => some (.escMark st (hdrOf w) (layT w))
  | 3 => some (.escPin st (hdrOf w) (layT w))
  | 4 => some (.escClr st (hdrOf w) (layT w))
  | _ => none

/-- Class 0xF (R117). -/
def decodeF (st : Nat) (w : W64) : Nat → Option Instr
  | 0 => some (.sysNop st (hdrOf w) (layS w))
  | 1 => some (.sysCaps st (hdrOf w) (layS w))
  | 2 => some (.sysFlags st (hdrOf w) (layS w))
  | _ => none

/-- The sett instruction that base word `w` spells, with `e` the word after it, which is its extension word where X is set
(R77, R78); none for a word that admission rejects at level 3 (R80, R292). -/
def decodeSett (st : Nat) (w e : W64) : Option Instr :=
  let op := (w.extractLsb' 54 6).toNat
  if (Machine.wordFault 3 w.toNat (some e.toNat)).isSome then none
  else match (w.extractLsb' 60 4).toNat with
    | 0 => decode0 st w op
    | 1 => decode1 st w e op
    | 2 => decode2 st w op
    | 3 => decode3 st w op
    | 4 => decode4 st w op
    | 5 => decode5 st w op
    | 6 => decode6 st w op
    | 7 => decode7 st w e op
    | 8 => decode8 st w op
    | 9 => decode9 st w op
    | 10 => decodeA st w op
    | 11 => decodeB st w e op
    | 12 => decodeC st w op
    | 13 => decodeD st w op
    | 14 => decodeE st w op
    | _ => decodeF st w op

/-- The command that `nbits` bits spell: a base word, alone or with its extension word, as sett 0 issues it. The command table
gives its rows no bits; these are the words of R77, and a word with X set takes its extension word with it (R78). -/
def decodeTableWord (nbits w : Nat) : Option Instr :=
  if (nbits = 64 ∧ !w.testBit 53) ∨ (nbits = 128 ∧ w.testBit 53) then decodeSett 0 (BitVec.ofNat 64 w) (BitVec.ofNat 64 (w / 2 ^ 64)) else none

end Sys2Proof
end

