-- ==== Sys2Proof/Config.lean ====
section
/-! DEFINITION. Values the spec leaves open, as constants with no body: nothing can be proved of
their values. The assumption log names each. -/

namespace Sys2Proof

/-! What the codec standards make of a stream's bytes (R460, R464) -/

/-- A profile that a sequence header names; the other ones are `other`. -/
inductive Profile where
  | av1Main | av1Professional
  | hevcMain | hevcMain10 | hevcMainStill | hevcMain422x10
  | avcConstrainedBaseline | avcMain | avcProgressiveHigh | avcHigh | avcHigh10 | avcHigh422
  | vvcMain10 | vvcMain10Still | vvcMain10x444
  | other
  deriving DecidableEq, Repr, Inhabited

/-- Sampling of a stream's content. -/
inductive Sampling where
  | mono | s420 | s422 | s444
  deriving DecidableEq, Repr, Inhabited

/-- A sequence header: profile, ten times the level, bits, sampling, coded size, sps_max_dec_pic_buffering_minus1 of the highest
sub-layer, max_dec_frame_buffering where it is there, and whether it uses a feature that R460 does not support. -/
structure SeqHeader where
  profile : Profile
  level : Nat
  depth : Nat
  sampling : Sampling
  width : Nat
  height : Nat
  maxDec : Nat
  maxFrames : Option Nat
  excluded : Bool
  deriving DecidableEq, Repr, Inhabited

/-- A rectangle of luma samples. -/
structure Rect where
  x : Nat
  y : Nat
  w : Nat
  h : Nat
  deriving DecidableEq, Repr, Inhabited

/-- A picture header: the cropped size, KEY, film grain, layer, a feature outside R460, the place in output order (none: output
only by number), whether it outputs in decode order, its references, first one first, by the number of the decoded picture
(none: never received), and what the standard does at its end: reference marks and outputs, by number. -/
structure PicHeader where
  width : Nat
  height : Nat
  key : Bool
  grain : Bool
  layer : Nat
  excluded : Bool
  order : Option Int
  inOrder : Bool
  refs : List (Option Nat)
  marks : List (Nat × Nat)
  shows : List Nat
  deriving DecidableEq, Repr, Inhabited

/-- A read of reference number `ref` of the picture, and the blocks that need it. -/
structure RefRead where
  ref : Nat
  src : Rect
  dst : Rect
  deriving DecidableEq, Repr, Inhabited

/-- What one NAL unit or OBU brings: a sequence header, the header of a picture that begins, the blocks decoded and those a failed
check or an early end loses (R480), reads of references, the luma rows final behind it, the parts in which it divides, whether it
is its picture's last, and pictures shown besides. -/
structure UnitInfo where
  seq : Option SeqHeader
  pic : Option PicHeader
  good : List Rect
  lost : List Rect
  failed : Bool
  reads : List RefRead
  rows : Nat
  parts : Nat
  last : Bool
  shows : List Nat
  deriving DecidableEq, Repr, Inhabited

end Sys2Proof

namespace Sys2Proof.Config

/-- An unlisted byte of host memory, by bus address. -/
opaque hostByte : Nat → BitVec 8
/-- A fresh byte at each value of the state's counter, for contents the spec calls unspecified. -/
opaque freeByte : Nat → BitVec 8
/-- A fresh 64-bit word at each value of the state's counter. -/
opaque freeWord : Nat → BitVec 64

/-- Bytes of a settings generation that are programmed right, at each value of the state's counter: fewer than its 256 where the
write fails or is cut short (R513, R521). -/
opaque otpDone : Nat → Nat

/-- The product's hash from a Lintel line address to one of the 32 slices of its die (R350). -/
opaque lintelSlice : Nat → BitVec 5
/-- The set of its slice that a Lintel line takes (R350). -/
opaque lintelSet : Nat → BitVec 9
/-- Which line of a full set leaves, and which entry of a full TLB, at each value of the state's counter. -/
opaque lintelVictim : Nat → Nat
opaque tlbVictim : Nat → Nat

/-- Configuration dwords whose values only the product or the PCI Express base specification gives, by function and dword
(R386). -/
opaque cfgWord : Nat → Nat → BitVec 32

/-- Payload byte of the identity flit that a port of a module sends (R412): its form is not given. -/
opaque identityByte : Nat → Nat → Nat → BitVec 8
/-- Rank of a code of a format among those that compare equal, or the NaNs, in a collective MAX (1) or MIN (2): the one of the
highest rank is returned, so that the order of the sources has no part in it (R441). -/
opaque mortarRank : Nat → Nat → Nat → Nat

/-- What a merge of ranked runs writes where the spec leaves its result open, at a member and a place: a function of the
members' runs (R233, R235). -/
opaque mergeOpen : List Nat → Nat → BitVec 64

/-- How far ATTN.STEP's factor f stands from 2 T_exp where the compatibility flags' T_exp has no argument for it, in units of
2⁻³⁸, by the score's FP32 code (R197, R199). -/
opaque expAbove : Nat → BitVec 16

/-- What the decoding process of a stream block's standard reads in the next unit behind the bytes decoded so far (R464). -/
opaque decodeUnit : (block past unit : List (BitVec 8)) → UnitInfo
/-- A decoded sample of plane 0 to 2, by the same and by the bytes of the references that the unit reads. -/
opaque decodeSample : (block past unit refs : List (BitVec 8)) → (plane x y : Nat) → Nat
/-- The encoder's choices (R461, R464, R467): by the stream block, the input bytes read so far and the picture; then its tools'
bytes for a block at a QP, for a block as skip or flat intra, for the heads of a unit and of a slice, the block's QP, the
reconstructed sample, and the shaping of a picture's budget by VBV_BYTES and the picture's type (R485). -/
opaque blockCode : (block past : List (BitVec 8)) → (pic row col qp : Nat) → List (BitVec 8)
opaque fallbackCode : (block past : List (BitVec 8)) → (pic row col : Nat) → List (BitVec 8)
opaque pictureHead : (block past : List (BitVec 8)) → (pic : Nat) → List (BitVec 8)
opaque sliceHead : (block past : List (BitVec 8)) → (pic row col : Nat) → List (BitVec 8)
opaque blockQp : (block past : List (BitVec 8)) → (pic row col : Nat) → Nat
opaque reconSample : (block past : List (BitVec 8)) → (pic plane x y : Nat) → Nat
opaque pictureBudget : (base vbv : Nat) → (key : Bool) → (spent : List Nat) → Nat

/-- Padding byte of a halo spill record, by the record's bytes and a position (R275, R282). -/
opaque spillPad : List (BitVec 8) → Nat → BitVec 8

/-- Manifest versions that Stile knows (R291): their numbers are not given. -/
opaque manifestVersionKnown : Nat → Bool

/-- The signing key of a key index in the certificate store of the flash, by the store's bytes: its layout is not given (R498). -/
opaque storeKey : List (Nat × BitVec 8) → Nat → Nat × Nat
/-- Length and bytes of the certificate chain that the store holds (R505). -/
opaque storeChainLen : List (Nat × BitVec 8) → BitVec 16
opaque storeChain : List (Nat × BitVec 8) → Nat → BitVec 8
/-- The Boot ROM's digest, fixed at manufacture (R503). -/
opaque romDigest : BitVec 512
/-- The identity key's signature of a message (R505): the private key never leaves the block. -/
opaque identitySign : List (BitVec 8) → Nat → BitVec 8
/-- Does the path of a trace source to the trace buffer take the record of a number (R539)? -/
opaque tracePath : Nat → BitVec 32 → Bool
/-- Bytes of SPDM answers whose value is not given, by a tag and a position. -/
opaque docByte : Nat → Nat → BitVec 8
/-- The threshold of ring-oscillator slack below which the aging guard acts (R535). -/
opaque agingThreshold : Int

end Sys2Proof.Config
end

