-- ==== Sys2Proof/Machine/Num.lean ====
section
/-! DEFINITION. Exact numbers and their roundings: values of elements, FP32/BF16 rounding,
square roots and exponentials fixed to the bit (R124, R134, R176, R177, R189, R195). -/

namespace Sys2Proof.Machine

/-- The value an element or a chain step stands for: NaN, an infinity, or an exact number. -/
inductive Val where
  | nan
  | inf (neg : Bool)
  | fin (q : Rat)
  deriving DecidableEq, Repr

/-- `2 ^ e` for an integer `e`. -/
def pow2 (e : Int) : Rat :=
  if 0 ≤ e then ((2 ^ e.toNat : Nat) : Rat) else mkRat 1 (2 ^ (-e).toNat)

/-- Magnitude of a rational. -/
def ratAbs (q : Rat) : Rat := if q < 0 then -q else q

/-- `floor (log2 |q|)` for a nonzero `q` (0 for zero). -/
def ilog2 (q : Rat) : Int :=
  let a := q.num.natAbs
  if a = 0 then 0
  else
    let e : Int := (Nat.log2 a : Int) - (Nat.log2 q.den : Int)
    if pow2 e ≤ ratAbs q then e else e - 1

/-- Nearest integer, ties to even. -/
def roundEven (q : Rat) : Int :=
  let f := q.floor
  let r := q - (f : Rat)
  if r < mkRat 1 2 then f
  else if mkRat 1 2 < r then f + 1
  else if f % 2 = 0 then f else f + 1

/-- Integer part toward zero. -/
def truncInt (q : Rat) : Int := if q < 0 then -((-q).floor) else q.floor

/-- Truncation toward zero to a multiple of `2 ^ w` (R182). -/
def truncTo (q : Rat) (w : Int) : Rat := (truncInt (q * pow2 (-w)) : Rat) * pow2 w

/-- How a magnitude is rounded to an integer significand. -/
inductive Rounding where
  | nearest
  | zero
  deriving DecidableEq, Repr

/-- Significand rounding of a nonnegative rational. -/
def Rounding.apply : Rounding → Rat → Nat
  | .nearest, q => (roundEven q).toNat
  | .zero, q => q.floor.toNat

/-- Magnitude code (exponent field above an `m`-bit mantissa) of a nonnegative `q`, with gradual
underflow below `2 ^ emin` (R124, R125). -/
def magCode (rnd : Rounding) (m : Nat) (emin : Int) (q : Rat) : Nat :=
  if q = 0 then 0
  else
    let e := max (ilog2 q) emin
    (e - emin).toNat * 2 ^ m + rnd.apply (q * pow2 ((m : Int) - e))

/-- Value of a magnitude code (R124). -/
def magVal (m : Nat) (emin : Int) (code : Nat) : Rat :=
  let ef := code / 2 ^ m
  let mant := code % 2 ^ m
  if ef = 0 then (mant : Rat) * pow2 (emin - m)
  else ((2 ^ m + mant : Nat) : Rat) * pow2 ((ef : Int) - 1 + emin - m)

/-- FP32 bits of a value rounded by `rnd`; a zero is written +0 (R126), NaN canonical (R127). -/
def fp32Code (rnd : Rounding) : Val → Nat
  | .nan => 0x7FC00000
  | .inf n => if n then 0xFF800000 else 0x7F800000
  | .fin q =>
    let c0 := magCode rnd 23 (-126) (ratAbs q)
    let c := if c0 < 0x7F800000 then c0
      else match rnd with
        | .nearest => 0x7F800000
        | .zero => 0x7F7FFFFF
    if q < 0 && c ≠ 0 then 0x80000000 + c else c

/-- Value of FP32 bits. -/
def fp32Val (b : Nat) : Val :=
  let neg := b / 0x80000000 % 2 = 1
  let c := b % 0x80000000
  if 0x7F800000 < c then .nan
  else if c = 0x7F800000 then .inf neg
  else .fin (if neg then -(magVal 23 (-126) c) else magVal 23 (-126) c)

/-- BF16 bits, rounded to nearest even (R134). -/
def bf16Code : Val → Nat
  | .nan => 0x7FC0
  | .inf n => if n then 0xFF80 else 0x7F80
  | .fin q =>
    let c0 := magCode .nearest 7 (-126) (ratAbs q)
    let c := if c0 < 0x7F80 then c0 else 0x7F80
    if q < 0 && c ≠ 0 then 0x8000 + c else c

/-- Value of BF16 bits: the upper half of binary32. -/
def bf16Val (b : Nat) : Val := fp32Val (b * 0x10000)

/-- RN of R176. -/
def rn (v : Val) : Val := fp32Val (fp32Code .nearest v)
/-- RZ of R176. -/
def rz (v : Val) : Val := fp32Val (fp32Code .zero v)

/-- Rounding chosen by the compatibility flags. -/
def rnd32 (r : Rounding) (v : Val) : Val := fp32Val (fp32Code r v)

/-- Sign of a value as a Bool (zero is nonnegative). -/
def Val.isNeg : Val → Bool
  | .nan => false
  | .inf n => n
  | .fin q => decide (q < 0)

def Val.isNan : Val → Bool
  | .nan => true
  | _ => false

def Val.isFin : Val → Bool
  | .fin _ => true
  | _ => false

def Val.isZero : Val → Bool
  | .fin q => decide (q = 0)
  | _ => false

def Val.neg : Val → Val
  | .nan => .nan
  | .inf n => .inf (!n)
  | .fin q => .fin (-q)

def Val.abs : Val → Val
  | .nan => .nan
  | .inf _ => .inf false
  | .fin q => .fin (ratAbs q)

/-- Exact sum under IEEE 754 rules for infinities. -/
def Val.add : Val → Val → Val
  | .nan, _ => .nan
  | _, .nan => .nan
  | .inf a, .inf b => if a = b then .inf a else .nan
  | .inf a, .fin _ => .inf a
  | .fin _, .inf b => .inf b
  | .fin p, .fin q => .fin (p + q)

def Val.sub (a b : Val) : Val := a.add b.neg

/-- Exact product; zero times infinity is NaN. -/
def Val.mul : Val → Val → Val
  | .nan, _ => .nan
  | _, .nan => .nan
  | .inf a, .inf b => .inf (a != b)
  | .inf a, .fin q => if q = 0 then .nan else .inf (a != decide (q < 0))
  | .fin q, .inf a => if q = 0 then .nan else .inf (a != decide (q < 0))
  | .fin p, .fin q => .fin (p * q)

/-- Exact quotient; zeros carry no sign here. -/
def Val.div : Val → Val → Val
  | .nan, _ => .nan
  | _, .nan => .nan
  | .inf _, .inf _ => .nan
  | .inf a, .fin q => .inf (a != decide (q < 0))
  | .fin _, .inf _ => .fin 0
  | .fin p, .fin q => if q = 0 then (if p = 0 then .nan else .inf (decide (p < 0))) else .fin (p / q)

/-- Ordering of two values that are not NaN. -/
def Val.lt : Val → Val → Bool
  | .nan, _ => false
  | _, .nan => false
  | .inf a, .inf b => a && !b
  | .inf a, .fin _ => a
  | .fin _, .inf b => !b
  | .fin p, .fin q => decide (p < q)

def Val.max (a b : Val) : Val := if a.isNan || b.isNan then .nan else if a.lt b then b else a

/-- Clamp an integer into a range. -/
def clampInt (lo hi x : Int) : Int := if x < lo then lo else if hi < x then hi else x

/-! Square roots -/

/-- Bitwise integer square root from bit `b` down. -/
def isqrtGo (n : Nat) : Nat → Nat → Nat
  | 0, r => if (r + 1) * (r + 1) ≤ n then r + 1 else r
  | b + 1, r =>
    let c := r + 2 ^ (b + 1)
    isqrtGo n b (if c * c ≤ n then c else r)

/-- `floor (sqrt n)`. -/
def isqrt (n : Nat) : Nat := isqrtGo n (Nat.log2 n / 2 + 1) 0

/-- A rational that every FP32 rounding sends where it sends `sqrt q`, for FP32 `q ≥ 0`:
the root's integer part at scale `2^200` with a sticky half. -/
def sqrtStick (q : Rat) : Rat :=
  let x := q * pow2 400
  let f := x.floor.toNat
  let n := isqrt f
  if (n * n : Nat) = x then (n : Rat) * pow2 (-200)
  else ((2 * n + 1 : Nat) : Rat) * pow2 (-201)

/-- Rounded square root of a value that is not negative. -/
def sqrtR (r : Rounding) : Val → Val
  | .fin q => rnd32 r (.fin (sqrtStick q))
  | v => v

/-- RSQ of R177 (`r` nearest); under the flags the same chain rounds by RZ (R197). -/
def rsq (r : Rounding) (v : Val) : Val := rnd32 r ((Val.fin 1).div (sqrtR r v))

/-! Exponentials by rational enclosures -/

/-- Enclosure of `e^x` for `0 ≤ x ≤ 1/2` given as scaled bounds `xl/2^p ≤ x ≤ xh/2^p`. -/
def expSmall (p xl xh : Nat) : Nat → Nat → Nat → Nat → Nat → Nat → Nat × Nat
  | 0, _, _, th, sl, sh => (sl, sh + 2 * th + 2)
  | fuel + 1, n, tl, th, sl, sh =>
    let tl' := tl * xl / 2 ^ p / n
    let th' := (th * xh / 2 ^ p + 1) / n + 1
    expSmall p xl xh fuel (n + 1) tl' th' (sl + tl') (sh + th')

/-- Square both bounds `k` times. -/
def sqBounds (p : Nat) : Nat → Nat × Nat → Nat × Nat
  | 0, b => b
  | k + 1, (l, h) => sqBounds p k (l * l / 2 ^ p, h * h / 2 ^ p + 1)

/-- Enclosure of `e^x` for rational `x ≥ 0`, scaled by `2^p`. -/
def expPos (p : Nat) (x : Rat) : Nat × Nat :=
  let m := (ilog2 x + 2).toNat
  let y := x * pow2 (-(m : Int)) * pow2 p
  let xl := y.floor.toNat
  sqBounds p m (expSmall p xl (xl + 1) (p / 4 + 8) 1 (2 ^ p) (2 ^ p) (2 ^ p) (2 ^ p))

/-- Rational enclosure of `e^x`. -/
def expBounds (p : Nat) (x : Rat) : Rat × Rat :=
  if x = 0 then (1, 1)
  else if 0 < x then
    let b := expPos p x
    (mkRat b.1 (2 ^ p), mkRat b.2 (2 ^ p))
  else
    let b := expPos p (-x)
    (mkRat (2 ^ p) b.2, mkRat (2 ^ p) b.1)

/-- Working precisions tried in turn until both ends of an enclosure agree. -/
def precisions : List Nat := [256, 512, 1024, 2048]

/-- First precision whose bounds agree after `f`; the last lower bound otherwise. -/
def settleGo {α β : Type} [DecidableEq β] (bnd : Nat → α × α) (f : α → β) (dflt : β) : List Nat → β
  | [] => dflt
  | p :: ps =>
    let b := bnd p
    let l := f b.1
    if l = f b.2 then l else settleGo bnd f l ps

def settle {α β : Type} [DecidableEq β] (bnd : Nat → α × α) (f : α → β) (dflt : β) : β :=
  settleGo bnd f dflt precisions

/-- EM1 of R177: `RN(e^x − 1)`. Above 89 the result is past FP32, below −30 it rounds to −1. -/
def em1 : Val → Val
  | .nan => .nan
  | .inf n => if n then .fin (-1) else .inf false
  | .fin x =>
    if x = 0 then .fin 0
    else if 89 < x then .inf false
    else if x < -30 then .fin (-1)
    else settle (fun p => expBounds p x) (fun e => rn (.fin (e - 1))) .nan

/-- The logistic function of an exact `p`, rounded to nearest (R178, GATE.GELU). -/
def sigmaExact : Val → Val
  | .nan => .nan
  | .inf n => if n then .fin 0 else .fin 1
  | .fin p =>
    if 18 < p then .fin 1
    else if p < -105 then .fin 0
    else settle (fun k => expBounds k (-p)) (fun e => rn (.fin (1 / (1 + e)))) .nan

/-- Sum of `1 / ((2n+1) 9^n)` scaled by `2^p`, lower bound; each term loses below 1. -/
def ln2Sum (p : Nat) : Nat → Nat → Nat → Nat
  | 0, _, _ => 0
  | fuel + 1, n, pw => 2 ^ p / (pw * (2 * n + 1)) + ln2Sum p fuel (n + 1) (pw * 9)

/-- Rational enclosure of `ln 2 = (2/3) Σ 1/((2n+1) 9^n)`. -/
def ln2Bounds (p : Nat) : Rat × Rat :=
  let n := p / 3 + 4
  let s := ln2Sum p n 0 1
  (mkRat (2 * s : Nat) (3 * 2 ^ p), mkRat (2 * (s + n + 2) : Nat) (3 * 2 ^ p))

/-- `k` of R189: the integer nearest to `z / ln 2`. -/
def expK (z : Rat) : Int :=
  settle (fun p => let b := ln2Bounds p; (z / b.1, z / b.2)) roundEven 0

/-- `f` of R189: `RN(e^(z − k ln 2))`. -/
def expF (z : Rat) : Val :=
  if z = 0 then .fin 1
  else
    let k : Rat := (expK z : Rat)
    settle (fun p =>
        let b := ln2Bounds p
        let ya := z - k * b.1
        let yb := z - k * b.2
        let lo := if ya < yb then ya else yb
        let hi := if ya < yb then yb else ya
        ((expBounds p lo).1, (expBounds p hi).2))
      (fun e => rn (.fin e)) .nan

/-! LN5 tables (R195) -/

inductive Ln5Fn where
  | tanh
  | sig
  | exp
  deriving DecidableEq, Repr

/-- `RN(g(x))` at a node. -/
def Ln5Fn.node (f : Ln5Fn) (x : Rat) : Rat :=
  let v := match f with
    | .tanh => settle (fun p => expBounds p (2 * x)) (fun e => rn (.fin ((e - 1) / (e + 1)))) .nan
    | .sig => settle (fun p => expBounds p (-x)) (fun e => rn (.fin (1 / (1 + e)))) .nan
    | .exp => settle (fun p => expBounds p (-x)) (fun e => rn (.fin e)) .nan
  match v with
  | .fin q => q
  | _ => 0

/-- Domain end of a table, and the value beyond it. -/
def Ln5Fn.domain : Ln5Fn → Rat × Rat
  | .tanh => (8, 1)
  | .sig => (16, 1)
  | .exp => (32, 0)

/-- Table value at `x ≥ 0` (R195). -/
def Ln5Fn.eval (f : Ln5Fn) (x : Rat) : Val :=
  if f.domain.1 ≤ x then .fin f.domain.2
  else
    let xi := (((x * 32).floor : Int) : Rat) / 32
    let h := mkRat 1 64
    let y0 := f.node xi
    let y1 := f.node (xi + h)
    let y2 := f.node (xi + 2 * h)
    let c1 := rn (.fin ((-3 * y0 + 4 * y1 - y2) / (2 * h)))
    let c2 := rn (.fin ((y0 - 2 * y1 + y2) / (2 * h * h)))
    let t := Val.fin (x - xi)
    rz ((rz ((rz ((rz (c2.mul t)).add c1)).mul t)).add (.fin y0))

/-- A table extended to infinities. -/
def Ln5Fn.evalVal (f : Ln5Fn) : Val → Val
  | .fin x => f.eval x
  | .inf _ => .fin f.domain.2
  | .nan => .nan

end Sys2Proof.Machine
end

