-- ==== Sys2Proof/Machine/Formats.lean ====
section
/-! DEFINITION. Element formats, block scales, narrowing and conversion (R88, R124–R137). -/

namespace Sys2Proof.Machine

/-- Format codes 0x0–0xB (R88). -/
inductive Fmt where
  | fp32 | bf16 | fp8a | fp8b | fp6a | fp6b | fp4 | t2 | i32 | u32 | u8 | u16
  deriving DecidableEq, Repr

def Fmt.ofCode : Nat → Option Fmt
  | 0 => some .fp32
  | 1 => some .bf16
  | 2 => some .fp8a
  | 3 => some .fp8b
  | 4 => some .fp6a
  | 5 => some .fp6b
  | 6 => some .fp4
  | 7 => some .t2
  | 8 => some .i32
  | 9 => some .u32
  | 10 => some .u8
  | 11 => some .u16
  | _ => none

/-- Bits per element (R88). -/
def Fmt.bits : Fmt → Nat
  | .fp32 => 32 | .bf16 => 16 | .fp8a => 8 | .fp8b => 8 | .fp6a => 6 | .fp6b => 6
  | .fp4 => 4 | .t2 => 2 | .i32 => 32 | .u32 => 32 | .u8 => 8 | .u16 => 16

def Fmt.narrow : Fmt → Bool
  | .fp8a | .fp8b | .fp6a | .fp6b | .fp4 | .t2 => true
  | .fp32 | .bf16 | .i32 | .u32 | .u8 | .u16 => false

def Fmt.isInt : Fmt → Bool
  | .i32 | .u32 | .u8 | .u16 => true
  | .fp32 | .bf16 | .fp8a | .fp8b | .fp6a | .fp6b | .fp4 | .t2 => false

/-- Mantissa bits and smallest normal exponent of the floating element formats (R124). -/
def Fmt.manEmin : Fmt → Nat × Int
  | .fp4 => (1, 0) | .fp6a => (3, 0) | .fp6b => (2, -2) | .fp8a => (3, -6) | .fp8b => (2, -14)
  | .bf16 => (7, -126) | .fp32 => (23, -126)
  | .t2 | .i32 | .u32 | .u8 | .u16 => (0, 0)

/-- Largest finite value of a narrow format (R124, R147 for T2). -/
def Fmt.largest : Fmt → Rat
  | .fp4 => 6 | .fp6a => mkRat 15 2 | .fp6b => 28 | .fp8a => 448 | .fp8b => 57344 | .t2 => 1
  | .bf16 => 2 - mkRat 1 128 | .fp32 => 2 - mkRat 1 8388608
  | .i32 | .u32 | .u8 | .u16 => 0

/-- Exponent of the top binade (R135). -/
def Fmt.topExp : Fmt → Int
  | .fp4 => 2 | .fp6a => 2 | .fp6b => 4 | .fp8a => 8 | .fp8b => 15 | .t2 => 0
  | .fp32 | .bf16 | .i32 | .u32 | .u8 | .u16 => 0

/-- Element value without its block scale (R124, R128, R129). -/
def Fmt.elemVal (f : Fmt) (c : Nat) : Val :=
  match f with
  | .fp32 => fp32Val (c % 2 ^ 32)
  | .bf16 => bf16Val (c % 2 ^ 16)
  | .t2 => .fin (match c % 4 with
      | 1 => 1
      | 3 => -1
      | _ => 0)
  | .i32 => .fin (((BitVec.ofNat 32 c).toInt : Int) : Rat)
  | .u32 => .fin ((c % 2 ^ 32 : Nat) : Rat)
  | .u8 => .fin ((c % 2 ^ 8 : Nat) : Rat)
  | .u16 => .fin ((c % 2 ^ 16 : Nat) : Rat)
  | .fp4 | .fp6a | .fp6b | .fp8a | .fp8b =>
    let b := f.bits
    let neg := c / 2 ^ (b - 1) % 2 = 1
    let m := c % 2 ^ (b - 1)
    if f = .fp8a ∧ m = 0x7F then .nan
    else if f = .fp8b ∧ 0x7C < m then .nan
    else if f = .fp8b ∧ m = 0x7C then .inf neg
    else
      let q := magVal f.manEmin.1 f.manEmin.2 m
      .fin (if neg then -q else q)

/-- Value of an element with its block scale byte (R131, R132); `scale` is unused by wide formats. -/
def Fmt.value (f : Fmt) (scale c : Nat) : Val :=
  if f.narrow then
    if scale % 256 = 255 then .nan
    else (f.elemVal c).mul (.fin (pow2 ((scale % 256 : Nat) - 127)))
  else f.elemVal c

/-- The sett flag bits of R75, as an 8-bit mask. -/
abbrev Fl := BitVec 8
def flOverflow : Fl := 0x02
def flInvalid : Fl := 0x04
def flShed : Fl := 0x08
def flSaturate : Fl := 0x10
def flEmpty : Fl := 0x20
def flMarked : Fl := 0x40
def flExhausted : Fl := 0x80
def flNone : Fl := 0

/-- Code of a scaled value already inside the range of narrow format `f` (R135, R136). -/
def Fmt.narrowCode (f : Fmt) (w : Rat) : Nat :=
  match f with
  | .t2 =>
    let a := ratAbs w
    if a ≤ mkRat 1 2 then 0 else if w < 0 then 3 else 1
  | _ =>
    let l := f.largest
    let w' := if l < w then l else if w < -l then -l else w
    let c := magCode .nearest f.manEmin.1 f.manEmin.2 (ratAbs w')
    if w' < 0 ∧ c ≠ 0 then 2 ^ (f.bits - 1) + c else c

/-- Result of narrowing one block: the scale byte, one code for each element in order (0 where
the element is not valid), flags, and the block's measures of R156. -/
structure Narrowed where
  scale : Nat
  codes : List Nat
  flags : Fl
  clips : Nat
  qsheds : Nat
  ratio : Rat
  deriving DecidableEq, Repr

def Val.finOr0 : Val → Rat
  | .fin q => q
  | _ => 0

def ratSum (l : List Rat) : Rat := l.foldl (· + ·) 0

def ratMax (l : List Rat) : Rat := l.foldl (fun a b => if a < b then b else a) 0

/-- Exponent `x` of R135 before its clamps. -/
def Fmt.blockExp (f : Fmt) (vs : List Rat) : Int := ilog2 (ratMax (vs.map ratAbs)) - f.topExp

/-- R135 on the values of a block (`none` for an element outside the valid region), with R156. -/
def Fmt.narrowBlock (f : Fmt) (vs : List (Option Val)) : Narrowed :=
  let present := vs.filterMap id
  if present.any (fun v => !v.isFin) then
    { scale := 255, codes := vs.map fun _ => 0, flags := flInvalid, clips := 0, qsheds := 0, ratio := 1 }
  else if present.all (fun v => v.isZero) then
    { scale := 0, codes := vs.map fun _ => 0, flags := flNone, clips := 0, qsheds := 0, ratio := 0 }
  else
    let qs := present.map Val.finOr0
    let x0 := f.blockExp qs
    let x := clampInt (-127) 127 x0
    let fl := if 127 < x0 then flOverflow else flNone
    let sc := fun q : Rat => q * pow2 (-x)
    let code := fun q : Rat => f.narrowCode (sc q)
    let stored := fun q : Rat => ((f.elemVal (code q)).finOr0) * pow2 x
    let e := ratSum (qs.map fun q => ratAbs (q - stored q))
    let a := ratSum (qs.map ratAbs)
    { scale := (x + 127).toNat
      codes := vs.map fun o => match o with
        | some v => code v.finOr0
        | none => 0
      flags := fl
      clips := (qs.filter fun q => decide (f.largest < ratAbs (sc q))).length
      qsheds := (qs.filter fun q => decide (q ≠ 0) && decide (stored q = 0)).length
      ratio := if a = 0 then 0 else e / a }

/-- Range of an integer format. -/
def Fmt.intRange : Fmt → Int × Int
  | .i32 => (-(2 ^ 31), 2 ^ 31 - 1)
  | .u32 => (0, 2 ^ 32 - 1)
  | .u8 => (0, 255)
  | .u16 => (0, 1023)
  | .fp32 | .bf16 | .fp8a | .fp8b | .fp6a | .fp6b | .fp4 | .t2 => (0, 0)

/-- Code of an integer in format `f`. -/
def Fmt.intCode (f : Fmt) (x : Int) : Nat := (x % (2 ^ f.bits : Nat)).toNat

/-- Conversion of one value to a format that is not narrow (R134): code and flags. -/
def Fmt.convWide (src dst : Fmt) (v : Val) : Nat × Fl :=
  match dst with
  | .fp32 =>
    let c := fp32Code .nearest v
    match v with
    | .nan => (c, flInvalid)
    | .inf _ => (c, flNone)
    | .fin _ => (c, if c % 2 ^ 31 = 0x7F800000 then flOverflow else flNone)
  | .bf16 =>
    let c := bf16Code v
    match v with
    | .nan => (c, flInvalid)
    | .inf _ => (c, flNone)
    | .fin _ => (c, if c % 2 ^ 15 = 0x7F80 then flOverflow else flNone)
  | .i32 | .u32 | .u8 | .u16 =>
    let r := dst.intRange
    if src.isInt then (dst.intCode (clampInt r.1 r.2 (truncInt v.finOr0)), flNone)
    else match v with
    | .nan => (0, flInvalid)
    | .inf n => (dst.intCode (if n then r.1 else r.2), flInvalid)
    | .fin q => (dst.intCode (clampInt r.1 r.2 (roundEven q)), flNone)
  | .fp8a | .fp8b | .fp6a | .fp6b | .fp4 | .t2 => (0, flNone)

/-- Rank of a format on the ladder's width order (R164). -/
def Fmt.width : Fmt → Nat
  | .t2 => 0 | .fp4 => 1 | .fp6a => 2 | .fp8a => 3 | .bf16 => 4 | .fp32 => 5
  | .fp6b => 6 | .fp8b => 6 | .i32 => 7 | .u32 => 7 | .u8 => 7 | .u16 => 7

end Sys2Proof.Machine
end

