-- ==== Sys2Proof/Machine/SMap.lean ====
section
/-! DEFINITION. Sparse sorted maps: a list of (key, value) pairs with keys strictly rising
and no value equal to the default an unlisted key reads as, so equal maps are equal lists. -/

namespace Sys2Proof.Machine

/-- A sparse map from natural keys, read with a default. -/
abbrev SMap (α : Type) := List (Nat × α)

/-- Value at key `i`, `d` where the key is not listed. -/
def SMap.get {α : Type} (d : α) (m : SMap α) (i : Nat) : α :=
  match m with
  | [] => d
  | (k, v) :: t => if i = k then v else if i < k then d else SMap.get d t i

/-- Store `v` at key `i`, keeping the canonical form for default `d`. -/
def SMap.set {α : Type} [DecidableEq α] (d : α) (m : SMap α) (i : Nat) (v : α) : SMap α :=
  match m with
  | [] => if v = d then [] else [(i, v)]
  | (k, w) :: t =>
    if i < k then (if v = d then (k, w) :: t else (i, v) :: (k, w) :: t)
    else if i = k then (if v = d then t else (k, v) :: t)
    else (k, w) :: SMap.set d t i v

/-- Apply `f` to the value at key `i`. -/
def SMap.modify {α : Type} [DecidableEq α] (d : α) (m : SMap α) (i : Nat) (f : α → α) :
    SMap α :=
  SMap.set d m i (f (SMap.get d m i))

/-- Every key of the list is above `lo`, keys strictly rise and no value is the default. -/
def SMap.wfAbove {α : Type} [DecidableEq α] (d : α) : Nat → List (Nat × α) → Bool
  | _, [] => true
  | lo, (k, v) :: t => decide (lo < k) && decide (v ≠ d) && SMap.wfAbove d k t

/-- The canonical form. -/
def SMap.wf {α : Type} [DecidableEq α] (d : α) : List (Nat × α) → Bool
  | [] => true
  | (k, v) :: t => decide (v ≠ d) && SMap.wfAbove d k t

/-- Remove every key in `[lo, lo + n)`. -/
def SMap.clear {α : Type} (m : SMap α) (lo n : Nat) : SMap α :=
  m.filter fun e => decide (e.1 < lo) || decide (lo + n ≤ e.1)

/-- Set keys `k, k+1, …` to the values of a list in order. -/
def SMap.setMany {α : Type} [DecidableEq α] (d : α) : SMap α → Nat → List α → SMap α
  | m, _, [] => m
  | m, k, v :: vs => SMap.setMany d (SMap.set d m k v) (k + 1) vs

/-- The values at `n` keys from `k` on. -/
def SMap.getMany {α : Type} (d : α) (m : SMap α) (k n : Nat) : List α :=
  (List.range n).map fun j => SMap.get d m (k + j)

end Sys2Proof.Machine
end

