-- ==== Sys2Proof/Machine/StSett.lean ====
section
/-! DEFINITION. The state of one sett (02, 03, 04, 05, 06, 10). -/

namespace Sys2Proof.Machine

/-- One ledger: N and its three markers (R139). -/
structure Ledger where
  n : BitVec 136
  nan : Bool
  pinf : Bool
  ninf : Bool
  deriving DecidableEq, Repr

def Ledger.zero : Ledger := ⟨0, false, false, false⟩

/-- A ledger bank: the shared anchor and 128 × 128 ledgers, key 128 m + n; ledgers whose
parity is broken are listed in `parity` (R45). -/
structure Bank where
  anchor : Int
  led : SMap Ledger
  parity : SMap Bool
  deriving DecidableEq, Repr

def Bank.zero : Bank := ⟨0, [], []⟩

/-- STATE codes of SETT_STATE (R74). -/
inductive SettPhase where
  | gated | idle | running | draining | saved | fenced | selfTest | completed
  deriving DecidableEq, Repr

/-- What an instruction in a unit queue waits for. -/
inductive WaitKind where
  | interlock | swap | escCheck | haloCredit | haloSlot | lintel | mortar | merge | cairnFill | cairnFlip
  deriving DecidableEq, Repr

/-- CAUSE code of SETT_STATE (R74). -/
def WaitKind.cause : WaitKind → Nat
  | .interlock => 8 | .swap => 8 | .escCheck => 12 | .haloCredit => 2 | .haloSlot => 3
  | .lintel => 5 | .mortar => 6 | .merge => 11 | .cairnFill => 11 | .cairnFlip => 11

/-- How an instruction in a unit queue stands. -/
inductive EntrySt where
  /-- not yet executed -/
  | queued
  /-- executed as far as it can, waiting -/
  | waiting (kind : WaitKind)
  /-- paused on a posted fault (R64) -/
  | paused (faultId : Nat)
  /-- effects performed, completion not yet signalled -/
  | done
  deriving DecidableEq, Repr

/-- One instruction held by a unit, with its issue number and progress record (R65). `kept` is what the granules gave that
its step under way accessed before a fault (R371). -/
structure QEntry where
  seq : Nat
  unit : UnitId
  instr : Instr
  st : EntrySt
  prog : Nat
  aux : List Nat
  kept : List (List Byte)
  deriving DecidableEq, Repr

/-- The granule accesses of a step under way (R371): what those gave that it made before a fault, which are not made again, and
what the accesses of this attempt gave so far. -/
structure Trace where
  again : List (List Byte)
  made : List (List Byte)
  deriving DecidableEq, Repr

/-- A measure slot (R157, R164); `spanSeq` is the issue number at which the LSHED span began. -/
structure Slot where
  clips : Nat
  qsheds : Nat
  worst : Nat
  blocks : Nat
  step : Nat
  pin : Bool
  spanSeq : Nat
  layerId : Nat
  declared : Bool
  base : Nat
  steps : BitVec 8
  deriving DecidableEq, Repr

/-- An undeclared slot at the start of a run (R166). DESIGN CHOICE: LAYER_ID is 0 until the slot's first ESC.CHECK. -/
def Slot.reset : Slot := ⟨0, 0, 0, 0, 1, false, 0, 0, false, 1, 2⟩

/-- A filled slot of a receiving ring (R276–R279): tag, element bytes and payload bytes; the payload
stands in the ring's scratch region. -/
structure HaloSlot where
  tag : W64
  elen : Nat
  len : Nat
  deriving DecidableEq, Repr

/-- One halo port of a sett: the ring it receives on (filled slots oldest first, index of the next
slot to fill), the credits it sends with, credits on their way back, and whether the receiver's
HALO.FILL asked for the next credit before any put did (R282, R284). -/
structure HaloPort where
  depth : Nat
  slotBytes : Nat
  base : Nat
  slots : List HaloSlot
  nextSlot : Nat
  credits : Nat
  returning : Nat
  fillFirst : Bool
  deriving DecidableEq, Repr

def HaloPort.reset : HaloPort := ⟨0, 0, 0, [], 0, 0, 0, false⟩

/-- Statistics ledgers of one lane after the last row (R43, R182): s1 and s2 as exact integers
over their anchors' least weights. -/
structure StatPair where
  s1 : Rat
  s2 : Rat
  deriving DecidableEq, Repr

/-- What remains of a staged slice's copy (R319): source VA, bytes, scratch address, and the region base and residency key
that the sett holds once it has ended. -/
structure StageItem where
  va : Nat
  len : Nat
  dst : Nat
  region : Nat
  reskey : Nat
  deriving DecidableEq, Repr

/-- Record of the last run that used the sett, for R51 and R319. -/
structure Retained where
  client : Nat
  regions : List Region
  reskeys : List (Nat × Nat)
  deriving DecidableEq, Repr

/-- A sett (R46, R74). Scalars, predicates, descriptors, vectors and event counters are sparse
over register numbers; lane i of a vector register is bits 32 i + 31 .. 32 i. `stage` lists what the
stream unit still copies before the first issue (R319); `asleep` says that the run on a gated sett waits for its column to wake
(R534); `trace` is there while an instruction that resumes at a granule runs. -/
structure Sett where
  phase : SettPhase
  asleep : Bool
  mode : Nat
  warm : Bool
  compat : Bool
  s : SMap W64
  p : SMap (BitVec 128)
  a : SMap (BitVec 256)
  v : SMap (BitVec 4096)
  evt : SMap W64
  stats : SMap StatPair
  statsParity : Bool
  banks : SMap Bank
  active : SMap Val
  shadow : SMap Val
  pc : W64
  flags : BitVec 8
  shedCnt : W64
  satCnt : W64
  eccCnt : W32
  status : BitVec 16
  scratch : SMap Byte
  badWords : SMap Bool
  softWords : SMap Bool
  carving : List Region
  retained : Option Retained
  stage : List StageItem
  stagePaused : Option Nat
  queue : List QEntry
  nextSeq : Nat
  stall : Option (Instr × Nat)
  fetchMiss : Bool
  ended : Bool
  slots : SMap Slot
  shedLog : List (Nat × Nat)
  ports : SMap HaloPort
  exhOnce : Bool
  trace : Option Trace
  deriving DecidableEq, Repr

def StatPair.zero : StatPair := ⟨0, 0⟩

/-- Registers and counters zero, nothing carved, nothing queued (R47, R74 reset column). -/
def Sett.reset : Sett :=
  { phase := .gated, asleep := false, mode := 0, warm := false, compat := false, s := [], p := [], a := [], v := []
    evt := [], stats := [], statsParity := false, banks := [], active := [], shadow := [], pc := 0
    flags := 0, shedCnt := 0, satCnt := 0, eccCnt := 0, status := 0, scratch := [], badWords := []
    softWords := [], carving := [], retained := none, stage := [], stagePaused := none, queue := [], nextSeq := 0, stall := none
    fetchMiss := false, ended := false, slots := [], shedLog := [], ports := [], exhOnce := false, trace := none }

end Sys2Proof.Machine
end

