-- ==== Sys2Proof/Machine/StMem.lean ====
section
/-! DEFINITION. Memory, its controllers, translation and fault queues (12, 13, 14). -/

namespace Sys2Proof.Machine

/-- A Lintel line of 256 bytes (R350), by 32-byte sector: present, newer than memory, poison bit; words (0–31) whose
SEC-DED finds one wrong bit, or more than one; locked for a Lintel-pinned object (R324). The bytes of a present sector
are those of `Mem.dev`. -/
structure Line where
  valid : BitVec 8
  dirty : BitVec 8
  poison : BitVec 8
  soft : List Nat
  hard : List Nat
  locked : Bool
  deriving DecidableEq, Repr

def Line.none : Line := ⟨0, 0, 0, [], [], false⟩

/-- Controllers of one die (R361). `symbols` counts corrections this period, key 64 pc + symbol, and `retrained` lists the stacks
for which Hearth has asked for a retraining in it (R536); `failing`
lists pseudo-channels past HBM_MAPOUT_THRESH; `remap` maps copied granule numbers of the die to released ones plus one
(R343); `refusedAt` when the last MAP_RELEASE_ANS list was refused (R510); `heldCheck` is the check group whose check burst each sub-channel holds,
plus one (R348). -/
structure DieMem where
  mapPending : Bool
  mapBusy : Bool
  limit : Bool
  pendingPc : Nat
  hbmScrubPeriod : Nat
  hbmPasses : Nat
  hbmProgress : Nat
  mapoutThresh : Nat
  ceCnt : W64
  ueCnt : W64
  poisonCnt : W64
  errAddr : W64
  pcSel : Nat
  symbols : SMap Nat
  retrained : List Nat
  failing : List Nat
  mapout : BitVec 192
  frames : List Nat
  refusedAt : Option Nat
  released : List Nat
  remap : SMap Nat
  heldCheck : SMap Nat
  fallowReady : Bool
  fallowRetrains : Nat
  fallowScrubPeriod : Nat
  fallowPasses : Nat
  fallowProgress : Nat
  fCeCnt : W64
  fUeCnt : W64
  fLinkCnt : W64
  fErrAddr : W64
  lintelReady : Bool
  lintelRepaired : Nat
  lintelPinned : Nat
  lEccCnt : W64
  lWaitOvfCnt : W64
  lTileCrcCnt : W64
  hbmReady : Bool
  deriving DecidableEq, Repr

def DieMem.reset : DieMem :=
  { mapPending := false, mapBusy := false, limit := false, pendingPc := 0, hbmScrubPeriod := 86400
    hbmPasses := 0, hbmProgress := 0, mapoutThresh := 1024, ceCnt := 0, ueCnt := 0, poisonCnt := 0
    errAddr := 0, pcSel := 0, symbols := [], retrained := [], failing := [], mapout := 0, frames := [], refusedAt := none, released := [], remap := [], heldCheck := []
    fallowReady := false, fallowRetrains := 0, fallowScrubPeriod := 86400, fallowPasses := 0
    fallowProgress := 0, fCeCnt := 0, fUeCnt := 0, fLinkCnt := 0, fErrAddr := 0
    lintelReady := false, lintelRepaired := 0, lintelPinned := 0, lEccCnt := 0, lWaitOvfCnt := 0
    lTileCrcCnt := 0, hbmReady := false }

/-- A wait held by a Lintel slice (R70, R354): word address, the value it needs, and the sett.
`pop` waits need a nonzero word (R208). -/
structure LintelWait where
  addr : Nat
  pop : Bool
  value : Nat
  sett : Nat
  deriving DecidableEq, Repr

/-- How the host ends a request it does not serve (R370). -/
inductive HostEnd where
  | unsupported | abort | timeout | poisoned
  deriving DecidableEq, Repr

/-- The last memory request that the module sent on the host link (R366): function, bus address, bytes, and whether
it writes. -/
structure HostReq where
  fn : Nat
  addr : Nat
  len : Nat
  write : Bool
  deriving DecidableEq, Repr

/-- The last access that Mortar carried to a peer module (R366): module identifier, VA, and the bytes of a write. -/
structure PeerReq where
  module : Nat
  va : Nat
  len : Nat
  write : Option (List Byte)
  deriving DecidableEq, Repr

/-- Memory. `dev` holds device bytes by canonical address, `host` the host bytes that something has written.
A stored burst is the codeword of its bytes XOR `errs`, the errors of its symbols (none: intact), by physical
burst; `stuck` are the errors that its cells give each new write. `groupCrc` lists fallow check groups whose stored
address CRC is wrong (R347), `link` the coming fallow transfers of a sub-channel (key 32 die + channel) that the link
ECC finds wrong: true where it corrects (R349). `lines` are the Lintel lines present, by address / 256. `hostEnd`
lists 4 KiB pages of host memory whose requests fail. -/
structure Mem where
  dev : SMap Byte
  host : SMap (Option Byte)
  errs : SMap (List Byte)
  stuck : SMap (List Byte)
  groupCrc : SMap Bool
  link : SMap (List (Option Bool))
  lines : SMap Line
  hostEnd : SMap (Option HostEnd)
  hostReq : Option HostReq
  peerReq : Option PeerReq
  dies : SMap DieMem
  waits : List LintelWait
  deriving DecidableEq, Repr

def Mem.reset : Mem := ⟨[], [], [], [], [], [], [], [], none, none, [], []⟩

/-- What a fault record's transfer belongs to. -/
inductive FaultOwner where
  | sett (idx : Nat) (unit : UnitId)
  | mortar (ctx : Nat)
  | codec (core : Nat)
  | dma (queue : Nat)
  deriving DecidableEq, Repr

/-- A fault (R373): the record's fields and the transfer that waits on it. -/
structure FaultRec where
  id : Nat
  va : Nat
  run : Nat
  agent : Nat
  cls : Nat
  acc : Nat
  time : Nat
  owner : FaultOwner
  deriving DecidableEq, Repr

/-- Translation registers and fault state of one client (R385); `held` records wait for ring
space, `waiting` faults wait for an answer, `resumed` lists answers recorded during pre-emption. `again` is the fault whose
transfer translates again after a resume (R380). -/
structure XlatClient where
  root : W64
  fqBase : W64
  fqCtrl : W32
  headIdx : Nat
  headPhase : Bool
  tail : W32
  bad : Bool
  held : List FaultRec
  waiting : List FaultRec
  resumed : List Nat
  faultCnt : W64
  nextId : Nat
  again : Option FaultRec
  deriving DecidableEq, Repr

def XlatClient.reset : XlatClient :=
  { root := 0, fqBase := 0, fqCtrl := 6, headIdx := 0, headPhase := true, tail := 0x10000
    bad := false, held := [], waiting := [], resumed := [], faultCnt := 0, nextId := 1, again := none }

/-- An invalidation in progress (R369). -/
structure Inval where
  client : Nat
  va : Nat
  log2 : Nat
  seq : BitVec 16
  deriving DecidableEq, Repr

/-- A TLB entry (R367, R368): client, first VA and log2 of the page it holds, its address, TARGET and WRITE. -/
structure TlbEntry where
  client : Nat
  va : Nat
  log2 : Nat
  addr : Nat
  target : Nat
  write : Bool
  deriving DecidableEq, Repr

/-- Translation. `tlbs` are the first-level TLBs by engine (`Engine.key`), `l2` the walkers' TLBs by die, oldest entry
first (R367). -/
structure Xlat where
  clients : SMap XlatClient
  tlbs : SMap (List TlbEntry)
  l2 : SMap (List TlbEntry)
  invVa : W64
  invals : List Inval
  invBlocked : List Inval
  invDone : BitVec 16
  missCnt : W64
  walkCnt : W64
  deriving DecidableEq, Repr

def Xlat.reset : Xlat := ⟨[], [], [], 0, [], [], 0, 0, 0⟩

/-- A Cairn table (R238–R248): two banks of 65,536 entries (key 65,536 bank + page), epoch. -/
structure Cairn where
  entries : SMap W64
  epoch : W64
  owned : Bool
  clearing : Bool
  clearNeeded : Bool
  retired : Nat
  lookupCnt : W64
  unsetCnt : W64
  fillCnt : W64
  dropCnt : W64
  deriving DecidableEq, Repr

def Cairn.reset : Cairn := ⟨[], 0, false, false, false, 0, 0, 0, 0, 0⟩

end Sys2Proof.Machine
end

