-- ==== Sys2Proof/Machine/StStile.lean ====
section
/-! DEFINITION. The state of Stile: clients, queues, runs, escalation counts, residency (05, 12, 15). -/

namespace Sys2Proof.Machine

/-- A fetched descriptor that has not completed (R392, R393). -/
structure Desc where
  id : Nat
  bytes : List Byte
  cls : Nat
  started : Bool
  posted : Bool
  prog : Nat
  paused : Option Nat
  faults : Nat
  deriving DecidableEq, Repr

/-- A work queue (R391, R410). -/
structure Queue where
  base : W64
  ctrl : W32
  fetched : W32
  err : Bool
  k : Nat
  resync : Bool
  nextId : Nat
  descs : List Desc
  deriving DecidableEq, Repr

/-- CTRL resets: LOG2N 6, CLASS 2, POLL_MAX 7 (R410). -/
def Queue.reset : Queue := ⟨0, 0x1E06, 0, false, 0, false, 0, []⟩

/-- A completion record waiting for ring space, with its IRQ mark and queue (R405). -/
structure Held where
  bytes : List Byte
  irq : Bool
  queue : Nat
  desc : Option Nat
  deriving DecidableEq, Repr

/-- Registers of one client (R410). `prev` is the carving of its previous run, by logical and
physical sett (R293, R549). -/
structure Client where
  policy : W32
  cqBase : W64
  cqCtrl : W32
  headIdx : Nat
  headPhase : Bool
  tail : W32
  bad : Bool
  held : List Held
  holdoffEnd : Nat
  deferred : Bool
  acctWait : W64
  acctRun : W64
  acctSave : W64
  acctPreempts : W32
  acctRuns : W32
  deficit : Int
  bar2Ep : Bool
  nextRun : Nat
  prev : Option (List ((Nat × Nat) × List Region))
  queues : SMap Queue
  deriving DecidableEq, Repr

/-- POLICY: TOP_CLASS 2, WEIGHT 16; CQ_CTRL: LOG2N 4; CQ_TAIL: PHASE 1 (R410). -/
def Client.reset : Client :=
  { policy := 0x210, cqBase := 0, cqCtrl := 4, headIdx := 0, headPhase := true, tail := 0x10000
    bad := false, held := [], holdoffEnd := 0, deferred := false, acctWait := 0, acctRun := 0
    acctSave := 0, acctPreempts := 0, acctRuns := 0, deficit := 0, bar2Ep := false, nextRun := 1, prev := none
    queues := [] }

/-- Escalation counts of a run (R171–R174). -/
structure Esc where
  cnt : W64
  exhCnt : W64
  budget : W64
  beyond : Bool
  exh : Bool
  exhStep : Nat
  widest : Nat
  exhSetts : Nat
  worst : Nat
  deriving DecidableEq, Repr

def Esc.reset : Esc := ⟨0, 0, 0, false, false, 15, 15, 0, 0⟩

/-- The part of a pre-empted run that lives in its save area (R377). `locked` are the Lintel-pinned lines that it had
touched (R324). -/
structure Saved where
  setts : List (Nat × Sett)
  counters : List W64
  cairn : SMap Cairn
  esc : Esc
  locked : List Nat
  deriving DecidableEq, Repr

/-- A run, ready, admitted or pre-empted (R399). `placement` maps logical index 32 r + c to the
physical sett; `issued`: a sett of the run has issued an instruction, at `start` the first time (R403, R405). -/
structure Run where
  client : Nat
  queue : Nat
  cls : Nat
  desc : Nat
  tag : W64
  irq : Bool
  manifestVa : Nat
  warnVa : Nat
  manifest : Manifest
  seqNo : Nat
  admitted : Bool
  placement : List (Nat × Nat)
  contexts : List (Nat × Nat)
  wait : Nat
  runt : Nat
  save : Nat
  preempts : Nat
  faults : Nat
  warn : Bool
  issued : Bool
  start : Nat
  wdog : Nat
  saved : Option Saved
  deriving DecidableEq, Repr

/-- A residency entry (R332). -/
structure Resident where
  client : Nat
  reskey : Nat
  tier : Nat
  spread : Bool
  bytes : Nat
  va : Nat
  objBytes : Nat
  deriving DecidableEq, Repr

/-- STILE_RUN_STATUS.STATE (R410). -/
inductive ArrayState where
  | free | admitting | running | saving | restoring | stopping
  deriving DecidableEq, Repr

structure Stile where
  clients : SMap Client
  stop : Bool
  preempt : Bool
  array : ArrayState
  cur : Option Run
  held : Nat
  runs : List Run
  affinity : W32
  wdogMax : W64
  slices : SMap W32
  bar2Base : W64
  bar2Err : W64
  bar2ErrCnt : W64
  esc : Esc
  residency : SMap (List Resident)
  deriving DecidableEq, Repr

/-- Reset values of STILE_SLICEk (R410). -/
def sliceReset : Nat → W32
  | 1 => 31250
  | 2 => 312500
  | 3 => 3125000
  | _ => 0

def Stile.reset : Stile :=
  { clients := [], stop := false, preempt := false, array := .free, cur := none, held := 0, runs := []
    affinity := 3125, wdogMax := 0, slices := [(1, 31250), (2, 312500), (3, 3125000)]
    bar2Base := 0, bar2Err := 0, bar2ErrCnt := 0, esc := Esc.reset, residency := [] }

end Sys2Proof.Machine
end

