-- ==== Sys2Proof/Machine/StFabric.lean ====
section
/-! DEFINITION. Golger ports and Mortar contexts (16, 17). -/

namespace Sys2Proof.Machine

/-! Golger (R411–R429) -/

/-- STATE of GOLGER_PORT_STATUS (R429). -/
inductive PortPhase where
  | down | training | up | draining | disabled
  deriving DecidableEq, Repr

/-- A flit of a message that waits on an output port: its payload, whether it is first, last or an
abort, and the input port and virtual channel whose buffer it frees when it leaves (R419). -/
structure TxFlit where
  first : Bool
  last : Bool
  abort : Bool
  payload : List Byte
  freed : Option (Nat × Nat)
  deriving DecidableEq, Repr

/-- A message on an output port, oldest first on its virtual channel (R421). `tag` names the Mortar
send slot of a local message (0: none); `started` once a flit has left; `ended` once its last flit
waits here. -/
structure TxMsg where
  key : Nat
  vc : Nat
  src : Nat
  dst : Nat
  hops : Nat
  tag : Nat
  started : Bool
  ended : Bool
  flits : List TxFlit
  deriving DecidableEq, Repr

/-- Where the flits of a message in reception go. -/
inductive RxDest where
  | deliver
  /-- output port and message key -/
  | forward (port key : Nat)
  | discard
  deriving DecidableEq, Repr

/-- A message partly received on a virtual channel. -/
structure RxMsg where
  dest : RxDest
  src : Nat
  bytes : List Byte
  deriving DecidableEq, Repr

/-- One port (R411–R420, R429). `cnt` holds the eight counts in register order; `replay` the sent
flits with SEQ not yet acknowledged; `asked` whether a replay request stands unanswered; `rxAsks`
and `txAsks` replay requests in a row for `rxSeq` and for the SEQ beside it; `drainAt` when draining began; `waits` the ticks that
the next flit of a virtual channel has waited for a credit, `stalled` whether that flit has been counted (R424); `cwPos` the bits of the
codeword under way that have arrived, `cwBad` whether it cannot be corrected (R415). -/
structure GPort where
  ctrl : W32
  phase : PortPhase
  drainAt : Nat
  waits : SMap Nat
  stalled : SMap Bool
  lanes : BitVec 8
  saved : Bool
  lastCode : Nat
  peer : Option Nat
  cnt : SMap W64
  txSeq : Nat
  replay : List (Nat × List Byte)
  txAsks : Nat × Nat
  rxSeq : Nat
  asked : Bool
  rxAsks : Nat
  credits : SMap Nat
  nextVc : Nat
  msgs : List TxMsg
  rx : SMap (Option RxMsg)
  cwPos : Nat
  cwBad : Bool
  deriving DecidableEq, Repr

/-- After a reset of level M: DISABLED with ADMIN 1, AUTO 1, ROLE relay, TRIES 3 (R412, R429). -/
def GPort.reset : GPort :=
  { ctrl := 0x37, phase := .disabled, drainAt := 0, waits := [], stalled := [], lanes := 0, saved := false, lastCode := 0, peer := none, cnt := []
    txSeq := 0, replay := [], txAsks := (0, 0), rxSeq := 0, asked := false, rxAsks := 0, credits := []
    nextVc := 0, msgs := [], rx := [], cwPos := 0, cwBad := false }

/-- A message delivered to this module. -/
structure GMsg where
  src : Nat
  bytes : List Byte
  deriving DecidableEq, Repr

/-- The relay (R421–R429). `inbox` holds delivered messages that Mortar has not consumed; `lost` the
tags and codes of local messages that Golger discarded, for Mortar (R447). -/
structure Golger where
  ports : SMap GPort
  moduleId : Nat
  hopLimit : Nat
  stallLimit : W32
  drainLimit : W32
  norouteCnt : W64
  ttlCnt : W64
  stallCnt : W64
  routes : SMap W32
  nextKey : Nat
  inbox : List GMsg
  lost : List (Nat × Nat)
  deriving DecidableEq, Repr

def Golger.reset : Golger :=
  { ports := [], moduleId := 0, hopLimit := 15, stallLimit := 312500, drainLimit := 312500, norouteCnt := 0
    ttlCnt := 0, stallCnt := 0, routes := [], nextKey := 1, inbox := [], lost := [] }

/-! Mortar (R430–R459) -/

/-- Who posted a record: a sett of a run (client, run number, logical index), or a host descriptor (client, queue,
descriptor id, IRQ, tag). -/
inductive Poster where
  | sett (client run sett : Nat)
  | host (client queue desc : Nat) (irq : Bool) (tag : W64)
  deriving DecidableEq, Repr

/-- A posted record with its group, its member and what its conversions counted (R433, R443). -/
structure PostRec where
  gid : Nat
  member : Nat
  bytes : List Byte
  poster : Poster
  sheds : Nat
  sats : Nat
  flags : BitVec 8
  deriving DecidableEq, Repr

/-- A group on this module (R430). `entries` are the member entries; `pairSeq` counts SEND and RECV of
each ordered pair, key 65,536 sender + receiver. -/
structure Group where
  gid : Nat
  host : Bool
  lgroup : Nat
  client : Nat
  runSeq : Nat
  ctx : Option Nat
  stageVa : Nat
  entries : List Nat
  anchor : Int
  timeout : Nat
  epoch : Nat
  seq : Nat
  pairSeq : SMap Nat
  deriving DecidableEq, Repr

/-- Work of the current collective that this module has still to form from its members' sources. -/
inductive Task where
  /-- within the module: index `chunk` of source member `src` for member `dst` -/
  | here (src dst chunk : Nat)
  /-- a chunk for module `module` -/
  | send (module src dst chunk : Nat)
  deriving DecidableEq, Repr

/-- A chunk formed from another chunk that waits for a credit. -/
structure OutChunk where
  module : Nat
  src : Nat
  dst : Nat
  chunk : Nat
  payload : List Byte
  deriving DecidableEq, Repr

/-- The collective that a context works on (R436, R437). `ready` once every local record is here;
`expect` the DATA chunks (source, destination, index) still to be consumed, `got` those consumed;
`overs` the elements at which a fast-mode add of this module overflowed. -/
structure Coll where
  gid : Nat
  pair : Bool
  seq : Nat
  epoch : Nat
  recs : List PostRec
  ready : Bool
  tasks : List Task
  out : List OutChunk
  expect : List (Nat × Nat × Nat)
  got : List (Nat × Nat × Nat)
  overs : List Nat
  deriving DecidableEq, Repr

/-- How a record ends: STATUS, CAUSE, CHUNK, SRCMEM and EPOCH of its status word (R444). -/
structure Fate where
  status : Nat
  cause : Nat
  chunk : Nat
  src : Nat
  epoch : Nat
  deriving DecidableEq, Repr

/-- A send slot: the kept copy, whether it has been sent again, and when it was last sent (R446, R447). -/
structure SendSlot where
  module : Nat
  header : List Byte
  payload : List Byte
  resent : Bool
  sentAt : Nat
  deriving DecidableEq, Repr

/-- A receive slot, 0 to 15: a staged chunk that has not been consumed. -/
structure RecvSlot where
  slot : Nat
  module : Nat
  header : List Byte
  payload : List Byte
  deriving DecidableEq, Repr

/-- STATE of MORTAR_CTX_STATUS (R459); a bound context that works is shown as active. -/
inductive CtxPhase where
  | free | bound | frozen | down
  deriving DecidableEq, Repr

/-- One context (R446, R459). `credits` by destination module (1 at a collective's start); `sends` by
slot 0–15; `ending` the records whose completion is still to be written; `pausedAt` the chunk and source member of the piece of work that waits. `log` lists what the granules that the current
piece of work has accessed gave, `kept` those of paused pieces of work (by `workKey`), `replay` those that a
resumed piece does not access again (R371, R448). `doom` is the status of a fatal fault that ends its run, off the array, once it resumes. `timer` is the collective's timer, in ticks (R450). -/
structure Ctx where
  ctrl : W32
  phase : CtxPhase
  client : Nat
  runSeq : Nat
  host : Bool
  stageVa : Nat
  queue : List PostRec
  cur : Option Coll
  ending : List (PostRec × Fate)
  sends : SMap (Option SendSlot)
  recvs : List RecvSlot
  credits : SMap Nat
  paused : Option Nat
  pausedAt : Nat × Nat
  log : List (List Byte)
  kept : SMap (List (List Byte))
  replay : List (List Byte)
  doom : Option Nat
  timer : Nat
  chunkCnt : W64
  resendCnt : W64
  failCnt : W64
  deriving DecidableEq, Repr

def Ctx.reset : Ctx :=
  { ctrl := 0, phase := .free, client := 0, runSeq := 0, host := false, stageVa := 0, queue := [], cur := none
    ending := [], sends := [], recvs := [], credits := [], paused := none, pausedAt := (0xFFFFFFFF, 0)
    log := [], kept := [], replay := [], doom := none, timer := 0, chunkCnt := 0, resendCnt := 0, failCnt := 0 }

/-- Mortar's common state; `doom` is the status of a fatal fault that a run's context has met, or of a bad word on which a
sett of the run waits, until the run ends with it (R340, R370). -/
structure Mortar where
  ctxs : SMap Ctx
  groups : List Group
  timeoutDefault : W32
  ackLimit : W32
  epochCnt : W64
  lastFail : W64
  doom : Option Nat
  deriving DecidableEq, Repr

def Mortar.reset : Mortar :=
  { ctxs := [], groups := [], timeoutDefault := 3125000, ackLimit := 31250, epochCnt := 0, lastFail := 0, doom := none }

end Sys2Proof.Machine
end

