-- ==== Sys2Proof/Machine/StCodec.lean ====
section
/-! DEFINITION. The codec complex (18). -/

namespace Sys2Proof.Machine

/-- A memory operation that a core still has to do, in order; the reads and writes stay within a granule. -/
inductive CodecAct where
  /-- bytes of the input ring -/
  | take (va len : Nat)
  /-- the next unit has been read: parse it -/
  | parse
  /-- bytes of an entry, of a reference or of an encode's input -/
  | load (va len : Nat)
  | write (va : Nat) (bytes : List Byte)
  /-- concealed bytes, from another entry -/
  | copy (src dst len : Nat)
  /-- atomic add to a counter of the counter block -/
  | add (va n : Nat)
  /-- ATOM.MAX of a counter -/
  | raise (va n : Nat)
  /-- complete the outstanding FLUSH with a status -/
  | flushed (status : Nat)
  deriving DecidableEq, Repr

/-- The picture a stream works on (R474–R476, R480–R486): slot, number (the encode's picture, the decode's count of decoded ones),
FLAGS so far; `sub` the substitute of a missing reference: a slot, or none for mid-grey. Decode: its header, the slots of its
references, and the blocks that stand. Encode: slices coded, bytes of the unit so far, highest QP, bytes that each share has
spent, and whether the rest is skipped. -/
structure CurPic where
  slot : Nat
  n : Nat
  flags : BitVec 8
  head : PicHeader
  refs : List (Option Nat)
  done : List Rect
  sub : Option (Option Nat)
  band : Nat
  unit : List Byte
  qpMax : Nat
  spent : SMap Nat
  fill : Bool
  deriving DecidableEq, Repr

/-- A decoded picture that still stands: layer, slot, number. -/
structure Stands where
  layer : Nat
  slot : Nat
  n : Nat
  deriving DecidableEq, Repr

/-- A stream context (R465–R487). `block` is the copied stream block; `entries` the module's entry numbers by slot;
`flush` the queue and descriptor of an outstanding FLUSH, `total` how far it reaches (bytes, or pictures of an encode);
`order` the turn at which it became ready (0: not ready, or on a core); `coded` pictures coded, `shown` pictures output;
`inRd`, `outWr`, `done` the values of IN_RD, OUT_WR and an encode's DONE; `starved` a wait for an entry or room has been counted,
`wait` the canonical address of the counter on which a Lintel slice holds its wait; `fed` the bytes decoded, or read of the input
pictures, so far; `seq` the sequence header in force; `unit` the slice in work (a decode's bytes), which `joined` cores
have taken part in, `pixels` the luma samples of it that cores which have ended their part have worked on, and from which `cutAt` blocks on the budget has run out; `recent` the decoded pictures that still stand,
latest first (R482); `toShow` slots that wait to be output for DONE (R474); `read` encode pictures read to their end, and `sizes`
the bytes of the units coded. -/
structure Stream where
  client : Nat
  sid : Nat
  cls : Nat
  order : Nat
  block : List Byte
  entries : List Nat
  failed : Option (Nat × Nat)
  flush : Option (Nat × Nat)
  total : Option Nat
  cur : Option CurPic
  coded : Nat
  shown : Nat
  inRd : Nat
  outWr : Nat
  done : Nat
  concealed : Nat
  damaged : Nat
  poolWaits : Nat
  outWaits : Nat
  budgets : Nat
  starved : Bool
  wait : Option Nat
  fed : List Byte
  seq : Option SeqHeader
  unit : Option (List Byte)
  joined : Nat
  pixels : Nat
  cutAt : Option Nat
  recent : List Stands
  toShow : List Nat
  read : List Nat
  sizes : List Nat
  deriving DecidableEq, Repr

/-- One core (R491): `ctx` the stream it holds, `busy` while it has part in a slice in work, `acts` what it still has to do in
memory, `got` the bytes it has read for that and `hurt` where, in them, they were bad, `worked` ticks of its budget for the
picture (R481), `fault` the fault it waits on. -/
structure CodecCore where
  fence : Bool
  testing : Bool
  testFail : Bool
  awake : Bool
  ctx : Option Nat
  busy : Bool
  acts : List CodecAct
  got : List Byte
  hurt : List (Nat × Nat)
  worked : Nat
  fault : Option Nat
  pix : W64
  budgets : W64
  deriving DecidableEq, Repr

def CodecCore.reset : CodecCore :=
  { fence := false, testing := false, testFail := false, awake := false, ctx := none, busy := false, acts := []
    got := [], hurt := [], worked := 0, fault := none, pix := 0, budgets := 0 }

/-- A held record of the entry table (R473): owner, slot, mark, output-pending, an encode hold, the picture, its key in output order
while it has not been output, its address, and its picture record. -/
structure PoolEntry where
  ctx : Nat
  slot : Nat
  mark : Nat
  pending : Bool
  hold : Bool
  pic : Nat
  key : Option Int
  dpa : Nat
  record : List Byte
  deriving DecidableEq, Repr

structure Codec where
  cores : SMap CodecCore
  streams : SMap (Option Stream)
  entries : SMap (Option PoolEntry)
  poolBase : SMap W64
  poolSize : SMap W64
  faultLimit : W32
  concealCnt : W64
  capCnt : W64
  nextOrder : Nat
  deriving DecidableEq, Repr

def Codec.reset : Codec :=
  { cores := [], streams := [], entries := [], poolBase := [], poolSize := [], faultLimit := 3125000
    concealCnt := 0, capCnt := 0, nextOrder := 0 }

end Sys2Proof.Machine
end

