-- ==== Sys2Proof/Machine/StHearth.lean ====
section
/-! DEFINITION. Hearth, boot and trust (19). -/

namespace Sys2Proof.Machine

/-- One Hearth core (R493, R494): halted or not started, its restarts and the times of the last hour's. -/
structure HCore where
  halted : Bool
  restarts : BitVec 16
  times : List Nat
  kick : Nat
  deriving DecidableEq, Repr

def HCore.reset : HCore := ⟨false, 0, [], 0⟩

/-- A mailbox (R507, R508): negotiated version, last SEQ and the response it got. -/
structure Mailbox where
  version : Option (Nat × Nat)
  last : Option (Nat × List Byte)
  deriving DecidableEq, Repr

def Mailbox.reset : Mailbox := ⟨none, none⟩

/-- STATE of HEARTH_FW_STATUS (R523). -/
inductive FwState where
  | idle | staging | staged | verified | deferred | activating | trial | failed
  deriving DecidableEq, Repr

/-- A running FW_STAGE (R515): mailbox and SEQ of its request, source, size, and whether a watchdog restart has lost
the response (R521). -/
structure Staging where
  mb : Nat
  seq : Nat
  src : Nat
  bytes : Nat
  lost : Bool
  deriving DecidableEq, Repr

/-- The log partition as a ring of 64 KiB erase blocks (R535): the block written now and the bytes it holds, the sequence number of
the next record, and how often each block has been erased. -/
structure LogRing where
  block : Nat
  used : Nat
  seq : W32
  erases : SMap Nat
  deriving DecidableEq, Repr

def LogRing.reset : LogRing := ⟨0, 0, 0, []⟩

/-- Hearth, its flash, OTP and the security block. `spdm` is how far each path's SPDM connection has come: 1 after VERSION, 2 after
CAPABILITIES, 3 after ALGORITHMS. `running` is the image header that was booted or activated;
`staged` whether the staged image has verified since its last FW_STAGE. -/
structure Hearth where
  stage : Nat
  ready : Bool
  recovery : Bool
  halt : Bool
  slot : Nat
  onTrial : Bool
  fallback : Bool
  code : Nat
  fwState : FwState
  fwLevel : Nat
  fwCode : Nat
  running : List Byte
  staged : Bool
  stagedSlot : Nat
  staging : Option Staging
  cores : SMap HCore
  wdogPeriod : W32
  wdogLimit : W32
  flash : SMap Byte
  otp : SMap Byte
  meas : SMap (BitVec 512)
  mlog : List (Nat × BitVec 512)
  mlogLost : Nat
  boxes : SMap Mailbox
  reqBuf : SMap Byte
  respBuf : SMap Byte
  noteBuf : SMap Byte
  posted : Bool
  response : Bool
  notify : Bool
  waiting : List (List Byte)
  lost : BitVec 16
  vector : W32
  eid : BitVec 8
  crashSeq : Nat
  spdm : SMap Nat
  log : LogRing
  deriving DecidableEq, Repr

/-- Blank OTP is zero (R511); blank flash reads 0xFF. -/
def flashBlank : Byte := 0xFF

/-- Before boot: every core in reset (R492, R523). -/
def Hearth.reset : Hearth :=
  { stage := 0, ready := false, recovery := false, halt := false, slot := 0, onTrial := false, fallback := false
    code := 0, fwState := .idle, fwLevel := 0, fwCode := 0, running := [], staged := false, stagedSlot := 0
    staging := none, cores := [], wdogPeriod := 312500, wdogLimit := 4, flash := [], otp := [], meas := [], mlog := []
    mlogLost := 0, boxes := [], reqBuf := [], respBuf := [], noteBuf := [], posted := false, response := false
    notify := false, waiting := [], lost := 0, vector := 0, eid := 0, crashSeq := 0
    spdm := [], log := LogRing.reset }

end Sys2Proof.Machine
end

