-- ==== Sys2Proof/Machine/StModule.lean ====
section
/-! DEFINITION. Power, telemetry, test, reset and connectors (20, 21, 22). -/

namespace Sys2Proof.Machine

/-- Power and clocks (R524–R534, R543): level, step, the readings last sampled (W, mV, A, °C), the trip that holds
the module off, and the aging guard's rise of the core rail in mV. Ticks in a row: `clear` for which every condition of a
level has been clear by its hysteresis, by level (R529); `room` at level 1 with input power below 95 % of the limit, since
the last step up (R529); `idle` with no run on the array and none ready (R533); `calm` below level 2 (R516). -/
structure Power where
  level : Nat
  step : Nat
  watts : Nat
  mv : Nat
  amps : Nat
  tj : Int
  fmax : Nat
  limit : Nat
  gateIdle : W32
  sample : W32
  emergCnt : W64
  trip : Option Nat
  railMv : Nat
  clear : SMap Nat
  room : Nat
  idle : Nat
  calm : Nat
  deriving DecidableEq, Repr

/-- Readings before the first sample: nominal (48 V, nothing drawn). -/
def Power.reset : Power :=
  { level := 0, step := 32, watts := 0, mv := 48000, amps := 0, tj := 0, fmax := 32, limit := 2400
    gateIdle := 3125, sample := 31250, emergCnt := 0, trip := none, railMv := 0
    clear := [], room := 0, idle := 0, calm := 0 }

/-- The frozen crash record (R540): cause, time, TELEM_ALARM, PWR_STATUS, last events, core states. -/
structure CrashRec where
  code : Nat
  time : Nat
  alarm : Nat
  pwr : Nat
  events : List (List Byte)
  cores : List Nat
  deriving DecidableEq, Repr

/-- Telemetry registers (R537–R540, R543); `gathered` what core 3 has sampled and not yet published; `traceSeq` the next
number of each trace source, `trace` the records that have reached the trace buffer, for which the spec gives no address
(R539). -/
structure Telem where
  alarm : BitVec 8
  alarmCnt : SMap (BitVec 16)
  ctrl : W32
  evtBase : W64
  evtHead : W32
  evtTail : W32
  evtLost : W64
  gapCnt : W32
  gathered : Bool
  traceSeq : SMap W32
  trace : List (List Byte)
  inFlash : Bool
  later : Nat
  crash : Option CrashRec
  seq : Nat
  recent : List (List Byte)
  deriving DecidableEq, Repr

def Telem.reset : Telem :=
  { alarm := 0, alarmCnt := [], ctrl := 8, evtBase := 0, evtHead := 0, evtTail := 0, evtLost := 0
    gapCnt := 0, gathered := false, traceSeq := [], trace := [], inFlash := false, later := 0, crash := none, seq := 1, recent := [] }

/-- A test or retraining (R536, R545): OP, UNIT, INDEX, URGENT, PERSIST. -/
structure TestJob where
  op : Nat
  unit : Nat
  index : Nat
  urgent : Bool
  persist : Bool
  deriving DecidableEq, Repr

/-- Test and repair (R544–R558): fenced setts, the columns mapped on each die, the word of TEST_CMD, the running
command, those that wait for the job boundary, and the fields of TEST_STATUS and TEST_RESET_STATUS. -/
structure Test where
  fenced : SMap Bool
  cols : SMap (List Nat)
  cmd : W32
  job : Option TestJob
  waiting : List TestJob
  code : Nat
  last : Nat
  memKept : Bool
  count : BitVec 16
  deriving DecidableEq, Repr

def Test.reset : Test := ⟨[], [], 0, none, [], 0, 2, false, 0⟩

/-- Instruction that the TAP holds (R572). -/
inductive TapInstr where
  | bypass | idcode | samplePreload | extest | clamp | highz | extestPulse | extestTrain
  deriving DecidableEq, Repr

/-- An entry of a function's MSI-X table (R388): address, data and mask. PRESUMED: the form and reset of the PCI Express
base specification. -/
structure MsixEntry where
  addr : W64
  data : W32
  mask : Bool
  deriving DecidableEq, Repr

def MsixEntry.reset : MsixEntry := ⟨0, 0, true⟩

/-- Connectors (R559–R573): VIN, PWR_GOOD, the two reset inputs, the straps as sampled (bit 3 RECOVERY#, bits 2..0
SMB_ADDR), whether the end of a reset has sampled them before boot, REFCLK, the PCIe link and whether it runs SRIS, TRIP#, and the TAP's instruction.
`cfg` holds what the host wrote to configuration dwords (key 1024 function + dword), `msix` the MSI-X tables and `pba` the
pending bits (key 256 function + entry) (R386, R388). -/
structure Conn where
  vin : Bool
  pwrGood : Bool
  mrstLow : Bool
  perstLow : Bool
  straps : BitVec 4
  strapped : Bool
  linkUp : Bool
  sris : Bool
  tripLow : Bool
  tap : TapInstr
  cfg : SMap W32
  msix : SMap MsixEntry
  pba : SMap Bool
  deriving DecidableEq, Repr

/-- Powered, both reset inputs high, straps pulled up, link not yet started. -/
def Conn.reset : Conn :=
  { vin := true, pwrGood := true, mrstLow := false, perstLow := false, straps := 0xF, strapped := false, linkUp := false, sris := false
    tripLow := false, tap := .bypass, cfg := [], msix := [], pba := [] }

end Sys2Proof.Machine
end

