-- ==== Sys2Proof/Machine/State.lean ====
section
/-! DEFINITION. The whole state of the block, its reset, and the outcomes a step may answer. -/

namespace Sys2Proof.Machine

/-- What the block shows outside, in order. -/
inductive Out where
  /-- data of a BAR0 read -/
  | data (value : W32)
  /-- data of a BAR2 read, with the EP bit (R389, R340) -/
  | bar2 (bytes : List Byte) (ep : Bool)
  /-- an MSI-X signal of a function (R406) -/
  | msix (fn vector : Nat)
  /-- a configuration completion: retry, or answered (R501) -/
  | config (retry : Bool)
  /-- an answer of Hearth: mailbox 0–2 with SEQ; 8 + path for SPDM, 16 + path MCTP control, 24 + path PLDM (path 0 DOE, 1 PCIe
  VDM, 2 SMBus); its bytes -/
  | answer (mailbox seq : Nat) (bytes : List Byte)
  /-- the PLDM platform event of an alarm (R537) -/
  | pldm (alarm : Nat)
  /-- a flit sent on a Golger port -/
  | flit (port : Nat) (bytes : List Byte)
  /-- words that the selected TAP register shifts out on TDO, in order (R572) -/
  | tdo (words : List W32)
  /-- a pin driven: 0 ALERT#, 1 TRIP#, 2 PWR_GOOD -/
  | pin (name : Nat) (level : Bool)
  deriving DecidableEq, Repr

/-- The state of the block. `pending` is the queue of commands. -/
structure State where
  pending : List Instr
  aon : W64
  fresh : Nat
  out : List Out
  shadow : SMap (Option (Nat × W32))
  staging : SMap (Option (Nat × W32))
  woLow : SMap W32
  setts : SMap Sett
  cairn : SMap Cairn
  mem : Mem
  xlat : Xlat
  stile : Stile
  golger : Golger
  mortar : Mortar
  codec : Codec
  hearth : Hearth
  power : Power
  telem : Telem
  test : Test
  conn : Conn
  deriving DecidableEq, Repr

/-- No command of this block stops the machine with a fault: every failing event of the spec is
state (a status, a fault record, an ended run). The constructor exists so that the type is not
empty; nothing raises it (safe). -/
inductive Fault where
  /-- raised by no meaning; safe -/
  | none
  deriving DecidableEq, Repr

/-- Reasons to refuse a command. -/
inductive Refusal where
  /-- the command has no meaning in this model yet; raised by Dispatch alone; safe -/
  | notModelled (mnemonic : String)
  deriving DecidableEq, Repr

/-- What a command answers. -/
abbrev Answer := Host.Outcome State Fault Refusal

/-- Right after a level-M reset, before boot: every block at its reset values, memory zero (R580),
no command waiting. -/
def State.reset : State :=
  { pending := [], aon := 0, fresh := 0, out := [], shadow := [], staging := [], woLow := []
    setts := [], cairn := [], mem := Mem.reset, xlat := Xlat.reset, stile := Stile.reset
    golger := Golger.reset, mortar := Mortar.reset, codec := Codec.reset, hearth := Hearth.reset
    power := Power.reset, telem := Telem.reset, test := Test.reset, conn := Conn.reset }

end Sys2Proof.Machine
end

