-- ==== Sys2Proof/Machine/Memory.lean ====
section
/-! DEFINITION. Device and host memory, burst protection, page walks and accesses
(12 R317, 13 R337–R355, 14 R363–R371). -/

namespace Sys2Proof.Machine

/-! Object entries (R317): accessors over the 64 raw bytes -/

def objField (o : BitVec 512) (byte n : Nat) : Nat := o.toNat / 2 ^ (8 * byte) % 2 ^ (8 * n)
def objVa (o : BitVec 512) : Nat := objField o 0 8
def objBytes (o : BitVec 512) : Nat := objField o 8 8
def objTier (o : BitVec 512) : Nat := objField o 16 1
def objAttr (o : BitVec 512) : Nat := objField o 17 1
def objHome (o : BitVec 512) : Nat := field (objAttr o) 0 0
def objSpread (o : BitVec 512) : Bool := bit (objAttr o) 1
def objPin (o : BitVec 512) : Nat := field (objAttr o) 3 2
def objSclass (o : BitVec 512) : Nat := field (objAttr o) 5 4
def objTiled (o : BitVec 512) : Bool := bit (objAttr o) 6
def objKind (o : BitVec 512) : Nat := objField o 18 1
def objRegion (o : BitVec 512) : Nat := field (objField o 19 1) 3 0
def objSlice (o : BitVec 512) : Nat := objField o 20 4
def objReskey (o : BitVec 512) : Nat := objField o 24 8
def objFmt (o : BitVec 512) : Nat := objField o 32 1
def objRank (o : BitVec 512) : Nat := objField o 33 1
def objTE (o : BitVec 512) (k : Nat) : Nat := objField o (36 + 2 * k) 2
def objTC (o : BitVec 512) (k : Nat) : Nat := if k = 0 then 1 else objField o (42 + 2 * k) 2
def objScaleOff (o : BitVec 512) : Nat := objField o 50 6
def objHdrOff (o : BitVec 512) : Nat := objField o 56 6

/-- The object of a list that holds address `va`. -/
def findObject (objs : List (BitVec 512)) (va : Nat) : Option (BitVec 512) :=
  objs.find? fun o => decide (objVa o ≤ va) && decide (va < objVa o + objBytes o)

/-! Device-physical addresses (R365) -/

def hbmDieBytes : Nat := 216 * 2 ^ 30
def hbmDie1Base : Nat := 0x4000000000
def spreadBase : Nat := 0x8000000000
def fallowBase : Nat := 0x10000000000
def fallowBytes : Nat := 960 * 2 ^ 30

/-- Home-view or fallow address of a device-physical address; none outside every region. -/
def canonAddr (pa : Nat) : Option Nat :=
  if pa < hbmDieBytes then some pa
  else if hbmDie1Base ≤ pa ∧ pa < hbmDie1Base + hbmDieBytes then some pa
  else if spreadBase ≤ pa ∧ pa < spreadBase + 2 * hbmDieBytes then
    let x := pa - spreadBase
    let g := x % 131072 / 256
    some (g % 2 * hbmDie1Base + x / 131072 * 65536 + g / 2 * 256 + x % 256)
  else if fallowBase ≤ pa ∧ pa < fallowBase + fallowBytes then some pa
  else none

def isFallow (ca : Nat) : Bool := decide (fallowBase ≤ ca)

/-- The die whose controllers serve a canonical address (R320, R321). -/
def homeDie (ca : Nat) : Nat :=
  if isFallow ca then (ca - fallowBase) / 256 % 64 / 32
  else ca / hbmDie1Base

/-- Pseudo-channel of an HBM address, or sub-channel of its die for fallow (R320). -/
def homeChannel (ca : Nat) : Nat :=
  if isFallow ca then (ca - fallowBase) / 256 % 32
  else ca % hbmDie1Base / 256 % 192

/-- The HBM stack (six of 32 pseudo-channels on each die), or the fallow package (eight of four sub-channels), that holds an
address, and its UNIT of TEST_CMD. -/
def deviceOf (ca : Nat) : Nat × Nat :=
  if isFallow ca then (2, 8 * homeDie ca + homeChannel ca / 4) else (1, 6 * homeDie ca + homeChannel ca / 32)

def burstBytes (ca : Nat) : Nat := if isFallow ca then 64 else 32
def burstBase (ca : Nat) : Nat := ca / burstBytes ca * burstBytes ca

/-! The codes of stored bursts (R337, R347) -/

/-- Product in GF(2⁸) with field polynomial x⁸ + x⁴ + x³ + x² + 1: `n` bits of `b` from the top. -/
def gfMulGo (a b : Nat) : Nat → Nat → Nat
  | 0, acc => acc
  | n + 1, acc =>
    let x := if 128 ≤ acc then Nat.xor (2 * acc) 0x11D else 2 * acc
    gfMulGo a b n (if bit b n then Nat.xor x a else x)

def gfMul (a b : Nat) : Nat := gfMulGo a b 8 0

/-- α to a power; α is x. -/
def gfPow : Nat → Nat
  | 0 => 1
  | n + 1 => gfMul 2 (gfPow n)

/-- Multiply a polynomial (coefficient of x⁰ first) by (x − c). -/
def polyRoot (c : Nat) (g : List Nat) : List Nat :=
  List.zipWith Nat.xor (0 :: g) (g.map (gfMul c) ++ [0])

/-- g(x) = (x − 1)(x − α)(x − α²)(x − α³), coefficients of x⁰ to x⁴. -/
def rsGen : List Nat := [0, 1, 2, 3].foldl (fun g i => polyRoot (gfPow i) g) [1]

/-- One step of the division by g(x): the remainder of r(x) × x + d × x⁴. -/
def rsStep (r : List Nat) (d : Nat) : List Nat :=
  let f := Nat.xor d (r.getD 3 0)
  List.zipWith Nat.xor (0 :: r.take 3) ((rsGen.take 4).map (gfMul f))

/-- Check symbols q₀ … q₃ of data symbols d₀, d₁, …: Σ dₚ × x^(p + 4) modulo g(x). -/
def rsCheck (d : List Nat) : List Nat := d.reverse.foldl rsStep [0, 0, 0, 0]

/-- Value of a polynomial at αⁱ, coefficient of x⁰ first. -/
def polyAt (i : Nat) (w : List Nat) : Nat := w.reverse.foldl (fun v c => Nat.xor (gfMul v (gfPow i)) c) 0

/-- Data symbols of a burst: by pin for HBM (pin 8q + j carries bit j of byte 4b + q in beat b), by byte for fallow. -/
def burstSymbols (fallow : Bool) (bs : List Byte) : List Nat :=
  if fallow then bs.map (·.toNat)
  else (List.range 32).map fun p => ((List.range 8).map fun b =>
    b2n (bit (bs.getD (4 * b + p / 8) 0).toNat (p % 8)) * 2 ^ b).foldl (· + ·) 0

/-- Bytes of a burst from its data symbols. -/
def burstOfSymbols (fallow : Bool) (ds : List Nat) : List Byte :=
  if fallow then ds.map (BitVec.ofNat 8)
  else (List.range 32).map fun y => BitVec.ofNat 8 (((List.range 8).map fun j =>
    b2n (bit (ds.getD (8 * (y % 4) + j) 0) (y / 4)) * 2 ^ j).foldl (· + ·) 0)

/-- What a controller makes of a burst that it reads (R338). -/
inductive Decoded where
  | clean
  /-- symbol in error: 0–31 pins (0–63 bytes for fallow), then the check symbols -/
  | corrected (symbol : Nat)
  | poisoned
  | uncorrectable
  deriving DecidableEq, Repr

/-- Check symbols of the poison pattern (R339). -/
def poisonCheck : List Nat := [0x5A, 0xA5, 0, 0]

/-- Decode a word of data symbols and check symbols: the outcome and the data symbols as delivered. -/
def rsDecode (ds qs : List Nat) : Decoded × List Nat :=
  let w := qs ++ ds
  let syn := [0, 1, 2, 3].map fun i => polyAt i w
  let s0 := syn.getD 0 0
  if syn.all (· == 0) then (.clean, ds)
  else if ds.all (· == 0) && qs == poisonCheck then (.poisoned, ds)
  else match (List.range w.length).find? fun p => s0 != 0 &&
      [1, 2, 3].all fun i => syn.getD i 0 == gfMul s0 (gfPow (i * p % 255)) with
    | some p =>
      if p < 4 then (.corrected (ds.length + p), ds)
      else (.corrected (p - 4), ds.set (p - 4) (Nat.xor (ds.getD (p - 4) 0) s0))
    | none => (.uncorrectable, ds)

/-! State plumbing -/

def State.die (s : State) (d : Nat) : DieMem := s.mem.dies.get DieMem.reset d
def State.setDie (s : State) (d : Nat) (f : DieMem → DieMem) : State :=
  { s with mem := { s.mem with dies := SMap.modify DieMem.reset s.mem.dies d f } }
def State.line (s : State) (k : Nat) : Line := s.mem.lines.get Line.none k
def State.setLine (s : State) (k : Nat) (f : Line → Line) : State :=
  { s with mem := { s.mem with lines := SMap.modify Line.none s.mem.lines k f } }
def State.devByte (s : State) (ca : Nat) : Byte := s.mem.dev.get 0 ca
def State.emit (s : State) (o : Out) : State := { s with out := s.out ++ [o] }

/-- The stored burst that serves a burst of the map: its own, or the target of a granule that mapping out moved
(R343). -/
def State.phys (s : State) (b : Nat) : Nat :=
  if isFallow b then b
  else
    let d := homeDie b
    match (s.die d).remap.get 0 (b % hbmDie1Base / 256) with
    | 0 => b
    | t + 1 => d * hbmDie1Base + 256 * t + b % 256

/-- Symbol errors of the stored burst. -/
def State.errs (s : State) (b : Nat) : List Byte := s.mem.errs.get [] (s.phys b)

/-- Check group of a fallow burst (R347): the sub-channel, then its groups of 15 data bursts. -/
def fallowGroup (b : Nat) : Nat :=
  let g := (b - fallowBase) / 256
  g % 64 + 64 * ((g / 64 * 4 + b % 256 / 64) / 15)

/-- The symbols that a stored burst reads back: data and check symbols. -/
def storedWord (s : State) (b : Nat) : List Nat × List Nat :=
  let ds := burstSymbols (isFallow b) ((iota b (burstBytes b)).map s.devByte)
  let err := (s.errs b).map (·.toNat)
  let mix := fun (l e : List Nat) => List.zipWith Nat.xor l (e ++ List.replicate l.length 0)
  (mix ds err, mix (rsCheck ds) (err.drop ds.length))

/-- Outcome of reading a stored burst, and its bytes as delivered. A burst without symbol errors is a codeword, so it
is clean. -/
def decodeBurst (s : State) (b : Nat) : Decoded × List Byte :=
  let bs := (iota b (burstBytes b)).map s.devByte
  if isFallow b && s.mem.groupCrc.get false (fallowGroup b) then (.uncorrectable, bs)
  else if s.errs b = [] then (.clean, bs)
  else
    let w := storedWord s b
    let r := rsDecode w.1 w.2
    (r.1, burstOfSymbols (isFallow b) r.2)

/-- Capture of HBM_ERR_ADDR / FALLOW_ERR_ADDR: the first bad burst while VALID is clear (R338, R361). The channel is
that of the stored burst `ph`. -/
def errCapture (old : W64) (ca ph : Nat) (poison : Bool) : W64 :=
  if old.toNat / 2 ^ 63 % 2 = 1 then old
  else
    let addr := if isFallow ca then (ca - fallowBase) / 64 else ca % hbmDie1Base
    BitVec.ofNat 64 (2 ^ 63 + b2n poison * 2 ^ 62 + homeChannel ph * 2 ^ 54 + addr % 2 ^ 38)

/-- One transfer of a fallow sub-channel with its retry (R349): whether it succeeds. The check group becomes the one
whose check burst the controller holds (R348). -/
def linkTransfer (s : State) (b : Nat) : State × Bool :=
  if !isFallow b then (s, true)
  else
    let key := 32 * homeDie b + homeChannel b
    let l := s.mem.link.get [] key
    let hit := match l with
      | some false :: r => r
      | _ => l
    let count := if hit.head? = some (some true) then 1 else 0
    let ok := !(l.head? = some (some false) && hit.head? = some (some false))
    let s1 := s.setDie (homeDie b) fun m => { m with
      fLinkCnt := satAdd m.fLinkCnt count
      heldCheck := SMap.set 0 m.heldCheck (homeChannel b) (fallowGroup b + 1) }
    ({ s1 with mem := { s1.mem with link := SMap.set [] s1.mem.link key (hit.drop 1) } }, ok)

/-- Count one decoded burst (R338, R349) and give the status its requester receives (R340): 0 for data. A symbol
position that has corrected more bursts this period than the threshold allows asks for its pseudo-channel to be
marked (R341). -/
def countBurst (s : State) (b : Nat) (o : Decoded) : State × Nat :=
  let d := homeDie b
  let ph := s.phys b
  let fal := isFallow b
  match o with
  | .clean => (s, 0)
  | .corrected k =>
    (s.setDie d fun m =>
      if fal then { m with fCeCnt := satAdd m.fCeCnt 1 }
      else
        let pc := homeChannel ph
        let n := m.symbols.get 0 (64 * pc + k) + 1
        { m with ceCnt := satAdd m.ceCnt 1, symbols := SMap.set 0 m.symbols (64 * pc + k) n
                 failing := if decide (m.mapoutThresh < n) && !m.failing.contains pc then m.failing ++ [pc] else m.failing }, 0)
  | .uncorrectable =>
    (s.setDie d fun m =>
      if fal then { m with fUeCnt := satAdd m.fUeCnt 1, fErrAddr := errCapture m.fErrAddr b ph false }
      else { m with ueCnt := satAdd m.ueCnt 1, errAddr := errCapture m.errAddr b ph false },
     if fal then 0x0303 else 0x0301)
  | .poisoned =>
    (s.setDie d fun m =>
      if fal then { m with fUeCnt := satAdd m.fUeCnt 1, fErrAddr := errCapture m.fErrAddr b ph true }
      else { m with poisonCnt := satAdd m.poisonCnt 1, errAddr := errCapture m.errAddr b ph true }, 0x0302)

/-- Bytes that a burst delivers stand for its stored bytes: where a word of four or more symbol errors passes as
another codeword, what was read is that codeword's data, and `errs` are the errors beside it. -/
def deliver (s : State) (b : Nat) (bs : List Byte) : State :=
  let old := (iota b (burstBytes b)).map s.devByte
  if old = bs then s
  else
    let x := fun (l : List Byte) => let d := burstSymbols (isFallow b) l; d ++ rsCheck d
    let delta := List.zipWith Nat.xor (x old) (x bs)
    let err := (s.errs b).map (·.toNat)
    { s with mem := { s.mem with
      dev := SMap.setMany 0 s.mem.dev b bs
      errs := SMap.set [] s.mem.errs (s.phys b) ((List.zipWith Nat.xor delta (err ++ List.replicate delta.length 0)).map (BitVec.ofNat 8)) } }

/-- A controller's read of one stored burst: counts, and the requester's status. -/
def memRead (s : State) (b : Nat) : State × Decoded × Nat :=
  let t := linkTransfer s b
  let r := if t.2 then decodeBurst t.1 b else (.uncorrectable, [])
  let c := countBurst t.1 b r.1
  (if c.2 = 0 then deliver c.1 b r.2 else c.1, r.1, c.2)

/-- Symbol errors with list ends made canonical: none where every symbol is right. -/
def normErrs (l : List Byte) : List Byte := if l.all (· == 0) then [] else l

/-- A controller's write of one stored burst whose bytes are those of `dev`: what its cells cannot hold stays wrong.
A transfer that fails twice leaves the burst uncorrectable (R349). -/
def memWrite (s : State) (b : Nat) : State :=
  let t := linkTransfer s b
  let e := t.1.mem.stuck.get [] (t.1.phys b)
  { t.1 with mem := { t.1.mem with errs := SMap.set [] t.1.mem.errs (t.1.phys b) (if t.2 then e else [1, 1]) } }

/-- Sectors of a line that a burst fills. -/
def sectorMask (b : Nat) : BitVec 8 := (if isFallow b then 3#8 else 1#8) <<< (b % 256 / 32)

/-- The Lintel cache holds a copy of a burst (R351). -/
def hasCopy (s : State) (b : Nat) : Bool := (s.line (b / 256)).valid &&& sectorMask b == sectorMask b

/-- Write the poison pattern to the stored burst (R339, R347): zero data symbols and the pattern's check symbols. A Lintel
copy of the burst keeps its data. A transfer that fails twice leaves the burst uncorrectable (R349). -/
def memPoison (s : State) (b : Nat) : State :=
  let t := linkTransfer s b
  let n := burstBytes b
  let kept := if hasCopy s b then (iota b n).map s.devByte else List.replicate n 0
  let old := burstSymbols (isFallow b) kept
  let e := (t.1.mem.stuck.get [] (t.1.phys b)).map (·.toNat) ++ List.replicate (n + 4) 0
  let x := List.zipWith Nat.xor (List.zipWith Nat.xor (List.replicate n 0 ++ poisonCheck) (old ++ rsCheck old)) e
  { t.1 with mem := { t.1.mem with
    dev := SMap.setMany 0 t.1.mem.dev b kept
    errs := SMap.set [] t.1.mem.errs (t.1.phys b) (if t.2 then normErrs (x.map (BitVec.ofNat 8)) else [1, 1]) } }

/-! The Lintel cache (R350, R351, R355) -/

/-- Words of a line that lie in a burst. -/
def inBurst (b w : Nat) : Bool := decide (b % 256 / 8 ≤ w) && decide (w < (b % 256 + burstBytes b) / 8)

/-- Bases of the bursts of a line. -/
def lineBursts (k : Nat) : List Nat := (List.range (256 / burstBytes (256 * k))).map fun i => 256 * k + i * burstBytes (256 * k)

/-- Do two lines share a set of a slice? -/
def sameSet (j k : Nat) : Bool :=
  homeDie (256 * j) == homeDie (256 * k) && Config.lintelSlice j == Config.lintelSlice k && Config.lintelSet j == Config.lintelSet k

/-- The slice counts `n` word errors of line `k` (R355). -/
def countEcc (k n : Nat) (s : State) : State := s.setDie (homeDie (256 * k)) fun d => { d with lEccCnt := satAdd d.lEccCnt n }

/-- The slice reads bursts of a dirty line and finds their word errors: single ones it corrects, an uncorrectable one sets the
line's poison bits (R355). -/
def checkDirty (k : Nat) (bs : List Nat) (s : State) : State :=
  let l := s.line k
  let here := fun w => bs.any fun b => inBurst b w
  if l.hard.any here then (countEcc k 1 s).setLine k fun l => { l with poison := BitVec.allOnes 8 }
  else match l.soft.filter here with
    | [] => s
    | w => (countEcc k w.length s).setLine k fun l => { l with soft := l.soft.filter fun x => !here x }

/-- Write the dirty bursts of a line back to memory, lost ones as poison (R355); the line keeps what it holds clean. -/
def cleanLine (s : State) (k : Nat) : State :=
  let dirty := (lineBursts k).filter fun b => (s.line k).dirty &&& sectorMask b != 0
  let s1 := if dirty = [] then s else checkDirty k dirty s
  let s2 := dirty.foldl (fun s b => if (s1.line k).poison &&& sectorMask b = 0 then memWrite s b else memPoison s b) s1
  s2.setLine k fun l => { l with dirty := 0 }

/-- Write a line back and drop it. -/
def dropLine (s : State) (k : Nat) : State := (cleanLine s k).setLine k fun _ => Line.none

/-- The lines of line `k`'s set. -/
def setMates (s : State) (k : Nat) : List (Nat × Line) := s.mem.lines.filter fun e => sameSet e.1 k

/-- Line `k` has a way: it stands in its set of 16, the set has a free one, or a line that is not locked can leave (R350). -/
def hasWay (s : State) (k : Nat) : Bool :=
  decide (s.mem.lines.length < 16) || s.line k != Line.none ||
    decide ((setMates s k).length < 16) || (setMates s k).any fun e => !e.2.locked

/-- Make room for line `k`: where its set is full, one line that is not locked leaves; which one is the product's
choice. -/
def makeRoom (s : State) (k : Nat) : State :=
  if s.mem.lines.length < 16 ∨ s.line k ≠ Line.none ∨ (setMates s k).length < 16 then s
  else
    let free := ((setMates s k).filter fun e => !e.2.locked).map (·.1)
    match free[Config.lintelVictim s.fresh % free.length]? with
    | some v => dropLine { s with fresh := s.fresh + 1 } v
    | none => s

/-- Read a burst from memory; its line takes it where it may allocate and has a way. DESIGN CHOICE: of a set whose 16 lines
are all locked nothing leaves, and what it has no way for passes by the cache. -/
def fetchBurst (s : State) (b : Nat) (alloc : Bool := true) : State × Nat :=
  let r := memRead s b
  if r.2.2 ≠ 0 then (r.1, r.2.2)
  else if alloc && hasWay r.1 (b / 256) then
    ((makeRoom r.1 (b / 256)).setLine (b / 256) fun l => { l with valid := l.valid ||| sectorMask b }, 0)
  else (r.1, 0)

/-- A read has found burst `b` bad: a wait held on one of its words ends the run (R340). -/
def doomWaits (b status : Nat) (s : State) : State :=
  if s.mem.waits.any fun w => decide (b ≤ w.addr) && decide (w.addr < b + burstBytes b) then
    { s with mortar := { s.mortar with doom := some (s.mortar.doom.getD status) } }
  else s

/-- Read of one burst at its slice, and the status its requester receives: 0 for data (R355). -/
def sliceRead (s : State) (b : Nat) (alloc : Bool := true) : State × Nat :=
  let k := b / 256
  let l := s.line k
  let m := sectorMask b
  if l.poison &&& m ≠ 0 then (s, 0x0304)
  else if l.valid &&& m ≠ m then fetchBurst s b alloc
  else if l.hard.any (inBurst b) then
    if l.dirty ≠ 0 then ((countEcc k 1 s).setLine k fun l => { l with poison := BitVec.allOnes 8 }, 0x0304)
    else fetchBurst ((countEcc k 1 s).setLine k fun _ => Line.none) b alloc
  else match l.soft.filter (inBurst b) with
    | [] => (s, 0)
    | w => ((countEcc k w.length s).setLine k fun l => { l with soft := l.soft.filter fun x => !inBurst b x }, 0)

/-- Read of one burst, with what becomes of the waits on its words (R340, R355). -/
def readBurst (s : State) (b : Nat) (alloc : Bool := true) : State × Nat :=
  let r := sliceRead s b alloc
  (if r.2 = 0 then r.1 else doomWaits b r.2 r.1, r.2)

/-- Bases of the bursts that `len` bytes at canonical `ca` touch. -/
def burstsOf (ca len : Nat) : List Nat :=
  if len = 0 then []
  else
    let n := burstBytes ca
    (iota (ca / n) ((ca + len - 1) / n - ca / n + 1)).map (· * n)

def readBursts (alloc : Bool) : State → List Nat → State × Nat
  | s, [] => (s, 0)
  | s, b :: t =>
    let r := readBurst s b alloc
    if r.2 = 0 then readBursts alloc r.1 t else r

/-- Read bytes at a canonical address within one granule: data, or a status of R340. A read that does not allocate
leaves what it brings from memory out of the Lintel cache (R326). -/
def devRead (s : State) (ca len : Nat) (alloc : Bool := true) : State × Nat × List Byte :=
  let r := readBursts alloc s (burstsOf ca len)
  (r.1, r.2, (iota ca len).map r.1.devByte)

/-- Put the bytes of a write into the line of their burst; where it has no way, into memory. -/
def putBurst (b lo : Nat) (part : List Byte) (whole : Bool) (s : State) : State :=
  let m := sectorMask b
  let s1 := { s with mem := { s.mem with dev := SMap.setMany 0 s.mem.dev lo part } }
  if !hasWay s (b / 256) then memWrite s1 b
  else s1.setLine (b / 256) fun l =>
    { l with valid := l.valid ||| m, dirty := l.dirty ||| m, poison := l.poison &&& ~~~m
             soft := if whole then l.soft.filter (fun w => !inBurst b w) else l.soft
             hard := if whole then l.hard.filter (fun w => !inBurst b w) else l.hard }

/-- Write the part of `bs` (at `ca`) that falls in burst `b` (R339, R355): a bad burst that is not covered whole is
written back as poison and loses the bytes; a lost dirty burst keeps its poison bit. -/
def writeBurst (ca : Nat) (bs : List Byte) (s : State) (b : Nat) : State :=
  let n := burstBytes b
  let lo := max ca b
  let hi := min (ca + bs.length) (b + n)
  let whole := decide (lo = b) && decide (hi = b + n)
  let part := (bs.drop (lo - ca)).take (hi - lo)
  if whole then putBurst b lo part true (makeRoom s (b / 256))
  else
    let r := readBurst s b
    if r.2 = 0 then putBurst b lo part false r.1
    else if r.2 = 0x0304 then r.1
    else memPoison r.1 b

/-- Write bytes at a canonical address within one granule. -/
def devWrite (s : State) (ca : Nat) (bs : List Byte) : State :=
  (burstsOf ca bs.length).foldl (writeBurst ca bs) s

/-- A write of class STREAM (R326): a whole line goes to memory and any Lintel copy of it is invalidated. DESIGN CHOICE: a
write of a part of a line, and one to a locked line, is an ordinary write. -/
def streamWrite (s : State) (ca : Nat) (bs : List Byte) : State :=
  if ca % 256 = 0 ∧ bs.length = 256 ∧ (s.line (ca / 256)).locked = false then
    (lineBursts (ca / 256)).foldl memWrite
      ({ s with mem := { s.mem with dev := SMap.setMany 0 s.mem.dev ca bs } }.setLine (ca / 256) fun _ => Line.none)
  else devWrite s ca bs

/-- A byte of host memory: what was written, else a free value. -/
def State.hostByte (s : State) (a : Nat) : Byte := (s.mem.host.get none a).getD (Config.hostByte a)

def hostRead (s : State) (a len : Nat) : List Byte := (iota a len).map s.hostByte
def hostWrite (s : State) (a : Nat) (bs : List Byte) : State :=
  { s with mem := { s.mem with host := SMap.setMany none s.mem.host a (bs.map some) } }

/-! Translation (R363–R370) -/

/-- What an access does. -/
inductive AccKind where
  | read
  | write
  | atomic
  | waitOp
  deriving DecidableEq, Repr

def AccKind.needsWrite : AccKind → Bool
  | .write | .atomic => true
  | .read | .waitOp => false

def AccKind.atomicLike : AccKind → Bool
  | .atomic | .waitOp => true
  | .read | .write => false

/-- The engines that hold a TLB (R367): a sett, a Mortar context's DMA, a codec core, Stile's DMA, which also serves
BAR2, admission and Stile's own work. -/
inductive Engine where
  | sett (i : Nat)
  | mortar (ctx : Nat)
  | codec (core : Nat)
  | stile
  deriving DecidableEq, Repr

def Engine.key : Engine → Nat
  | .sett i => 4 * i
  | .mortar c => 4 * c + 1
  | .codec k => 4 * k + 2
  | .stile => 3

/-- The die whose walker serves an engine. -/
def Engine.die : Engine → Nat
  | .sett i => i / 204
  | .mortar c => c / 128
  | .codec k => k / 12
  | .stile => 0

/-- Who accesses: the client, the object list of the run it serves (none outside a run, R368), whether it is Mortar,
and the engine. -/
structure Agent where
  client : Nat
  objs : Option (List (BitVec 512))
  mortar : Bool
  engine : Engine := .stile

/-- A translated address. -/
inductive PAddr where
  | dev (ca : Nat)
  | host (a : Nat)
  | peer (va : Nat)
  deriving DecidableEq, Repr

/-- A translation's outcome: an address or a fault class. -/
inductive Xl where
  | ok (p : PAddr)
  | fault (cls : Nat)
  deriving DecidableEq, Repr

/-- Page size at a level (R363). -/
def pageBits : Nat → Nat
  | 0 => 16
  | 1 => 21
  | 2 => 30
  | _ => 39

/-- Entry index of `va` at a level (R363). -/
def walkIndex (va : Nat) : Nat → Nat
  | 0 => field va 20 16
  | 1 => field va 29 21
  | 2 => field va 38 30
  | _ => field va 47 39

/-- Alignment of the table that a pointer at this level names. -/
def tableAlign : Nat → Nat
  | 1 => 256
  | _ => 4096

/-- Tier that a leaf TARGET serves (R368). -/
def targetOk (tier target : Nat) : Bool :=
  match target with
  | 0 => tier == 0 || tier == 1 || tier == 4
  | 1 => tier == 2
  | 2 => tier == 3
  | _ => false

/-- The leaf of a walk (R364, R368, R370): the entry, its level and the object, if any. -/
def leafXl (ag : Agent) (obj : Option (BitVec 512)) (kind : AccKind) (va e lvl : Nat) : Xl :=
  let size := 2 ^ pageBits lvl
  let addr := field e 51 8 * 256
  let target := field e 5 4
  if addr % size ≠ 0 ∨ target = 3 then .fault 11
  else if target = 0 ∧ (canonAddr addr = none ∨ canonAddr (addr + size - 1) = none) then .fault 11
  else if (match obj with
      | some o => !targetOk (objTier o) target
      | none => false) then .fault 11
  else if target = 2 ∧ !ag.mortar then .fault 10
  else if target = 1 ∧ kind.atomicLike then .fault 9
  else if kind.needsWrite ∧ !bit e 2 then .fault 2
  else
    let a := addr + va % size
    match target with
    | 0 => match canonAddr a with
      | some ca => .ok (.dev ca)
      | none => .fault 11
    | 1 => .ok (.host a)
    | _ => .ok (.peer va)

/-- What a walk finds: a leaf that maps the address, or a fault class. -/
inductive Walked where
  | leaf (entry level : Nat)
  | fault (cls : Nat)
  deriving DecidableEq, Repr

/-- One step of the walk for each level left (R363, R364). Entries are read through the Lintel cache. -/
def walk (obj : Option (BitVec 512)) (va : Nat) : Nat → Nat → State → Walked × State
  | 0, _, s => (.fault 11, s)
  | lvl + 1, table, s =>
    match canonAddr (table + 8 * walkIndex va lvl) with
    | none => (.fault 11, s)
    | some ca =>
      let r := devRead s ca 8
      if r.2.1 ≠ 0 then (.fault 11, r.1)
      else
        let e := leNat r.2.2
        if !bit e 0 then
          (.fault (match obj with
            | some o => if objPin o ≠ 0 then 12 else 1
            | none => 1), r.1)
        else if field e 63 52 ≠ 0 ∨ field e 7 6 ≠ 0 ∨ bit e 3 then (.fault 11, r.1)
        else if bit e 1 then
          (if lvl = 3 then .fault 11 else .leaf e lvl, r.1)
        else if lvl = 0 ∨ field e 5 4 ≠ 0 ∨ bit e 2 then (.fault 11, r.1)
        else
          let next := field e 51 8 * 256
          if next % tableAlign lvl ≠ 0 ∨ canonAddr next = none then (.fault 11, r.1)
          else walk obj va lvl next r.1

def State.client (s : State) (c : Nat) : XlatClient := s.xlat.clients.get XlatClient.reset c
def State.setClient (s : State) (c : Nat) (f : XlatClient → XlatClient) : State :=
  { s with xlat := { s.xlat with clients := SMap.modify XlatClient.reset s.xlat.clients c f } }

/-! TLBs (R367, R368) -/

/-- Does an entry map an address of a client? -/
def TlbEntry.covers (e : TlbEntry) (client va : Nat) : Bool :=
  e.client == client && decide (e.va ≤ va) && decide (va < e.va + 2 ^ e.log2)

/-- The address that an entry gives an access which it permits; none where the tables must decide. -/
def TlbEntry.serve (e : TlbEntry) (ag : Agent) (obj : Option (BitVec 512)) (kind : AccKind) (va : Nat) : Option PAddr :=
  if (obj.all fun o => targetOk (objTier o) e.target) && (ag.mortar || e.target != 2) &&
      (e.target != 1 || !kind.atomicLike) && (e.write || !kind.needsWrite) then
    let a := e.addr + (va - e.va)
    match e.target with
    | 0 => (canonAddr a).map .dev
    | 1 => some (.host a)
    | _ => some (.peer va)
  else none

/-- log2 of the largest page, at most `2 ^ n` bytes, which holds the address and lies wholly within the object. -/
def tlbPage (obj : Option (BitVec 512)) (va n : Nat) : Nat :=
  match obj with
  | none => n
  | some o => (([30, 21, 16].filter (· ≤ n)).find? fun n =>
      decide (objVa o ≤ va / 2 ^ n * 2 ^ n) && decide (va / 2 ^ n * 2 ^ n + 2 ^ n ≤ objVa o + objBytes o)).getD 16

/-- The page of 2 ^ n bytes within an entry's page that holds the address. -/
def TlbEntry.clip (e : TlbEntry) (va n : Nat) : TlbEntry :=
  { e with va := va / 2 ^ n * 2 ^ n, log2 := n, addr := e.addr + (va / 2 ^ n * 2 ^ n - e.va) }

/-- The entry that a leaf makes: its page, or a part of it that lies wholly within the object. -/
def tlbEntry (ag : Agent) (obj : Option (BitVec 512)) (va e lvl : Nat) : TlbEntry :=
  let n := pageBits lvl
  TlbEntry.clip
    { client := ag.client, va := va / 2 ^ n * 2 ^ n, log2 := n, addr := field e 51 8 * 256
      target := field e 5 4, write := bit e 2 } va (tlbPage obj va n)

/-- Put an entry into a TLB of `size` entries: one for the same page leaves, and where the TLB is full one of the
product's choice. -/
def tlbPut (size pick : Nat) (e : TlbEntry) (l : List TlbEntry) : List TlbEntry :=
  let l1 := l.filter fun x => !x.covers e.client e.va
  (if size ≤ l1.length then l1.eraseIdx (Config.tlbVictim pick % size) else l1) ++ [e]

/-- Entries of the first-level TLB of an engine, and of its walker. -/
def State.tlb (s : State) (g : Engine) : List TlbEntry := s.xlat.tlbs.get [] g.key
def State.l2tlb (s : State) (d : Nat) : List TlbEntry := s.xlat.l2.get [] d

/-- The first entry of a TLB that serves an access. -/
def tlbFind (ag : Agent) (obj : Option (BitVec 512)) (kind : AccKind) (va : Nat) (l : List TlbEntry) : Option (TlbEntry × PAddr) :=
  l.findSome? fun e => if e.covers ag.client va then (e.serve ag obj kind va).map fun p => (e, p) else none

/-- Enter a page into the engine's TLB. -/
def fillTlb (ag : Agent) (e : TlbEntry) (s : State) : State :=
  { s with fresh := s.fresh + 1
           xlat := { s.xlat with tlbs := SMap.set [] s.xlat.tlbs ag.engine.key (tlbPut 64 s.fresh e (s.tlb ag.engine)) } }

/-- Enter a page into the TLB of the walker of the engine's die. -/
def fillL2 (ag : Agent) (e : TlbEntry) (s : State) : State :=
  let d := ag.engine.die
  { s with fresh := s.fresh + 1
           xlat := { s.xlat with l2 := SMap.set [] s.xlat.l2 d (tlbPut 8192 s.fresh e (s.l2tlb d)) } }

/-- A translation behind a first-level miss: the walker's TLB, or a walk of the tables, from the root in force. -/
def missXl (ag : Agent) (obj : Option (BitVec 512)) (kind : AccKind) (va : Nat) (s : State) : Xl × State :=
  match tlbFind ag obj kind va (s.l2tlb ag.engine.die) with
  | some (e, p) => (.ok p, fillTlb ag (e.clip va (tlbPage obj va e.log2)) s)
  | none =>
    let s1 := { s with xlat := { s.xlat with walkCnt := satAdd s.xlat.walkCnt 1 } }
    match walk obj va 4 (field (s.client ag.client).root.toNat 51 12 * 4096) s1 with
    | (.fault c, s2) => (.fault c, s2)
    | (.leaf e lvl, s2) => match leafXl ag obj kind va e lvl with
      | .fault c => (.fault c, s2)
      | .ok p =>
        let t := tlbEntry ag obj va e lvl
        (.ok p, fillTlb ag t (fillL2 ag t s2))

/-- Translation of one address in the order of R370, with what it leaves in the TLBs, counts and lines. -/
def xlate (ag : Agent) (kind : AccKind) (va : Nat) (s : State) : Xl × State :=
  let go (obj : Option (BitVec 512)) : Xl × State :=
    if !bit (s.client ag.client).root.toNat 0 then (.fault 1, s)
    else match tlbFind ag obj kind va (s.tlb ag.engine) with
      | some (_, p) => (.ok p, s)
      | none => missXl ag obj kind va { s with xlat := { s.xlat with missCnt := satAdd s.xlat.missCnt 1 } }
  match ag.objs with
  | none => if 2 ^ 48 ≤ va then (.fault 11, s) else go none
  | some objs =>
    match findObject objs va with
    | none => (.fault 8, s)
    | some o =>
      if objTier o = 2 ∧ kind.atomicLike then (.fault 9, s)
      else if objTier o = 3 ∧ !ag.mortar then (.fault 10, s)
      else go (some o)

/-- What an address translates to. -/
def translate (s : State) (ag : Agent) (kind : AccKind) (va : Nat) : Xl := (xlate ag kind va s).1

/-- Remove the entries of a client that overlap a range (R369). -/
def flushTlbs (client va log2 : Nat) (s : State) : State :=
  let keep (l : List TlbEntry) : List TlbEntry := l.filter fun e =>
    e.client != client || decide (e.va + 2 ^ e.log2 ≤ va) || decide (va + 2 ^ log2 ≤ e.va)
  let all (m : SMap (List TlbEntry)) : SMap (List TlbEntry) := m.foldl (fun t e => SMap.set [] t e.1 (keep e.2)) []
  { s with xlat := { s.xlat with tlbs := all s.xlat.tlbs, l2 := all s.xlat.l2 } }

/-- Outcome of an access to one granule. -/
inductive Acc where
  | ok (bytes : List Byte) (s : State)
  /-- fault class (R370) -/
  | fault (cls : Nat) (s : State)
  /-- memory status (R340) -/
  | bad (status : Nat) (s : State)

/-- The host link carries requests: the PCIe link is up (R499, R569). -/
def State.hostUp (s : State) : Bool := s.conn.linkUp

/-- A memory request of function `fn` on the host link (R366), and whether the host serves it (R370). -/
def hostRequest (fn addr len : Nat) (write : Bool) (s : State) : State × Bool :=
  if !s.hostUp then (s, false)
  else ({ s with mem := { s.mem with hostReq := some ⟨fn, addr, len, write⟩ } },
    (iota (addr / 4096) ((addr + len - 1) / 4096 - addr / 4096 + 1)).all fun p => s.mem.hostEnd.get none p == none)

/-- The object that holds an address for an agent. -/
def Agent.obj (ag : Agent) (va : Nat) : Option (BitVec 512) := ag.objs.bind fun l => findObject l va

/-- Lock the line of a Lintel-pinned object that an access has touched (R324). -/
def lockLine (ag : Agent) (va ca : Nat) (s : State) : State :=
  match ag.obj va with
  | some o => if objPin o = 2 ∧ s.line (ca / 256) ≠ Line.none then s.setLine (ca / 256) fun l => { l with locked := true } else s
  | none => s

/-- Mortar's access to a peer page: the VA and the peer's module identifier leave on the fabric (R366). -/
def peerRequest (ag : Agent) (va len : Nat) (bs : Option (List Byte)) (s : State) : State :=
  { s with mem := { s.mem with peerReq := some ⟨((ag.obj va).map fun o => field (objSlice o) 12 0).getD 0, va, len, bs⟩ } }

/-! The frame pool (R471) -/

/-- Bytes of the frame-pool reservation on a die. -/
def State.poolBytes (s : State) (d : Nat) : Nat := field (s.codec.poolSize.get 0 d).toNat 40 21 * 2 ^ 21

/-- Does a canonical address lie in a frame-pool reservation? -/
def State.inPool (s : State) (ca : Nat) : Bool :=
  [0, 1].any fun d =>
    let b := field (s.codec.poolBase.get 0 d).toNat 40 21 * 2 ^ 21
    decide (b ≤ ca) && decide (ca < b + s.poolBytes d)

/-- Stile's DMA refuses an access to the frame pool, with 0x0107 (R27, R394, R471). -/
def Agent.refused (ag : Agent) (s : State) (ca : Nat) : Bool := ag.engine == .stile && s.inPool ca

/-- The agent's ordinary accesses to `va` are of class STREAM (R326). -/
def Agent.streams (ag : Agent) (va : Nat) : Bool := (ag.obj va).any fun o => objSclass o == 1

/-- Read `len` bytes at `va`, within one 256-byte granule. A peer page, which Mortar alone reaches, is
another module's memory: its bytes are free values. -/
def readGranule (s : State) (ag : Agent) (kind : AccKind) (va len : Nat) : Acc :=
  match xlate ag kind va s with
  | (.fault c, s1) => .fault c s1
  | (.ok (.dev ca), s1) =>
    let r := devRead s1 ca len !(ag.streams va)
    if ag.refused s1 ca then .bad 0x0107 s1
    else if r.2.1 = 0 then .ok r.2.2 (lockLine ag va ca r.1) else .bad r.2.1 r.1
  | (.ok (.host a), s1) =>
    let h := hostRequest ag.client a len false s1
    if h.2 then .ok (hostRead h.1 a len) h.1 else .fault 3 h.1
  | (.ok (.peer _), s1) =>
    let s2 := peerRequest ag va len none s1
    .ok ((iota s2.fresh len).map Config.freeByte) { s2 with fresh := s2.fresh + len }

/-- Write bytes at `va`, within one 256-byte granule; a write to a peer page lands in another module. -/
def writeGranule (s : State) (ag : Agent) (kind : AccKind) (va : Nat) (bs : List Byte) : Acc :=
  match xlate ag kind va s with
  | (.fault c, s1) => .fault c s1
  | (.ok (.dev ca), s1) =>
    if ag.refused s1 ca then .bad 0x0107 s1
    else .ok [] (lockLine ag va ca (if ag.streams va then streamWrite s1 ca bs else devWrite s1 ca bs))
  | (.ok (.host a), s1) =>
    let h := hostRequest ag.client a bs.length true s1
    if h.2 then .ok [] (hostWrite h.1 a bs) else .fault 3 h.1
  | (.ok (.peer _), s1) => .ok [] (peerRequest ag va bs.length (some bs) s1)

/-- Split `[va, va + len)` at 256-byte granules: (address, length) pieces in order. -/
def granules (va len : Nat) : List (Nat × Nat) :=
  if len = 0 then []
  else
    (iota (va / 256) ((va + len - 1) / 256 - va / 256 + 1)).map fun g =>
      let lo := max va (256 * g)
      (lo, min (va + len) (256 * g + 256) - lo)

/-- Read a range granule by granule; stops at the first that fails. -/
def readRangeGo (ag : Agent) (kind : AccKind) : List (Nat × Nat) → List Byte → State → Nat × Acc
  | [], acc, s => (0, .ok acc s)
  | (va, len) :: t, acc, s =>
    match readGranule s ag kind va len with
    | .ok bs s' => readRangeGo ag kind t (acc ++ bs) s'
    | r => (va, r)

/-- Read `len` bytes at `va`: the outcome, with the address of the failing granule beside a failure. -/
def readRange (s : State) (ag : Agent) (kind : AccKind) (va len : Nat) : Nat × Acc :=
  readRangeGo ag kind (granules va len) [] s

def writeRangeGo (ag : Agent) (kind : AccKind) : List (Nat × Nat) → List Byte → State → Nat × Acc
  | [], _, s => (0, .ok [] s)
  | (va, len) :: t, bs, s =>
    match writeGranule s ag kind va (bs.take len) with
    | .ok _ s' => writeRangeGo ag kind t (bs.drop len) s'
    | r => (va, r)

/-- Write bytes at `va` granule by granule; stops at the first that fails. -/
def writeRange (s : State) (ag : Agent) (kind : AccKind) (va : Nat) (bs : List Byte) : Nat × Acc :=
  writeRangeGo ag kind (granules va bs.length) bs s

/-! Untranslated rings (R373, R405) -/

/-- Write at a register-held base for function `fn`: bit 63 HOST picks host memory, where a write that the host does
not take is lost; none when a device address lies in no region of R365. -/
def physWrite (s : State) (fn : Nat) (host : Bool) (addr : Nat) (bs : List Byte) : Option State :=
  if host then
    let h := hostRequest fn addr bs.length true s
    some (if h.2 then hostWrite h.1 addr bs else h.1)
  else match canonAddr addr, canonAddr (addr + bs.length - 1) with
    | some _, some _ => some ((granules addr bs.length).foldl (fun s g =>
        match canonAddr g.1 with
        | some ca => devWrite s ca ((bs.drop (g.1 - addr)).take g.2)
        | none => s) s)
    | _, _ => none

/-- Do bytes at a device address touch the frame pool? -/
def poolRange (s : State) (addr len : Nat) : Bool := (granules addr len).any fun g => (canonAddr g.1).any s.inPool

/-- Stile writes a record into a ring. DESIGN CHOICE: a slot in the frame pool, which Stile never writes (R471), cannot be
written, as one in no region of R365 cannot. -/
def ringWrite (s : State) (fn : Nat) (host : Bool) (addr : Nat) (bs : List Byte) : Option State :=
  if !host && poolRange s addr bs.length then none else physWrite s fn host addr bs

/-- Read at a register-held base for function `fn`; none for no region or a request that the host does not serve, or a
memory status. -/
def physRead (s : State) (fn : Nat) (host : Bool) (addr len : Nat) : Option (State × Nat × List Byte) :=
  if host then
    let h := hostRequest fn addr len false s
    if h.2 then some (h.1, 0, hostRead h.1 addr len) else none
  else match canonAddr addr, canonAddr (addr + len - 1) with
    | some _, some _ => some ((granules addr len).foldl (fun r g =>
        match canonAddr g.1 with
        | some ca =>
          let q := devRead r.1 ca g.2
          (q.1, if r.2.1 = 0 then q.2.1 else r.2.1, r.2.2 ++ q.2.2)
        | none => r) (s, 0, []))
    | _, _ => none

end Sys2Proof.Machine
end

