-- ==== Sys2Proof/Machine/Ops.lean ====
section
/-! DEFINITION. Shared operations over the whole state: telemetry events and alarms, fault records and
completion records (R370–R375, R405, R406, R537, R538). -/

namespace Sys2Proof.Machine

def clampNat (lo hi x : Nat) : Nat := if x < lo then lo else if hi < x then hi else x

/-- Time as the always-on counter shows it (R4). -/
def State.now (s : State) : Nat := s.aon.toNat

def State.sett (s : State) (i : Nat) : Sett := s.setts.get Sett.reset i
def State.setSett (s : State) (i : Nat) (f : Sett → Sett) : State :=
  { s with setts := SMap.modify Sett.reset s.setts i f }
def State.cl (s : State) (c : Nat) : Client := s.stile.clients.get Client.reset c
def State.setCl (s : State) (c : Nat) (f : Client → Client) : State :=
  { s with stile := { s.stile with clients := SMap.modify Client.reset s.stile.clients c f } }
def Client.q (c : Client) (n : Nat) : Queue := c.queues.get Queue.reset n
def State.setQ (s : State) (c n : Nat) (f : Queue → Queue) : State :=
  s.setCl c fun k => { k with queues := SMap.modify Queue.reset k.queues n f }
def State.cairnT (s : State) (t : Nat) : Cairn := s.cairn.get Cairn.reset t
def State.setCairn (s : State) (t : Nat) (f : Cairn → Cairn) : State :=
  { s with cairn := SMap.modify Cairn.reset s.cairn t f }

/-! Logical and physical setts (R5, R6) -/

/-- Physical columns of a die that serve logical columns 0, 1, …, as the last admission or resume
mapped them (R548). -/
def State.cols (s : State) (die : Nat) : List Nat := s.test.cols.get (List.range 16) die

/-- Physical index of logical (row, column); 408, which no sett has, for a column that is not mapped. -/
def State.physOf (s : State) (row col : Nat) : Nat :=
  match (s.cols (col / 16))[col % 16]? with
  | some p => col / 16 * 204 + row * 17 + p
  | none => 408

/-- Logical (row, column) of a physical sett; none on a spare column. -/
def State.logicalOf (s : State) (i : Nat) : Option (Nat × Nat) :=
  ((s.cols (i / 204)).findIdx? (· == i % 17)).map fun c => (i % 204 / 17, i / 204 * 16 + c)

/-- The rails are on: no trip holds the module off, and they are in regulation (R526, R571). -/
def State.powered (s : State) : Bool := s.power.trip.isNone && s.conn.pwrGood

/-- A Hearth core runs, so that what Hearth schedules happens (R494, R499). -/
def State.hearthRuns (s : State) : Bool := s.hearth.ready && !s.hearth.halt && s.powered

/-- The core that holds core 1's duties runs, as it does from boot step 4 on, where boot stops later too (R492, R499, R502). -/
def State.core1Runs (s : State) : Bool := decide (4 ≤ s.hearth.stage) && !s.hearth.halt && s.powered

/-! MSI-X (R386, R388) -/

/-- Entries of a function's MSI-X table. -/
def msixSize (fn : Nat) : Nat := if fn = 0 then 256 else 64

/-- What the host wrote to a configuration dword of a function. -/
def State.cfgDw (s : State) (fn dw : Nat) : W32 := s.conn.cfg.get 0 (1024 * fn + dw)

/-- May a function send the message of an entry? Bits 15 and 14 of Message Control enable the function and mask it. -/
def State.msixOpen (s : State) (fn v : Nat) : Bool :=
  bit (s.cfgDw fn 16).toNat 31 && !bit (s.cfgDw fn 16).toNat 30 && !(s.conn.msix.get MsixEntry.reset (256 * fn + v)).mask

/-- Signal an MSI-X entry of a function: its message leaves, or it is pending while masked; an entry beyond the table is
none. -/
def signal (fn v : Nat) (s : State) : State :=
  if msixSize fn ≤ v then s
  else if s.msixOpen fn v then s.emit (.msix fn v)
  else { s with conn := { s.conn with pba := SMap.set false s.conn.pba (256 * fn + v) true } }

/-! Telemetry (R537, R538) -/

/-- A source's 16-byte trace record: its number, then 12 bytes. On a busy path it is dropped, and the number advances (R539). -/
def Telem.traced (t : Telem) (source : Nat) (data : List Byte) : Telem :=
  let n := t.traceSeq.get 0 source
  { t with
    traceSeq := SMap.set 0 t.traceSeq source (n + 1)
    trace := if Config.tracePath source n then t.trace ++ [leBytes n.toNat 4 ++ (data ++ leBytes 0 12).take 12] else t.trace }

/-- Append an event record: 12 bytes of data, the code it concerns, its source and kind. Its source leaves a trace of it. -/
def raiseEvent (s : State) (code source kind : Nat) (data : List Byte) : State :=
  let t := s.telem
  let r := leBytes t.seq 8 ++ leBytes s.now 8 ++ leBytes code 2 ++ leBytes source 1 ++ leBytes kind 1
    ++ (data ++ leBytes 0 12).take 12
  let n := 2 ^ clampNat 6 16 (field t.ctrl.toNat 4 0)
  let ahead := (t.evtHead - t.evtTail).toNat
  let t1 := { t.traced source (leBytes code 2 ++ leBytes kind 1 ++ data) with
    seq := t.seq + 1, recent := (t.recent ++ [r]).drop (t.recent.length + 1 - 64) }
  if !bit t.ctrl.toNat 31 then { s with telem := t1 }
  else
    let lost := if n ≤ ahead then 1 else 0
    let slot := field t.evtBase.toNat 51 12 * 4096 + 32 * (t.evtHead.toNat % n)
    match physWrite s 0 (bit t.ctrl.toNat 30) slot r with
    | some s' => { s' with telem := { t1 with evtHead := t.evtHead + 1, evtLost := satAdd t.evtLost lost } }
    | none => { s with telem := { t1 with evtHead := t.evtHead + 1, evtLost := satAdd t.evtLost 1 } }

/-- Raise alarm bit `k` of TELEM_ALARM: bit, count, ALERT#, the MSI-X entry and, where Hearth core 1 runs, a
PLDM event (R537), with its alarm-copy event. -/
def raiseAlarm (s : State) (k code source : Nat) : State :=
  let t := s.telem
  let s1 := { s with telem := { t with
    alarm := t.alarm ||| (1#8 <<< k)
    alarmCnt := SMap.modify 0 t.alarmCnt k (fun c => satAdd c 1) } }
  let s2 := signal 0 (field t.ctrl.toNat 26 16) (s1.emit (.pin 0 true))
  let s3 := if s.core1Runs then s2.emit (.pldm k) else s2
  raiseEvent s3 code source 1 (leBytes k 12)

/-! Rings with PHASE (R373) -/

/-- Full: INDEX equal and PHASE different. -/
def ringFull (idx : Nat) (phase : Bool) (tail : W32) : Bool :=
  decide (idx = field tail.toNat 15 0) && decide (phase ≠ bit tail.toNat 16)

def ringEmpty (idx : Nat) (phase : Bool) (tail : W32) : Bool :=
  decide (idx = field tail.toNat 15 0) && decide (phase = bit tail.toNat 16)

/-! Fault queues (R373–R375) -/

def FaultRec.bytes (f : FaultRec) (phase : Bool) : List Byte :=
  leBytes (f.va % 2 ^ 48 / 256 * 256) 8 ++ leBytes f.id 8 ++ leBytes f.run 4 ++ leBytes f.agent 2
    ++ leBytes f.cls 1 ++ leBytes (f.acc % 128 + b2n phase * 128) 1 ++ leBytes f.time 8

def XlatClient.log2n (x : XlatClient) : Nat := clampNat 6 16 (field x.fqCtrl.toNat 4 0)

/-- Write the oldest held record if the ring is in use, has room and its slot is writable. -/
def drainFault (s : State) (c : Nat) : State :=
  let x := s.client c
  match x.held with
  | [] => s
  | f :: rest =>
    if !bit x.fqCtrl.toNat 31 || ringFull x.headIdx x.headPhase x.tail then s
    else
      let slot := field x.fqBase.toNat 51 12 * 4096 + 32 * x.headIdx
      match ringWrite s c (bit x.fqBase.toNat 63) slot (f.bytes x.headPhase) with
      | none => s.setClient c fun y => { y with bad := true }
      | some s1 =>
        let wasEmpty := ringEmpty x.headIdx x.headPhase x.tail
        let wrap := decide (2 ^ x.log2n ≤ x.headIdx + 1)
        let s2 := s1.setClient c fun y =>
          { y with held := rest, bad := false, faultCnt := satAdd y.faultCnt 1
                   headIdx := if wrap then 0 else x.headIdx + 1
                   headPhase := if wrap then !x.headPhase else x.headPhase }
        if wasEmpty then signal c (field x.fqCtrl.toNat 26 16) s2 else s2

def drainFaultsGo (c : Nat) : Nat → State → State
  | 0, s => s
  | n + 1, s => drainFaultsGo c n (drainFault s c)

/-- Write held records in FAULT_ID order as far as the ring has room (R374). -/
def drainFaults (s : State) (c : Nat) : State := drainFaultsGo c (s.client c).held.length s

/-- Is the class fatal (R370)? -/
def fatalClass (cls : Nat) : Bool := decide (8 ≤ cls)

/-- Status that a fatal class gives (R370). -/
def classStatus (cls : Nat) : Nat :=
  match cls with
  | 8 => 0x0311
  | 9 => 0x0312
  | 10 => 0x0313
  | 11 => 0x0314
  | _ => 0x0315

/-- ACC byte of a record (R373). -/
def accBits (kind : AccKind) (fatal : Bool) : Nat :=
  b2n kind.needsWrite + 2 * b2n kind.atomicLike + 4 * b2n fatal

/-- The FAULT_ID of the fault that a resumed transfer meets again: the same owner, granule and class (R380). -/
def sameFault (s : State) (c va cls : Nat) (owner : FaultOwner) : Option Nat :=
  match (s.client c).again with
  | some f => if f.owner = owner ∧ f.va / 256 = va / 256 ∧ f.cls = cls then some f.id else none
  | none => none

/-- The FAULT_ID that a fault takes: its old one where a resumed transfer meets it again, else the client's next. -/
def faultId (s : State) (c va cls : Nat) (owner : FaultOwner) : Nat := (sameFault s c va cls owner).getD (s.client c).nextId

/-- Take a fault: it takes the client's next FAULT_ID, its record is posted once the ring has room and, unless fatal, it
waits for an answer. One that a resumed transfer meets again waits on, and has no second record (R380). -/
def postFault (s : State) (c va cls : Nat) (kind : AccKind) (run agent : Nat) (owner : FaultOwner)
    (fatal : Bool := fatalClass cls) : State :=
  if (sameFault s c va cls owner).isSome then s.setClient c fun y => { y with again := none }
  else
    let x := s.client c
    let f : FaultRec := { id := x.nextId, va := va, run := run, agent := agent, cls := cls
                          acc := accBits kind fatal, time := s.now, owner := owner }
    drainFaults (s.setClient c fun y =>
      { y with nextId := y.nextId + 1, held := y.held ++ [f]
               waiting := if fatal then y.waiting else y.waiting ++ [f] }) c

/-! Completion records (R405, R406) -/

/-- Fields of a completion record; those that do not apply stay 0. -/
structure Comp where
  tag : Nat
  status : Nat
  type : Nat
  run : Nat := 0
  warn : Bool := false
  locus : Nat := 0
  wait : Nat := 0
  runt : Nat := 0
  save : Nat := 0
  preempts : Nat := 0
  faults : Nat := 0
  escCnt : Nat := 0
  escExh : Nat := 0
  escStatus : Nat := 0
  escRatio : Nat := 0
  start : Nat := 0
  fin : Nat := 0
  stall : Nat := 0

def Comp.bytes (r : Comp) (queue : Nat) (ep : Bool) : List Byte :=
  leBytes r.tag 8 ++ leBytes r.status 2 ++ leBytes queue 1 ++ leBytes r.type 1 ++ leBytes 0 4
    ++ leBytes r.run 4 ++ leBytes (b2n ep + 2 * b2n r.warn) 4 ++ leBytes r.locus 8
    ++ leBytes r.wait 8 ++ leBytes r.runt 8 ++ leBytes r.save 8 ++ leBytes r.preempts 4
    ++ leBytes r.faults 4 ++ leBytes r.escCnt 8 ++ leBytes r.escExh 8 ++ leBytes r.escStatus 4
    ++ leBytes 0 4 ++ leBytes r.escRatio 8 ++ leBytes r.start 8 ++ leBytes r.fin 8
    ++ leBytes r.stall 8 ++ leBytes 0 8

/-- Put `bs` over bytes `i …` of a record. -/
def patch (r : List Byte) (i : Nat) (bs : List Byte) : List Byte :=
  r.take i ++ bs ++ r.drop (i + bs.length)

def Client.log2n (c : Client) : Nat := clampNat 4 16 (field c.cqCtrl.toNat 4 0)
def Client.holdoff (c : Client) : Nat := field c.cqCtrl.toNat 15 5

/-- Signal a completion, at most once per HOLDOFF ticks (R406). -/
def signalCq (s : State) (c : Nat) : State :=
  let k := s.cl c
  if s.now < k.holdoffEnd then s.setCl c fun k => { k with deferred := true }
  else signal c (field k.cqCtrl.toNat 26 16) (s.setCl c fun k => { k with deferred := false, holdoffEnd := s.now + k.holdoff })

/-- Write the oldest waiting record if the ring is in use and has room. -/
def drainComp (s : State) (c : Nat) : State :=
  let k := s.cl c
  match k.held with
  | [] => s
  | h :: rest =>
    if !bit k.cqCtrl.toNat 31 || ringFull k.headIdx k.headPhase k.tail then s
    else
      let slot := field k.cqBase.toNat 51 12 * 4096 + 128 * k.headIdx
      let r := patch (patch h.bytes 10 (leBytes (h.queue + 128 * b2n k.headPhase) 1)) 12
        (leBytes (k.q h.queue).fetched.toNat 4)
      match ringWrite s c (bit k.cqBase.toNat 63) slot r with
      | none => s.setCl c fun k => { k with bad := true }
      | some s1 =>
        let wrap := decide (2 ^ k.log2n ≤ k.headIdx + 1)
        let s2 := s1.setCl c fun k =>
          { k with held := rest, bad := false
                   headIdx := if wrap then 0 else k.headIdx + 1
                   headPhase := if wrap then !k.headPhase else k.headPhase }
        let s3 := match h.desc with
          | some d => s2.setQ c h.queue fun q => { q with descs := q.descs.filter fun e => e.id != d }
          | none => s2
        if h.irq then signalCq s3 c else s3

def drainCompsGo (c : Nat) : Nat → State → State
  | 0, s => s
  | n + 1, s => drainCompsGo c n (drainComp s c)

/-- Write waiting completion records in order as far as the ring has room. -/
def drainComps (s : State) (c : Nat) : State := drainCompsGo c (s.cl c).held.length s

/-- Post a completion record for descriptor `d` of queue `q` (none: no descriptor, R395). -/
def postComp (s : State) (c q : Nat) (d : Option Nat) (irq : Bool) (r : Comp) : State :=
  let k := s.cl c
  let h : Held := { bytes := r.bytes q k.bar2Ep, irq := irq, queue := q, desc := d }
  let s1 := s.setCl c fun k => { k with held := k.held ++ [h], bar2Ep := false }
  let s2 := match d with
    | some d => s1.setQ c q fun x =>
        { x with descs := x.descs.map fun e => if e.id = d then { e with posted := true } else e }
    | none => s1
  drainComps s2 c

/-! Agents of the running run -/

/-- AGENT field of a sett's fault (R373). -/
def settAgent (s : State) (i : Nat) (u : UnitId) : Nat :=
  match s.logicalOf i with
  | none => 0
  | some (r, c) => r * 256 + c * 8 + (if u = .mesh then 1 else 0)

/-- The agent through which an engine accesses memory for the running run: its client and objects. -/
def runAgent (s : State) (g : Engine := .stile) : Agent :=
  match s.stile.cur with
  | none => { client := 0, objs := some [], mortar := false, engine := g }
  | some r => { client := r.client, objs := some r.manifest.objects, mortar := false, engine := g }

/-- The agent of a sett: its stream unit and mesh interface share a TLB (R367). -/
def settAg (s : State) (i : Nat) : Agent := runAgent s (.sett i)

/-- Count a fault record against the running run (R405 FAULTS). -/
def countRunFault (s : State) : State :=
  { s with stile := { s.stile with cur := s.stile.cur.map fun r => { r with faults := r.faults + 1 } } }

/-- A retraining has taken the device that holds an address out of service (R536). -/
def retrains (s : State) (ca : Nat) : Bool :=
  s.test.job.any fun j => j.op == 4 && deviceOf (if isFallow ca then ca else s.phys ca) == (j.unit, j.index)

/-- The array clock runs: at emergency level 3 it stands (R529). -/
def State.arrayRuns (s : State) : Bool := decide (s.power.level < 3) && s.powered

/-- MODE of a sett (R72): 2 in Recovery mode, where Hearth may run diagnostic sequences on setts (R502), 1 in self-test. -/
def State.settMode (s : State) (i : Nat) : Nat := if s.hearth.recovery then 2 else (s.sett i).mode

/-- The host reaches the registers: boot has ended and the link is up (R501). -/
def State.hostReady (s : State) : Bool := s.hearth.ready && s.conn.linkUp && s.powered

/-- An access of the host, which reaches the block once boot has ended (R501). -/
def fromHost (f : State → State) (s : State) : State := if s.hostReady then f s else s

/-! The repair log (R550, R511) -/

/-- The valid repair-log entries of OTP: (kind, die, index). -/
def State.repairs (s : State) : List (Nat × Nat × Nat) :=
  (List.range 128).filterMap fun k =>
    let w := leNat (SMap.getMany 0 s.hearth.otp (0x800 + 4 * k) 4)
    let x := Nat.xor (Nat.xor (field w 31 24) (field w 23 16)) (field w 15 8)
    if w = 0 ∨ field w 7 0 ≠ 255 - x then none else some (field w 31 28, field w 27 27, field w 26 16)

/-- Physical columns of a die in service: no fenced sett, no repair-log entry (R548). -/
def State.inService (s : State) (d : Nat) : List Nat :=
  let bad := s.repairs
  (List.range 17).filter fun c =>
    (List.range 12).all (fun r => !s.test.fenced.get false (204 * d + 17 * r + c)) && !bad.contains (1, d, c)

/-- Pseudo-channels of a die mapped out (R342). -/
def State.mappedOut (s : State) (d : Nat) : Nat :=
  ((List.range 192).filter fun k => bit (s.die d).mapout.toNat k).length

/-- The codes that a block issues (R576), for the blocks whose status the spec leaves unnamed somewhere. -/
def statusCodes : Nat → List Nat
  | 4 => [0x0401, 0x0402, 0x0403, 0x0405, 0x0406, 0x0407, 0x0408, 0x0409]
  | 6 => [0x0601, 0x0602, 0x0603, 0x0604, 0x0605, 0x0606, 0x0607, 0x0608, 0x060A]
  | 7 => [0x0701, 0x0702, 0x0703, 0x0704, 0x0706, 0x0707, 0x0708, 0x070A]
  | _ => [0x0A01, 0x0A02, 0x0A03, 0x0A04, 0x0A05]

/-- A status of a block's own for which the spec names no code: which of the block's codes it is is free (R19, R20, R576). -/
def freeStatus (block : Nat) (s : State) : Nat × State :=
  let l := statusCodes block
  ((l[(Config.freeWord s.fresh).toNat % l.length]?).getD 0, { s with fresh := s.fresh + 1 })

end Sys2Proof.Machine
end

