-- ==== Sys2Proof/Machine/Golger.lean ====
section
/-! DEFINITION. The Golger fabric and relay (R411–R429). -/

namespace Sys2Proof.Machine

/-! Ports -/

def State.port (s : State) (p : Nat) : GPort := s.golger.ports.get GPort.reset p
def State.setPort (s : State) (p : Nat) (f : GPort → GPort) : State :=
  { s with golger := { s.golger with ports := SMap.modify GPort.reset s.golger.ports p f } }

/-- Indices of a port's counts in register order (R429). -/
def cntFecCorr : Nat := 0
def cntFecUncorr : Nat := 1
def cntCrc : Nat := 2
def cntReplay : Nat := 3
def cntDown : Nat := 4
def cntDiscard : Nat := 5
def cntTx : Nat := 6
def cntRx : Nat := 7

def GPort.count (g : GPort) (k n : Nat) : GPort :=
  { g with cnt := SMap.modify 0 g.cnt k fun c => satAdd c n }

def GPort.credit (g : GPort) (vc : Nat) : Nat := g.credits.get 256 vc
def GPort.addCredit (g : GPort) (vc : Nat) (d : Nat) : GPort :=
  { g with credits := SMap.set 256 g.credits vc (min 256 (g.credit vc + d)) }
def GPort.spend (g : GPort) (vc : Nat) : GPort :=
  { g with credits := SMap.set 256 g.credits vc (g.credit vc - 1) }

/-- The port's link carries flits: UP, or DRAINING since. -/
def GPort.live (g : GPort) : Bool := g.phase == .up || (g.phase == .draining && g.lanes != 0)

/-- A code of R428 for a port: its LAST_CODE and a fabric event. -/
def portCode (p code : Nat) (s : State) : State :=
  raiseEvent (s.setPort p fun g => { g with lastCode := code }) code 5 0 (leBytes p 1)

/-! Flits (R416) -/

/-- Flit types. -/
def ftIdle : Nat := 0
def ftData : Nat := 1
def ftCredit : Nat := 2
def ftReplay : Nat := 3
def ftAbort : Nat := 4
def ftIdent : Nat := 5

/-- Fields of a flit header. -/
structure FHdr where
  type : Nat
  seq : Nat := 0
  ack : Nat := 0
  ccnt : Nat := 0
  cvc : Nat := 0
  dst : Nat := 0
  src : Nat := 0
  first : Bool := false
  last : Bool := false
  hops : Nat := 0
  vc : Nat := 0
  len : Nat := 0

def FHdr.bytes (h : FHdr) : List Byte :=
  leBytes (h.type % 16 + h.seq % 4096 * 2 ^ 4 + h.ack % 4096 * 2 ^ 16 + h.ccnt % 256 * 2 ^ 28
    + h.cvc % 4 * 2 ^ 36 + h.dst % 8192 * 2 ^ 38 + h.src % 8192 * 2 ^ 51 + b2n h.first * 2 ^ 64
    + b2n h.last * 2 ^ 65 + h.hops % 16 * 2 ^ 66 + h.vc % 4 * 2 ^ 70 + h.len % 256 * 2 ^ 72) 12

/-- The whole flit: header, payload padded with zeros, link CRC. -/
def flitBytes (h : FHdr) (payload : List Byte) : List Byte :=
  let b := h.bytes ++ (payload ++ leBytes 0 240).take 240
  b ++ leBytes (crc32 b) 4

def parseFlit (bs : List Byte) : FHdr :=
  let x := leNat (bs.take 12)
  { type := field x 3 0, seq := field x 15 4, ack := field x 27 16, ccnt := field x 35 28, cvc := field x 37 36
    dst := field x 50 38, src := field x 63 51, first := bit x 64, last := bit x 65, hops := field x 69 66
    vc := field x 71 70, len := field x 79 72 }

def flitPayload (bs : List Byte) (len : Nat) : List Byte := (bs.drop 12).take (min len 240)

/-- Put a flit on the wire: it counts as sent. -/
def emitFlit (p : Nat) (bs : List Byte) (s : State) : State :=
  (s.setPort p fun g => g.count cntTx 1).emit (.flit p bs)

/-- Highest SEQ received in order. -/
def GPort.ack (g : GPort) : Nat := (g.rxSeq + 4095) % 4096

/-- An idle or credit-only flit with the port's ACK and `n` credits for channel `vc`. -/
def sendCredit (p vc n : Nat) (s : State) : State :=
  let g := s.port p
  if g.live then
    emitFlit p (flitBytes { type := if n = 0 then ftIdle else ftCredit, ack := g.ack, ccnt := n, cvc := vc } []) s
  else s

/-! Sending (R417, R419, R421) -/

/-- The oldest message of a virtual channel on a port. -/
def GPort.headMsg (g : GPort) (vc : Nat) : Option TxMsg := g.msgs.find? fun m => decide (m.vc = vc)

/-- Can channel `vc` send a flit now? -/
def GPort.canSend (g : GPort) (vc : Nat) : Bool :=
  match g.headMsg vc with
  | none => false
  | some m => !m.flits.isEmpty && decide (0 < g.credit vc) && decide (g.replay.length < 1024)

/-- Next channel to send, taking turns flit by flit. -/
def GPort.pickVc (g : GPort) : Option Nat :=
  ([0, 1, 2, 3].map fun k => (g.nextVc + k) % 4).find? g.canSend

/-- Change a message of a port by key. -/
def GPort.setMsg (g : GPort) (key : Nat) (f : TxMsg → TxMsg) : GPort :=
  { g with msgs := g.msgs.map fun m => if m.key = key then f m else m }

/-- Send the next flit of channel `vc` of a port. -/
def sendFlit (p vc : Nat) (s : State) : State :=
  let g := s.port p
  match g.headMsg vc with
  | none => s
  | some m =>
    match m.flits with
    | [] => s
    | f :: rest =>
      let h : FHdr := { type := if f.abort then ftAbort else ftData, seq := g.txSeq, dst := m.dst, src := m.src
                        first := f.first, last := f.last, hops := m.hops, vc := vc, len := f.payload.length }
      let bs := flitBytes h f.payload
      let s1 := s.setPort p fun g =>
        let g1 := { (g.spend vc) with txSeq := (g.txSeq + 1) % 4096, replay := g.replay ++ [(g.txSeq, bs)]
                                      nextVc := (vc + 1) % 4
                                      waits := SMap.set 0 g.waits vc 0, stalled := SMap.set false g.stalled vc false }
        if f.last ∨ f.abort then { g1 with msgs := g1.msgs.filter fun x => decide (x.key ≠ m.key) }
        else g1.setMsg m.key fun m => { m with flits := rest, started := true }
      let s2 := emitFlit p bs s1
      match f.freed with
      | some (ip, iv) => sendCredit ip iv 1 s2
      | none => s2

def drainPortGo (p : Nat) : Nat → State → State
  | 0, s => s
  | n + 1, s =>
    if !(s.port p).live then s
    else match (s.port p).pickVc with
      | none => s
      | some vc => drainPortGo p n (sendFlit p vc s)

/-- Send every flit that the port's credits and replay buffer allow. -/
def drainPort (p : Nat) (s : State) : State :=
  drainPortGo p (((s.port p).msgs.map fun m => m.flits.length).foldl (· + ·) 0) s

/-! Routes (R422, R423) -/

def State.route (s : State) (dst : Nat) : W32 := s.golger.routes.get 0 dst

/-- Ports of a route entry that are UP and whose role permits the traffic, in ascending order. -/
def candidates (s : State) (dst : Nat) (fwd : Bool) : List Nat :=
  let e := (s.route dst).toNat
  if !bit e 14 then []
  else (List.range 12).filter fun p =>
    bit e p && (s.port p).phase == .up && (!fwd || bit (s.port p).ctrl.toNat 1)

def countNoRoute (s : State) : State :=
  { s with golger := { s.golger with norouteCnt := satAdd s.golger.norouteCnt 1 } }

/-- The port and channel of a message, or none for 0x0502. -/
def pickRoute (s : State) (src dst vc : Nat) (fwd : Bool) : Option (Nat × Nat) :=
  let cs := candidates s dst fwd
  match cs[src % cs.length]? with
  | none => none
  | some p => some (p, if bit (s.route dst).toNat 13 then min (vc + 1) 3 else vc)

/-- Payload of a message in flits of 240 bytes; an empty message is one flit of length 0. -/
def chop : Nat → List Byte → List (List Byte)
  | 0, _ => []
  | n + 1, bs => bs.take 240 :: chop n (bs.drop 240)

def msgFlits (bs : List Byte) : List TxFlit :=
  let ps := chop (max 1 (ceilDiv bs.length 240)) bs
  (List.range ps.length).map fun k =>
    { first := decide (k = 0), last := decide (k + 1 = ps.length), abort := false, payload := ps.getD k []
      freed := none }

/-- Add a message to an output port. -/
def addMsg (p : Nat) (m : TxMsg) (s : State) : State :=
  { s with golger := { (s.setPort p fun g => { g with msgs := g.msgs ++ [m] }).golger with
      nextKey := s.golger.nextKey + 1 } }

def noteLost (tag code : Nat) (s : State) : State :=
  if tag = 0 then s else { s with golger := { s.golger with lost := s.golger.lost ++ [(tag, code)] } }

/-- Mortar hands over a message (R421, R422). `tag` names what Golger tells Mortar if it is lost. -/
def golgerSend (dst tag : Nat) (bs : List Byte) (s : State) : State :=
  let me := s.golger.moduleId
  if dst = me then { s with golger := { s.golger with inbox := s.golger.inbox ++ [⟨me, bs⟩] } }
  else match pickRoute s me dst 0 false with
    | none => noteLost tag 0x0502 (raiseEvent (countNoRoute s) 0x0502 5 0 (leBytes dst 2))
    | some (p, vc) =>
      drainPort p (addMsg p { key := s.golger.nextKey, vc := vc, src := me, dst := dst, hops := s.golger.hopLimit
                              tag := tag, started := false, ended := true, flits := msgFlits bs } s)

/-! Discards and links (R418, R425, R426) -/

/-- One discarded message of an input port. -/
def discardMsg (p code : Nat) (s : State) : State :=
  portCode p code (s.setPort p fun g => g.count cntDiscard 1)

/-- End a forwarded message with an abort flit after the last flit that was forwarded. -/
def abortForward (p key : Nat) (s : State) : State :=
  drainPort p (s.setPort p fun g => g.setMsg key fun m =>
    { m with ended := true, flits := m.flits ++ [⟨false, false, true, [], none⟩] })

/-- The input of a partly received message is lost. -/
def dropRx (p vc : Nat) (s : State) : State :=
  match (s.port p).rx.get none vc with
  | none => s
  | some r =>
    let s1 := s.setPort p fun g => { g with rx := SMap.set none g.rx vc none }
    match r.dest with
    | .deliver => discardMsg p 0x0506 s1
    | .forward q key => abortForward q key s1
    | .discard => s1

/-- Credits of the input buffers that a dropped message's waiting flits held. -/
def freeFlits (fs : List TxFlit) (s : State) : State :=
  fs.foldl (fun s f => match f.freed with
    | some (ip, iv) => sendCredit ip iv 1 s
    | none => s) s

/-- A message that the sending side of a port drops: one of this module is reported, and Mortar learns of it (R428). -/
def abandonMsg (p : Nat) (m : TxMsg) (s : State) : State :=
  let s1 := freeFlits m.flits s
  noteLost m.tag 0x0506 (if m.src = s.golger.moduleId then portCode p 0x0506 s1 else s1)

/-- Every message on the port is abandoned. -/
def dropTx (p : Nat) (s : State) : State :=
  let ms := (s.port p).msgs
  let s1 := s.setPort p fun g => { g with msgs := [], replay := [] }
  ms.foldl (fun s m => abandonMsg p m s) s1

/-- Everything on a port that has left UP is abandoned (R426). -/
def abandonPort (p : Nat) (s : State) : State :=
  let s1 := dropTx p s
  let s2 := [0, 1, 2, 3].foldl (fun s vc => dropRx p vc s) s1
  s2.setPort p fun g =>
    { g with lanes := 0, peer := none, credits := [], asked := false, rxAsks := 0, txAsks := (0, 0), rx := [], cwPos := 0, cwBad := false }

/-- A link fault takes a port down (R412, R418, R426): trained again if AUTO is set. -/
def linkDown (p : Nat) (s : State) : State :=
  let g := s.port p
  let next : PortPhase :=
    if bit g.ctrl.toNat 0 then .disabled
    else if (bit g.ctrl.toNat 2 || g.phase == .draining) && s.hearthRuns then .training else .down
  let s1 := s.setPort p fun g => { (g.count cntDown 1) with phase := next }
  portCode p 0x0501 (abandonPort p s1)

/-- LINK_FAULT: only a port in UP, or draining, has a link to lose. -/
def golgerLinkFault (p : Nat) (s : State) : State := if (s.port p).live then linkDown p s else s

/-! Receiving (R416–R419, R422, R423, R426) -/

/-- Ask for the expected SEQ again; the eighth request in a row for it takes the port down. -/
def askReplay (p : Nat) (s : State) : State :=
  let g := s.port p
  let n := g.rxAsks + 1
  let s1 := emitFlit p (flitBytes { type := ftReplay, seq := g.rxSeq, ack := g.ack } [])
    (s.setPort p fun g => { (g.count cntReplay 1) with asked := true, rxAsks := n })
  if 8 ≤ n then linkDown p s1 else s1

/-- The SEQs up to `a` are acknowledged. -/
def GPort.acked (g : GPort) (a : Nat) : GPort :=
  { g with replay := g.replay.filter fun e => decide (2048 ≤ (a + 4096 - e.1) % 4096) }

/-- Deliver the part of a message that a flit brings; LAST hands it to Mortar. -/
def deliverPart (p vc : Nat) (r : RxMsg) (h : FHdr) (pay : List Byte) (s : State) : State :=
  let bs := r.bytes ++ pay
  let s1 := sendCredit p vc 1 s
  if h.last then
    let s2 := s1.setPort p fun g => { g with rx := SMap.set none g.rx vc none }
    { s2 with golger := { s2.golger with inbox := s2.golger.inbox ++ [⟨r.src, bs⟩] } }
  else s1.setPort p fun g => { g with rx := SMap.set none g.rx vc (some { r with bytes := bs }) }

/-- Pass a flit of a forwarded message on. -/
def forwardPart (p vc q key : Nat) (h : FHdr) (pay : List Byte) (s : State) : State :=
  let s1 := if h.last then s.setPort p fun g => { g with rx := SMap.set none g.rx vc none } else s
  if ((s1.port q).msgs.any fun m => decide (m.key = key) && !m.ended) then
    drainPort q (s1.setPort q fun g => g.setMsg key fun m =>
      { m with ended := h.last, flits := m.flits ++ [⟨h.first, h.last, false, pay, some (p, vc)⟩] })
  else sendCredit p vc 1 s1

/-- A flit of a discarded message. -/
def discardPart (p vc : Nat) (h : FHdr) (s : State) : State :=
  let s1 := sendCredit p vc 1 s
  if h.last then s1.setPort p fun g => { g with rx := SMap.set none g.rx vc none } else s1

/-- Where the message of an arriving FIRST flit goes (R422, R423). -/
def routeFirst (p : Nat) (h : FHdr) (s : State) : State × RxDest :=
  if h.dst = s.golger.moduleId then (s, .deliver)
  else if !bit (s.port p).ctrl.toNat 1 then (discardMsg p 0x0505 s, .discard)
  else match pickRoute s h.src h.dst h.vc true with
    | none => (discardMsg p 0x0502 (countNoRoute s), .discard)
    | some (q, vc) =>
      if h.hops = 0 then
        (discardMsg p 0x0503 { s with golger := { s.golger with ttlCnt := satAdd s.golger.ttlCnt 1 } }, .discard)
      else
        (addMsg q { key := s.golger.nextKey, vc := vc, src := h.src, dst := h.dst, hops := h.hops - 1, tag := 0
                    started := false, ended := false, flits := [] } s, .forward q s.golger.nextKey)

/-- An accepted data flit. A FIRST flit ends a message that was still open on its channel. -/
def acceptData (p : Nat) (h : FHdr) (pay : List Byte) (s : State) : State :=
  let vc := h.vc
  let s1 := if h.first then
      let d := dropRx p vc s
      let r := routeFirst p h d
      r.1.setPort p fun g => { g with rx := SMap.set none g.rx vc (some ⟨r.2, h.src, []⟩) }
    else s
  match (s1.port p).rx.get none vc with
  | none => sendCredit p vc 1 s1
  | some r =>
    match r.dest with
    | .deliver => deliverPart p vc r h pay s1
    | .forward q key => forwardPart p vc q key h pay s1
    | .discard => discardPart p vc h s1

/-- An accepted abort flit (R426). -/
def acceptAbort (p : Nat) (h : FHdr) (s : State) : State :=
  dropRx p h.vc (sendCredit p h.vc 1 s)

/-- A flit with SEQ: accepted in order, else discarded until it is asked for again (R417). -/
def sequenced (p : Nat) (h : FHdr) (accept : State → State) (s : State) : State :=
  let g := s.port p
  if h.seq = g.rxSeq then
    accept (sendCredit p 0 0
      (s.setPort p fun g => { g with rxSeq := (g.rxSeq + 1) % 4096, asked := false, rxAsks := 0 }))
  else if g.asked then s else askReplay p s

/-- Is a flit intact: neither marked by the FEC nor failing its CRC (R415, R416)? -/
def flitCrcOk (f : Flit) : Bool :=
  decide (f.bytes.length = 256) && decide (crc32 (f.bytes.take 252) = leNat (f.bytes.drop 252))

/-! Codewords (R415): 514 data symbols of 10 bits, and flits of 2,048 bits across their boundaries -/

def cwBits : Nat := 5140

/-- Does a codeword begin within the flit that arrives next? -/
def GPort.cwBegins (g : GPort) : Bool := decide (g.cwPos = 0) || decide (cwBits < g.cwPos + 2048)

/-- Does a codeword that overlaps the flit fail? -/
def GPort.marked (g : GPort) (f : Flit) : Bool := (decide (g.cwPos ≠ 0) && g.cwBad) || (g.cwBegins && f.fecFailed)

/-- The port after the FEC of one flit's stretch of the stream. -/
def GPort.fec (g : GPort) (f : Flit) : GPort :=
  let g1 := { g with cwPos := (g.cwPos + 2048) % cwBits, cwBad := if g.cwBegins then f.fecFailed else g.cwBad }
  if !g.cwBegins then g1 else if f.fecFailed then g1.count cntFecUncorr 1 else g1.count cntFecCorr f.fecCorrected

/-- A flit arrives on a port: the counts, then `use` of an intact one; a damaged one is asked for. -/
def flitArrives (p : Nat) (f : Flit) (use : FHdr → List Byte → State → State) (s : State) : State :=
  let g := s.port p
  if !g.live then s
  else
    let s1 := s.setPort p fun g => (g.count cntRx 1).fec f
    if g.marked f then askReplay p s1
    else if !flitCrcOk f then askReplay p (s1.setPort p fun g => g.count cntCrc 1)
    else
      let h := parseFlit f.bytes
      use h (flitPayload f.bytes h.len) s1

/-- Every flit from the named SEQ is sent again; eight requests in a row for one SEQ take the port down (R417, R418). -/
def replayFrom (p : Nat) (h : FHdr) (s : State) : State :=
  let g := s.port p
  let n := if g.txAsks.1 = h.seq then g.txAsks.2 + 1 else 1
  let s1 := s.setPort p fun g => { (g.acked ((h.seq + 4095) % 4096)) with txAsks := (h.seq, n) }
  if 8 ≤ n then linkDown p s1
  else drainPort p ((s1.port p).replay.foldl (fun s e => emitFlit p e.2 s) s1)

/-- What an intact flit does, by its TYPE (R416–R419, R426). DESIGN CHOICE: one of a reserved TYPE does nothing. -/
def flitUse (p : Nat) (h : FHdr) (pay : List Byte) (s : State) : State :=
  if h.type = ftData then sequenced p h (acceptData p h pay) s
  else if h.type = ftAbort then sequenced p h (acceptAbort p h) s
  else if h.type = ftIdent then sequenced p h id s
  else if h.type = ftReplay then replayFrom p h s
  else if h.type = ftIdle ∨ h.type = ftCredit then drainPort p (s.setPort p fun g => (g.acked h.ack).addCredit h.cvc h.ccnt)
  else s

/-- DATA_FLIT, ABORT_FLIT, IDLE_FLIT and CREDIT_ONLY_FLIT, REPLAY_REQUEST: the flit's TYPE says what it is. -/
def golgerData (p : Nat) (f : Flit) (s : State) : State := flitArrives p f (flitUse p) s
def golgerAbort (p : Nat) (f : Flit) (s : State) : State := flitArrives p f (flitUse p) s
def golgerCredits (p : Nat) (f : Flit) (s : State) : State := flitArrives p f (flitUse p) s
def golgerReplay (p : Nat) (f : Flit) (s : State) : State := flitArrives p f (flitUse p) s

/-! Port administration (R412, R425) -/

/-- Training of a port begins: Hearth schedules it. -/
def startTraining (p : Nat) (s : State) : State :=
  if s.hearthRuns then s.setPort p fun g => { g with phase := .training } else s.setPort p fun g => { g with phase := .down }

/-- ADMIN = 0. A port that is draining trains once it has drained. -/
def golgerTrain (p : Nat) (s : State) : State :=
  let s1 := s.setPort p fun g => { g with ctrl := g.ctrl &&& ~~~1#32 }
  match (s.port p).phase with
  | .down | .disabled => startTraining p s1
  | .training | .up | .draining => s1

/-- The identity flit of R412: module identifier and port number in a form the spec does not give. -/
def identityFlit (p me : Nat) : List Byte :=
  flitBytes { type := ftIdent, seq := 0, src := me, len := 240 } ((iota 0 240).map (Config.identityByte me p))

/-- The lanes a port trains on (R412): all eight, or the half that is whole; none without one. -/
def trainedLanes (lanes : BitVec 8) : BitVec 8 :=
  if lanes = 0xFF then 0xFF
  else if lanes &&& 0x0F = 0x0F then 0x0F
  else if lanes &&& 0xF0 = 0xF0 then 0xF0
  else 0

/-- Training ends: `peer` is 16 × module + port. Identity flits were SEQ 0 on both sides. DESIGN CHOICE: the peer's, which counts as
received, began a codeword. -/
def golgerTrained (p : Nat) (ok : Bool) (lanes : BitVec 8) (peer : Nat) (s : State) : State :=
  if (s.port p).phase ≠ .training then s
  else if ok ∧ trainedLanes lanes ≠ 0 then
    let id := identityFlit p s.golger.moduleId
    emitFlit p id (s.setPort p fun g =>
      { (g.count cntRx 1) with
               phase := .up, cwPos := 2048, cwBad := false, lanes := trainedLanes lanes, saved := true, peer := some (peer % 2 ^ 17), txSeq := 1, rxSeq := 1, replay := [(0, id)]
               asked := false, rxAsks := 0, txAsks := (0, 0), credits := [], rx := [], msgs := [] })
  else portCode p 0x0504 (s.setPort p fun g => { g with phase := .down, lanes := 0 })

/-- ADMIN = 1 (R425). -/
def golgerTakeDown (p : Nat) (s : State) : State :=
  s.setPort p fun g =>
    { g with ctrl := g.ctrl ||| 1#32
             drainAt := if g.phase = .draining then g.drainAt else s.now
             phase := .draining }

/-- A message that has begun ends with an abort flit (R425). DEDUCED: the limit has passed, so it waits for no credit and no
room. -/
def sendAbort (p : Nat) (m : TxMsg) (s : State) : State :=
  let g := s.port p
  if m.started && g.live then
    emitFlit p (flitBytes { type := ftAbort, seq := g.txSeq, dst := m.dst, src := m.src, hops := m.hops, vc := m.vc } [])
      (s.setPort p fun g => { (g.spend m.vc) with txSeq := (g.txSeq + 1) % 4096 })
  else s

/-- Messages still on the port end with an abort flit; those that have not begun are dropped. -/
def abortAll (p : Nat) (s : State) : State := (s.port p).msgs.foldl (fun s m => sendAbort p m s) s

/-- The drain limit ends (R425). -/
def golgerDrained (p : Nat) (s : State) : State :=
  if (s.port p).phase ≠ .draining ∨ s.now < (s.port p).drainAt + s.golger.drainLimit.toNat then s
  else
    let s1 := (abandonPort p (abortAll p s)).setPort p fun g => { g with phase := .disabled }
    if bit (s1.port p).ctrl.toNat 0 then s1 else startTraining p s1

/-- The next flit of a virtual channel waits for a credit. -/
def GPort.blocked (g : GPort) (vc : Nat) : Bool :=
  g.live && decide (g.credit vc = 0) && (g.headMsg vc).any fun m => !m.flits.isEmpty

/-- A tick's part in a port: how long its flits have waited. -/
def GPort.tick (g : GPort) : GPort :=
  [0, 1, 2, 3].foldl (fun g vc =>
    if g.blocked vc then { g with waits := SMap.set 0 g.waits vc (g.waits.get 0 vc + 1) }
    else { g with waits := SMap.set 0 g.waits vc 0, stalled := SMap.set false g.stalled vc false }) g

/-- A channel whose next flit has waited longer than GOLGER_STALL_LIMIT and has not been counted for it. -/
def stallVc (s : State) (p : Nat) : Option Nat :=
  let g := s.port p
  [0, 1, 2, 3].find? fun vc => g.blocked vc && decide (s.golger.stallLimit.toNat < g.waits.get 0 vc) && !g.stalled.get false vc

/-- STALL_LIMIT_EXPIRY (R424): each flit counts once. -/
def golgerStall (p : Nat) (s : State) : State :=
  match stallVc s p with
  | none => s
  | some vc =>
    let s1 := s.setPort p fun g => { g with stalled := SMap.set false g.stalled vc true }
    raiseAlarm { s1 with golger := { s1.golger with stallCnt := satAdd s1.golger.stallCnt 1 } } 4 0 5

/-- GOLGER_MODULE_ID (R427). -/
def golgerSetId (v : W32) (s : State) : State :=
  if (List.range 12).all fun p => (s.port p).phase == .down || (s.port p).phase == .disabled then
    { s with golger := { s.golger with moduleId := v.toNat % 8192 } }
  else s

end Sys2Proof.Machine
end

