-- ==== Sys2Proof/Machine/Flags.lean ====
section
/-! DEFINITION. Sett registers, sticky flags and counts (R46, R59, R75, R82, R153). -/

namespace Sys2Proof.Machine

/-- Scalar register; s0 reads zero (R46). -/
def Sett.sreg (t : Sett) (r : BitVec 5) : W64 := if r = 0 then 0 else t.s.get 0 r.toNat
/-- Write a scalar register; writes to s0 are discarded. -/
def Sett.setS (t : Sett) (r : BitVec 5) (v : W64) : Sett :=
  if r = 0 then t else { t with s := SMap.set 0 t.s r.toNat v }

/-- Predicate register; p0 reads all lanes set (R46). -/
def Sett.preg (t : Sett) (r : BitVec 3) : BitVec 128 :=
  if r = 0 then BitVec.allOnes 128 else t.p.get 0 r.toNat
def Sett.setP (t : Sett) (r : BitVec 3) (v : BitVec 128) : Sett :=
  if r = 0 then t else { t with p := SMap.set 0 t.p r.toNat v }

def Sett.areg (t : Sett) (r : BitVec 4) : BitVec 256 := t.a.get 0 r.toNat
def Sett.setA (t : Sett) (r : BitVec 4) (v : BitVec 256) : Sett :=
  { t with a := SMap.set 0 t.a r.toNat v }

def Sett.vreg (t : Sett) (r : BitVec 5) : BitVec 4096 := t.v.get 0 r.toNat
def Sett.setV (t : Sett) (r : BitVec 5) (v : BitVec 4096) : Sett :=
  { t with v := SMap.set 0 t.v r.toNat v }

def Sett.ereg (t : Sett) (r : BitVec 4) : W64 := t.evt.get 0 r.toNat
/-- Add one to an event counter, saturating (R59). -/
def Sett.bumpE (t : Sett) (r : BitVec 4) : Sett :=
  { t with evt := SMap.set 0 t.evt r.toNat (satAdd (t.ereg r) 1) }

/-- Lane `i` of a vector register. -/
def lane (v : BitVec 4096) (i : Nat) : Nat := v.toNat / 2 ^ (32 * i) % 2 ^ 32

/-- Vector register from a lane function. -/
def ofLanesGo (f : Nat → Nat) : Nat → Nat
  | 0 => 0
  | n + 1 => ofLanesGo f n + (f n % 2 ^ 32) * 2 ^ (32 * n)

def ofLanes (f : Nat → Nat) : BitVec 4096 := BitVec.ofNat 4096 (ofLanesGo f 128)

/-- Predicate lanes from a lane function. -/
def ofBitsGo (f : Nat → Bool) : Nat → Nat
  | 0 => 0
  | n + 1 => ofBitsGo f n + b2n (f n) * 2 ^ n

def ofBits (f : Nat → Bool) : BitVec 128 := BitVec.ofNat 128 (ofBitsGo f 128)

def Sett.lane0 (t : Sett) (r : BitVec 3) : Bool := (t.preg r).toNat % 2 = 1

/-- Set sticky flags (R75). -/
def Sett.flag (t : Sett) (f : Fl) : Sett := { t with flags := t.flags ||| f }

/-- Add shed terms: SHED and SETT_SHED_CNT (R140). -/
def Sett.shed (t : Sett) (n : Nat) : Sett :=
  if n = 0 then t else { t with flags := t.flags ||| flShed, shedCnt := satAdd t.shedCnt n }

/-- Add saturations: SATURATE and SETT_SAT_CNT (R141). -/
def Sett.saturate (t : Sett) (n : Nat) : Sett :=
  if n = 0 then t else { t with flags := t.flags ||| flSaturate, satCnt := satAdd t.satCnt n }

def State.flag (s : State) (i : Nat) (f : Fl) : State := s.setSett i fun t => t.flag f

def Sett.bank (t : Sett) (b : Nat) : Bank := t.banks.get Bank.zero b
def Sett.setBank (t : Sett) (b : Nat) (x : Bank) : Sett :=
  { t with banks := SMap.set Bank.zero t.banks b x }

end Sys2Proof.Machine
end

