-- ==== Sys2Proof/Machine/Operands.lean ====
section
/-! DEFINITION. Tensor descriptors and operand access: fields, checks, geometry, scratch and memory
blocks (R45, R48–R50, R87–R94, R269–R271, R577). -/

namespace Sys2Proof.Machine

/-! Descriptor fields (R87) -/

def descKind1 (d : BitVec 256) : Bool := bit d.toNat 63
def descRank (d : BitVec 256) : Nat := field d.toNat 62 61 + 1
def descFmt (d : BitVec 256) : Nat := field d.toNat 60 57
def descRegion (d : BitVec 256) : Nat := field d.toNat 3 0
def descOffset (d : BitVec 256) : Nat := field d.toNat 34 13
def descScaleOff (d : BitVec 256) : Nat := field d.toNat 56 35
def descVa (d : BitVec 256) : Nat := field d.toNat 47 0
def descExt (d : BitVec 256) (k : Nat) : Nat := field d.toNat (64 + 16 * k + 15) (64 + 16 * k)
/-- Valid counts; a kind-1 descriptor's valid region is its whole box. -/
def descValid (d : BitVec 256) (k : Nat) : Nat :=
  if descKind1 d then descExt d k else field d.toNat (128 + 16 * k + 15) (128 + 16 * k)
def descScaleVa (d : BitVec 256) : Nat := field d.toNat 175 128
/-- Stride of dimension `k` in bytes; 0 for a dimension at or beyond RANK. -/
def descStride (d : BitVec 256) (k : Nat) : Nat :=
  if descRank d ≤ k then 0
  else match k with
    | 1 => field d.toNat 213 192
    | 2 => field d.toNat 234 214 * (if descKind1 d then 4096 else 64)
    | 3 => field d.toNat 255 235 * (if descKind1 d then 65536 else 64)
    | _ => 0

/-- Replace bits `hi..lo` of a descriptor. -/
def descPut (d : BitVec 256) (hi lo v : Nat) : BitVec 256 :=
  let w := 2 ^ (hi - lo + 1)
  BitVec.ofNat 256 (d.toNat - field d.toNat hi lo * 2 ^ lo + v % w * 2 ^ lo)

/-- Largest byte offset of an element from the tensor's first byte, plus one (R90). -/
def descSpan (d : BitVec 256) (bits : Nat) : Nat :=
  (descExt d 1 - 1) * descStride d 1 + (descExt d 2 - 1) * descStride d 2
    + (descExt d 3 - 1) * descStride d 3 + ceilDiv (descExt d 0 * bits) 8

/-- Alignment of R89 for narrow format `f`. -/
def descAligned (d : BitVec 256) (f : Fmt) : Bool :=
  let blk := 4 * f.bits
  let base := if descKind1 d then descVa d else descOffset d
  decide (descExt d 0 % 32 = 0) && decide (base % blk = 0) && decide (descStride d 1 % blk = 0)
    && (descKind1 d || (decide (descStride d 2 % blk = 0) && decide (descStride d 3 % blk = 0)))

/-- EXTk nonzero, and 1 at and beyond RANK. -/
def descExtOk (d : BitVec 256) : Bool :=
  decide (descExt d 0 ≠ 0) && [1, 2, 3].all fun k =>
    decide (descExt d k ≠ 0) && (decide (k < descRank d) || decide (descExt d k = 1))

/-- Formats a descriptor write accepts; FP6b and T2 are reserved under the compatibility flags (R121). -/
def descFmtOk (compat : Bool) (d : BitVec 256) : Option Fmt :=
  match Fmt.ofCode (descFmt d) with
  | none => none
  | some f => if compat ∧ (f = .fp6b ∨ f = .t2) then none else some f

/-- The check of a descriptor write (R49, R90, R91). -/
def descCheck (carving : List Region) (compat : Bool) (d : BitVec 256) : Bool :=
  match descFmtOk compat d with
  | none => false
  | some f =>
    descExtOk d && (!f.narrow || descAligned d f) &&
      (descKind1 d ||
        match carving[descRegion d]? with
        | none => false
        | some r =>
          let span := descSpan d f.bits
          decide (descOffset d + span ≤ r.size) &&
            (!f.narrow || decide (descScaleOff d + (span - 1) / (4 * f.bits) < r.size)))

/-- What a write stores: VALIDk limited by EXTk (R90). -/
def descStored (d : BitVec 256) : BitVec 256 :=
  if descKind1 d then d
  else [0, 1, 2, 3].foldl (fun d k =>
    descPut d (128 + 16 * k + 15) (128 + 16 * k) (min (descValid d k) (descExt d k))) d

/-! Outcomes of operand accesses -/

/-- Outcome of one access of an instruction: data, a fault class at an address, or a status that
ends the run. -/
inductive Res (α : Type) where
  | ok (a : α) (s : State)
  | fault (cls va : Nat) (kind : AccKind) (s : State)
  | bad (status : Nat) (s : State)

def Res.bind {α β : Type} (r : Res α) (f : α → State → Res β) : Res β :=
  match r with
  | .ok a s => f a s
  | .fault c v k s => .fault c v k s
  | .bad x s => .bad x s

/-- Sequence over a list, collecting results. -/
def Res.mapM {α β : Type} (f : α → State → Res β) : List α → State → Res (List β)
  | [], s => .ok [] s
  | a :: t, s => (f a s).bind fun b s => (Res.mapM f t s).bind fun bs s => .ok (b :: bs) s

/-! Scratch (R44, R45) -/

/-- 64-bit words that `len` bytes at `a` touch. -/
def wordsOf (a len : Nat) : List Nat :=
  if len = 0 then [] else iota (a / 8) ((a + len - 1) / 8 - a / 8 + 1)

/-- Check bits of the words read: corrected errors count, an uncorrectable one is 0x0207 (R45). DESIGN CHOICE: the
corrected word is not stored back, so each later read of it counts again until it is rewritten. -/
def checkWords (i : Nat) (ws : List Nat) (s : State) : Res Unit :=
  let t := s.sett i
  if ws.any fun w => t.badWords.get false w then .bad 0x0207 s
  else
    let n := (ws.filter fun w => t.softWords.get false w).length
    .ok () (if n = 0 then s else s.setSett i fun t => { t with eccCnt := satAdd t.eccCnt n })

def readScratch (i a len : Nat) (s : State) : Res (List Byte) :=
  (checkWords i (wordsOf a len) s).bind fun _ s => .ok (SMap.getMany 0 (s.sett i).scratch a len) s

/-- Words that a write of `len` bytes at `a` covers only in part. -/
def partialWords (a len : Nat) : List Nat :=
  (wordsOf a len).filter fun w => decide (8 * w < a) || decide (a + len < 8 * w + 8)

/-- Write scratch bytes: partly covered words are read first, whole words get fresh check bits (R45). -/
def writeScratch (i a : Nat) (bs : List Byte) (s : State) : Res Unit :=
  (checkWords i (partialWords a bs.length) s).bind fun _ s =>
    .ok () (s.setSett i fun t =>
      { t with scratch := SMap.setMany 0 t.scratch a bs
               badWords := (wordsOf a bs.length).foldl (fun m w => SMap.set false m w false) t.badWords
               softWords := (wordsOf a bs.length).foldl (fun m w => SMap.set false m w false) t.softWords })

/-! Memory through the running run's translation and the TLB of sett `i` -/

def Acc.toRes (va : Nat) (kind : AccKind) : Acc → Res (List Byte)
  | .ok bs s => .ok bs s
  | .fault c s => .fault c va kind s
  | .bad x s => .bad x s

/-- An access to one granule by the instruction under way of sett `i`: one that it made before a fault gives what it gave
then and is not made again (R371). -/
def onceMore (i : Nat) (f : State → Acc) (s : State) : Acc :=
  match (s.sett i).trace with
  | none => f s
  | some ⟨x :: rest, made⟩ => .ok x (s.setSett i fun t => { t with trace := some ⟨rest, made ++ [x]⟩ })
  | some ⟨[], made⟩ =>
    match f s with
    | .ok bs s' => .ok bs (s'.setSett i fun t => { t with trace := some ⟨[], made ++ [bs]⟩ })
    | e => e

/-- The step under way is complete. -/
def clearTrace (i : Nat) (s : State) : State :=
  if (s.sett i).trace.isNone then s else s.setSett i fun t => { t with trace := some ⟨[], []⟩ }

/-- An effect of a step that a later attempt does not repeat. -/
def once (i : Nat) (f : State → State) (s : State) : State :=
  match onceMore i (fun s => .ok [] (f s)) s with
  | .ok _ s' => s'
  | _ => s

/-- Read `len` bytes at `va`, granule by granule. -/
def readMem (i va len : Nat) (kind : AccKind) (s : State) : Res (List Byte) :=
  (Res.mapM (fun (g : Nat × Nat) s => (onceMore i (fun s => readGranule s (settAg s i) kind g.1 g.2) s).toRes g.1 kind)
    (granules va len) s).bind fun bs s => .ok bs.flatten s

/-- Write bytes at `va`, granule by granule. -/
def writeMem (i va : Nat) (bs : List Byte) (s : State) : Res Unit :=
  (Res.mapM (fun (g : Nat × Nat) s =>
    (onceMore i (fun s => writeGranule s (settAg s i) .write g.1 ((bs.drop (g.1 - va)).take g.2)) s).toRes g.1 .write)
    (granules va bs.length) s).bind fun _ s => .ok () s

/-! Tensors: a descriptor taken in a format -/

/-- An operand ready for access: its descriptor, the format it is taken in, and for scratch the
bounds of its region (`hi` exclusive). -/
structure Tens where
  d : BitVec 256
  fmt : Fmt
  mem : Bool
  base : Nat
  sbase : Nat
  lo : Nat
  hi : Nat
  deriving DecidableEq, Repr

def Tens.valid (t : Tens) (k : Nat) : Nat := descValid t.d k
def Tens.ext (t : Tens) (k : Nat) : Nat := descExt t.d k
def Tens.blockBytes (t : Tens) : Nat := 4 * t.fmt.bits

/-- The operand of descriptor register `r` at face value (R578), in format `f`. -/
def tensAs (t : Sett) (r : BitVec 4) (f : Fmt) : Tens :=
  let d := t.areg r
  if descKind1 d then
    { d := d, fmt := f, mem := true, base := descVa d, sbase := descScaleVa d, lo := 0, hi := 0 }
  else
    let reg := (t.carving[descRegion d]?).getD ⟨0, 0, 0, false⟩
    { d := d, fmt := f, mem := false, base := reg.base + descOffset d
      sbase := reg.base + descScaleOff d, lo := reg.base, hi := reg.base + reg.size }

/-- Format of a descriptor register; a register never written has format FP32 and no element. -/
def descFormat (t : Sett) (r : BitVec 4) : Fmt := (Fmt.ofCode (descFmt (t.areg r))).getD .fp32

def tens (t : Sett) (r : BitVec 4) : Tens := tensAs t r (descFormat t r)

/-- Is the register's operand in memory (kind 1), so that a scratch operand of it is empty (R577)? -/
def isMemOp (t : Sett) (r : BitVec 4) : Bool := descKind1 (t.areg r)

/-- Valid elements of the tensor. -/
def Tens.validCount (t : Tens) : Nat := t.valid 0 * t.valid 1 * t.valid 2 * t.valid 3

/-- Byte offset of the row at indices (i1, i2, i3) from the tensor's first byte. -/
def Tens.rowOff (t : Tens) (i1 i2 i3 : Nat) : Nat :=
  i1 * descStride t.d 1 + i2 * descStride t.d 2 + i3 * descStride t.d 3

/-- Is the row inside the valid region? -/
def Tens.rowValid (t : Tens) (i1 i2 i3 : Nat) : Bool :=
  decide (i1 < t.valid 1) && decide (i2 < t.valid 2) && decide (i3 < t.valid 3)

/-- Row coordinates of a linear row number over counts (n1, n2). -/
def rowCoords (n1 n2 k : Nat) : Nat × Nat × Nat := (k % n1, k / n1 % n2, k / n1 / n2)

/-- A position of the 32-element blocks of rows: row coordinates and block number. -/
structure BlockAt where
  i1 : Nat
  i2 : Nat
  i3 : Nat
  b : Nat
  deriving DecidableEq, Repr

/-- Blocks that hold a valid element, counted in linear index order. -/
def Tens.blockCount (t : Tens) : Nat := ceilDiv (t.valid 0) 32 * (t.valid 1 * t.valid 2 * t.valid 3)

def Tens.blockAt (t : Tens) (k : Nat) : BlockAt :=
  let nb := ceilDiv (t.valid 0) 32
  let c := rowCoords (t.valid 1) (t.valid 2) (k / nb)
  ⟨c.1, c.2.1, c.2.2, k % nb⟩

/-- Valid elements of a block, a prefix of its 32. -/
def Tens.blockValid (t : Tens) (p : BlockAt) : Nat :=
  if t.rowValid p.i1 p.i2 p.i3 then min 32 (t.valid 0 - 32 * p.b) else 0

/-- Byte position of the block's first byte from the tensor's first byte. -/
def Tens.blockOff (t : Tens) (p : BlockAt) : Nat := t.rowOff p.i1 p.i2 p.i3 + p.b * t.blockBytes

/-- The scale byte of a block. DESIGN CHOICE: where OFFSET or a stride is no multiple of the block of the instruction's
format (R93), so that R89 gives elements of one block different bytes, the block uses the one of its first byte. -/
def Tens.scaleAddr (t : Tens) (p : BlockAt) : Nat := t.sbase + t.blockOff p / t.blockBytes

/-- Bytes at a tensor position; a scratch byte outside the region reads as none (R93). -/
def Tens.readBytes (i : Nat) (t : Tens) (a len : Nat) (s : State) : Res (List (Option Byte)) :=
  if t.mem then (readMem i a len .read s).bind fun bs s => .ok (bs.map some) s
  else
    let lo := max a t.lo
    let hi := min (a + len) t.hi
    (readScratch i lo (hi - lo) s).bind fun bs s =>
      .ok ((iota a len).map fun x => if lo ≤ x ∧ x < hi then bs[x - lo]? else none) s

/-- Store bytes at a tensor position; scratch bytes outside the region are not written (R93). -/
def Tens.writeBytes (i : Nat) (t : Tens) (a : Nat) (bs : List Byte) (s : State) : Res Unit :=
  if t.mem then writeMem i a bs s
  else
    let lo := max a t.lo
    let hi := min (a + bs.length) t.hi
    if lo < hi then writeScratch i lo ((bs.drop (lo - a)).take (hi - lo)) s else .ok () s

/-- Element codes of a packed little-endian block (R130); none where a byte is missing. -/
def unpack (bits : Nat) (bs : List (Option Byte)) (n : Nat) : List (Option Nat) :=
  (List.range n).map fun j =>
    let lo := j * bits / 8
    let hi := (j * bits + bits - 1) / 8
    let part := (bs.drop lo).take (hi - lo + 1)
    if part.length = hi - lo + 1 ∧ part.all (·.isSome) then
      some (leNat (part.map fun b => b.getD 0) / 2 ^ (j * bits % 8) % 2 ^ bits)
    else none

/-- Number formed by element codes of `bits` bits, element 0 lowest. -/
def packNat (bits : Nat) : List Nat → Nat
  | [] => 0
  | c :: t => c % 2 ^ bits + 2 ^ bits * packNat bits t

/-- Bytes of a prefix of a block: every byte that holds a valid element, zeros beyond (R271). -/
def pack (bits : Nat) (cs : List Nat) : List Byte := leBytes (packNat bits cs) (ceilDiv (cs.length * bits) 8)

/-- Scale byte of a block; outside the region it reads 0x7F (R93). Wide formats have none. -/
def Tens.readScale (i : Nat) (t : Tens) (p : BlockAt) (s : State) : Res Nat :=
  if t.fmt.narrow then
    (t.readBytes i (t.scaleAddr p) 1 s).bind fun bs s =>
      .ok (match bs with
        | [some b] => b.toNat
        | _ => 0x7F) s
  else .ok 0x7F s

/-- Codes of the valid elements of a block (none reads as neutral) and its scale byte. -/
def Tens.readBlock (i : Nat) (t : Tens) (p : BlockAt) (s : State) : Res (List (Option Nat) × Nat) :=
  let n := t.blockValid p
  if n = 0 then .ok ([], 0x7F) s
  else
    (t.readBytes i (t.base + t.blockOff p) (ceilDiv (n * t.fmt.bits) 8) s).bind fun bs s =>
      (t.readScale i p s).bind fun sc s => .ok (unpack t.fmt.bits bs n, sc) s

/-- Values of a block's valid elements; none for one outside the descriptor's region (R93, R131). -/
def blockOpts (f : Fmt) (r : List (Option Nat) × Nat) : List (Option Val) := r.1.map fun c => c.map (f.value r.2)

/-- Values of a block's valid elements (R131, R269). -/
def blockVals (f : Fmt) (r : List (Option Nat) × Nat) : List Val := (blockOpts f r).map fun v => v.getD (.fin 0)

/-- Values of the `n` elements of a block as another operand's block sees them: neutral zero beyond
the valid prefix. -/
def padVals (vs : List Val) (n : Nat) : List Val := (vs ++ List.replicate n (Val.fin 0)).take n

/-- How many leading elements of a block's valid prefix lie wholly inside the region (R93). -/
def Tens.insideCount (t : Tens) (p : BlockAt) : Nat :=
  if t.mem then t.blockValid p
  else min (t.blockValid p) (8 * (t.hi - (t.base + t.blockOff p)) / t.fmt.bits)

/-- Store codes for the valid prefix of a block, with the scale byte of a narrow format: one for each block with a valid element
(R133, R271). An element or a scale byte that is not wholly inside the region is not written (R93). -/
def Tens.writeBlock (i : Nat) (t : Tens) (p : BlockAt) (codes : List Nat) (scale : Nat) (s : State) :
    Res Unit :=
  if t.blockValid p = 0 then .ok () s
  else
    (t.writeBytes i (t.base + t.blockOff p) (pack t.fmt.bits (codes.take (t.insideCount p))) s).bind fun _ s =>
      if t.fmt.narrow then t.writeBytes i (t.scaleAddr p) [BitVec.ofNat 8 scale] s else .ok () s

/-- Convert values to a format: codes, scale byte, flags, and for a narrow format the block's
measures (R134, R135). -/
def convertBlock (src dst : Fmt) (vs : List Val) : Narrowed :=
  if dst.narrow then dst.narrowBlock (vs.map some)
  else
    let cs := vs.map fun v => src.convWide dst v
    { scale := 0x7F, codes := cs.map (·.1), flags := cs.foldl (fun f c => f ||| c.2) flNone
      clips := 0, qsheds := 0, ratio := 0 }

/-- Read the block `sp` of `src`, convert it and store it as block `dp` of `dst`; equal formats copy
codes and scale unchanged (R134; DEDUCED: so of U16 all 16 bits, although R129 has a unit that writes U16 write zero to
bits [15:10], and of T2 a stored 0b10, although R128 has no unit write that code). Answers what the narrowing measured, none for a copy. -/
def moveBlock (i : Nat) (src : Tens) (sp : BlockAt) (dst : Tens) (dp : BlockAt) (s : State) :
    Res (Option Narrowed) :=
  let n := dst.blockValid dp
  (src.readBlock i sp s).bind fun (r : List (Option Nat) × Nat) s =>
    if src.fmt = dst.fmt then
      let cs := ((r.1.map fun c : Option Nat => c.getD 0) ++ List.replicate n 0).take n
      (dst.writeBlock i dp cs r.2 s).bind fun _ s => .ok none s
    else
      let w := convertBlock src.fmt dst.fmt (padVals (blockVals src.fmt r) n)
      (dst.writeBlock i dp w.codes w.scale s).bind fun _ s =>
        .ok (some w) (if w.flags = flNone then s else s.flag i w.flags)

/-! Restartable loops (R65) -/

/-- How far an instruction got. -/
inductive Eff where
  | done (s : State)
  /-- waits; `prog` and `aux` are its progress record -/
  | wait (why : WaitKind) (prog : Nat) (aux : List Nat) (s : State)
  /-- paused on a fault, with its progress record -/
  | fault (prog : Nat) (aux : List Nat) (cls va : Nat) (kind : AccKind) (s : State)
  /-- ends the run with a status -/
  | bad (status : Nat) (s : State)

/-- `n` steps of sett `i` from step `k`, stopping at the first that faults or fails. -/
def runSteps (i : Nat) (f : Nat → State → Res Unit) : Nat → Nat → State → Eff
  | 0, _, s => .done s
  | n + 1, k, s =>
    match f k s with
    | .ok _ s' => runSteps i f n (k + 1) (clearTrace i s')
    | .fault c va kd s' => .fault k [] c va kd s'
    | .bad st s' => .bad st s'

/-- Steps `prog ..` of `total`. -/
def stepsFrom (i : Nat) (f : Nat → State → Res Unit) (total prog : Nat) (s : State) : Eff :=
  runSteps i f (total - prog) prog s

/-- An effect that is one access. -/
def Res.toEff (r : Res Unit) : Eff :=
  match r with
  | .ok _ s => .done s
  | .fault c va k s => .fault 0 [] c va k s
  | .bad x s => .bad x s

/-- Write bytes at `va` from granule `g` on: progress counts granules (R65, R371). -/
def writeSteps (i va : Nat) (bs : List Byte) (g : Nat) (s : State) : Eff :=
  let gs := granules va bs.length
  stepsFrom i (fun k s => match gs[k]? with
    | some x => writeMem i x.1 ((bs.drop (x.1 - va)).take x.2) s
    | none => .ok () s) gs.length g s

/-- Read the rest of `len` bytes at `va`, of which `got` are read, granule by granule: what is read and how it ended. -/
def readRest (i va len : Nat) (got : List Byte) (s : State) : List Byte × Res Unit :=
  (granules (va + got.length) (len - got.length)).foldl (fun (r : List Byte × Res Unit) g => match r.2 with
    | .ok _ s => match readMem i g.1 g.2 .read s with
      | .ok bs s' => (r.1 ++ bs, .ok () s')
      | .fault c v k s' => (r.1, .fault c v k s')
      | .bad x s' => (r.1, .bad x s')
    | _ => r) (got, .ok () s)

/-! Extents and overlap (R94) -/

/-- Element extent in bytes (R90); none where an extent is 0. -/
def Tens.extent (t : Tens) : Nat :=
  if [0, 1, 2, 3].any fun k => decide (t.ext k = 0) then 0 else descSpan t.d t.fmt.bits

/-- Byte ranges (first, count) of the operand: elements, then the scale shadow of a narrow format. -/
def Tens.ranges (t : Tens) : List (Nat × Nat) :=
  if t.extent = 0 then []
  else if t.fmt.narrow then [(t.base, t.extent), (t.sbase, (t.extent - 1) / t.blockBytes + 1)]
  else [(t.base, t.extent)]

/-- Equal extents: the same ranges, format, extents and strides in use. -/
def Tens.sameExtent (a b : Tens) : Bool :=
  a.mem == b.mem && a.ranges == b.ranges && a.fmt == b.fmt &&
    [0, 1, 2, 3].all fun k => a.ext k == b.ext k && descStride a.d k == descStride b.d k

/-- The two operands share a byte. -/
def Tens.shares (a b : Tens) : Bool :=
  a.mem == b.mem && a.ranges.any fun x => b.ranges.any fun y =>
    decide (x.1 < y.1 + y.2) && decide (y.1 < x.1 + x.2)

/-- The two share a byte otherwise than in place. -/
def Tens.clashes (a b : Tens) : Bool := a.shares b && !a.sameExtent b

/-! Element access by linear index over the EXT box (R579) -/

/-- Coordinates of an element number: dimension 0, then the row. -/
def Tens.elemCoords (t : Tens) (e : Nat) : Nat × Nat × Nat × Nat :=
  let c := rowCoords (t.ext 1) (t.ext 2) (e / t.ext 0)
  (e % t.ext 0, c.1, c.2.1, c.2.2)

/-- Is element number `e` of the EXT box inside the box and the valid region? -/
def Tens.elemValid (t : Tens) (e : Nat) : Bool :=
  let c := t.elemCoords e
  decide (e < t.ext 0 * t.ext 1 * t.ext 2 * t.ext 3) && decide (c.1 < t.valid 0) &&
    t.rowValid c.2.1 c.2.2.1 c.2.2.2

/-- Element numbers of the valid elements, in linear index order over the valid counts:
the coordinates of the `j`-th. -/
def Tens.validAt (t : Tens) (j : Nat) : Nat × Nat × Nat × Nat :=
  let c := rowCoords (t.valid 1) (t.valid 2) (j / t.valid 0)
  (j % t.valid 0, c.1, c.2.1, c.2.2)

/-- One element by coordinates: its code (none outside the region) and scale; none if not valid. -/
def Tens.readElem (i : Nat) (t : Tens) (c : Nat × Nat × Nat × Nat) (s : State) :
    Res (Option (Option Nat × Nat)) :=
  if decide (c.1 < t.valid 0) && t.rowValid c.2.1 c.2.2.1 c.2.2.2 then
    let p : BlockAt := ⟨c.2.1, c.2.2.1, c.2.2.2, c.1 / 32⟩
    let bits := t.fmt.bits
    let bo := c.1 % 32 * bits
    (t.readBytes i (t.base + t.blockOff p + bo / 8) ((bo + bits - 1) / 8 - bo / 8 + 1) s).bind fun bs s =>
      (t.readScale i p s).bind fun sc s =>
        let code := if bs.all (·.isSome) then
            some (leNat (bs.map fun b => b.getD 0) / 2 ^ (bo % 8) % 2 ^ bits)
          else none
        .ok (some (code, sc)) s
  else .ok none s

/-- Value of one element; none outside the valid region or the descriptor's region (R92, R93). -/
def Tens.readOpt (i : Nat) (t : Tens) (c : Nat × Nat × Nat × Nat) (s : State) : Res (Option Val) :=
  (t.readElem i c s).bind fun r s =>
    .ok (match r with
      | some (some code, sc) => some (t.fmt.value sc code)
      | _ => none) s

/-- Value of one element; neutral zero outside the valid region (R92, R269). -/
def Tens.readVal (i : Nat) (t : Tens) (c : Nat × Nat × Nat × Nat) (s : State) : Res Val :=
  (t.readOpt i c s).bind fun v s => .ok (v.getD (.fin 0)) s

/-- Address of an element of a wide format. -/
def Tens.elemAddr (t : Tens) (c : Nat × Nat × Nat × Nat) : Nat :=
  t.base + t.rowOff c.2.1 c.2.2.1 c.2.2.2 + c.1 * t.fmt.bits / 8

/-- Store the code of one element of a wide format, if valid. -/
def Tens.writeWide (i : Nat) (t : Tens) (c : Nat × Nat × Nat × Nat) (code : Nat) (s : State) : Res Unit :=
  if decide (c.1 < t.valid 0) && t.rowValid c.2.1 c.2.2.1 c.2.2.2 then
    let a := t.elemAddr c
    if t.mem ∨ a + t.fmt.bits / 8 ≤ t.hi then t.writeBytes i a (leBytes code (t.fmt.bits / 8)) s else .ok () s
  else .ok () s

/-- Values of a whole row's valid elements, block by block; none for one outside the descriptor's region. -/
def Tens.readRowOpt (i : Nat) (t : Tens) (c : Nat × Nat × Nat) (s : State) : Res (List (Option Val)) :=
  (Res.mapM (fun b s => (t.readBlock i ⟨c.1, c.2.1, c.2.2, b⟩ s).bind fun r s =>
      .ok (blockOpts t.fmt r) s) (List.range (ceilDiv (t.valid 0) 32)) s).bind fun l s => .ok l.flatten s

/-- Values of a whole row's valid elements, block by block. -/
def Tens.readRow (i : Nat) (t : Tens) (c : Nat × Nat × Nat) (s : State) : Res (List Val) :=
  (t.readRowOpt i c s).bind fun l s => .ok (l.map fun v => v.getD (.fin 0)) s

/-- Store FP32-rounded results (already values) into a row of `dst`, converting from `src` format;
`n` values from element 0; elements beyond keep what they hold. Blocks of a narrow format are
narrowed whole, kept elements joining with their own values (R180). -/
def Tens.writeRow (i : Nat) (t : Tens) (src : Fmt) (c : Nat × Nat × Nat) (vs : List Val) (s : State) :
    Res Unit :=
  (Res.mapM (fun b s =>
    let p : BlockAt := ⟨c.1, c.2.1, c.2.2, b⟩
    let n := t.blockValid p
    let mine := (vs.drop (32 * b)).take n
    if mine.isEmpty then .ok () s
    else if mine.length = n ∨ !t.fmt.narrow then
      let w := convertBlock src t.fmt mine
      (t.writeBlock i p w.codes w.scale s).bind fun _ s => .ok () (s.flag i w.flags)
    else
      (t.readBlock i p s).bind fun r s =>
        let w := convertBlock src t.fmt (mine ++ (blockVals t.fmt r).drop mine.length)
        (t.writeBlock i p w.codes w.scale s).bind fun _ s => .ok () (s.flag i w.flags))
    (List.range (ceilDiv (t.valid 0) 32)) s).bind fun _ s => .ok () s

end Sys2Proof.Machine
end

