-- ==== Sys2Proof/Machine/Scalar.lean ====
section
/-! DEFINITION. The issue unit: classes 0x0, 0x1 and 0xF, SYNC.WAIT and SYNC.FENCE
(R59, R60, R71, R83, R90, R97, R98, R117–R119). -/

namespace Sys2Proof.Machine

/-- Second operand of layout S (R98). -/
def Sett.op2 (t : Sett) (f : LayS) : W64 := if f.i then f.imm.signExtend 64 else t.sreg f.sb

/-- Target of a branch: its own address plus 8 × OFF (R97). -/
def Sett.target (t : Sett) (f : LayC) : W64 := t.pc + f.off.signExtend 64 * 8#64

/-- CTL.BR: the next pc. -/
def effCtlBr (h : Hdr) (f : LayC) (t : Sett) : Sett :=
  { t with pc := if t.lane0 h.pred then t.target f else t.pc + 8 }

/-- CTL.LOOP: SA := SA − 1; branch if SA ≠ 0. -/
def effCtlLoop (f : LayC) (t : Sett) : Sett :=
  let v := t.sreg f.sa - 1
  { t.setS f.sa v with pc := if v ≠ 0 then t.target f else t.pc + 8 }

/-- CTL.END: issue ends; a sett of a run drains (R71). -/
def effCtlEnd (t : Sett) : Sett :=
  { t with pc := t.pc + 8, ended := true, phase := if t.phase = .running then .draining else t.phase }

def sclSet (f : LayS) (v : W64) (t : Sett) : Sett := t.setS f.sd v

def effSclAdd (f : LayS) (t : Sett) : Sett := sclSet f (t.sreg f.sa + t.op2 f) t
def effSclSub (f : LayS) (t : Sett) : Sett := sclSet f (t.sreg f.sa - t.op2 f) t
def effSclMul (f : LayS) (t : Sett) : Sett := sclSet f (t.sreg f.sa * t.op2 f) t
/-- A zero divisor gives 2⁶⁴ − 1. -/
def effSclDivu (f : LayS) (t : Sett) : Sett :=
  sclSet f (if t.op2 f = 0 then BitVec.allOnes 64 else t.sreg f.sa / t.op2 f) t
/-- A zero divisor gives SA. -/
def effSclRemu (f : LayS) (t : Sett) : Sett :=
  sclSet f (if t.op2 f = 0 then t.sreg f.sa else t.sreg f.sa % t.op2 f) t
def effSclAnd (f : LayS) (t : Sett) : Sett := sclSet f (t.sreg f.sa &&& t.op2 f) t
def effSclOr (f : LayS) (t : Sett) : Sett := sclSet f (t.sreg f.sa ||| t.op2 f) t
def effSclXor (f : LayS) (t : Sett) : Sett := sclSet f (t.sreg f.sa ^^^ t.op2 f) t
/-- Shift amount: bits [5:0] of the second operand. -/
def Sett.shamt (t : Sett) (f : LayS) : Nat := (t.op2 f).toNat % 64
def effSclShl (f : LayS) (t : Sett) : Sett := sclSet f (t.sreg f.sa <<< t.shamt f) t
def effSclShr (f : LayS) (t : Sett) : Sett := sclSet f (t.sreg f.sa >>> t.shamt f) t
def effSclSra (f : LayS) (t : Sett) : Sett := sclSet f ((t.sreg f.sa).sshiftRight (t.shamt f)) t
def effSclMin (f : LayS) (t : Sett) : Sett :=
  sclSet f (if (t.sreg f.sa).sle (t.op2 f) then t.sreg f.sa else t.op2 f) t
def effSclMax (f : LayS) (t : Sett) : Sett :=
  sclSet f (if (t.sreg f.sa).sle (t.op2 f) then t.op2 f else t.sreg f.sa) t
def effSclMinu (f : LayS) (t : Sett) : Sett :=
  sclSet f (if t.sreg f.sa ≤ t.op2 f then t.sreg f.sa else t.op2 f) t
def effSclMaxu (f : LayS) (t : Sett) : Sett :=
  sclSet f (if t.sreg f.sa ≤ t.op2 f then t.op2 f else t.sreg f.sa) t
def effSclLi (f : LayS) (ext : W64) (t : Sett) : Sett := sclSet f ext t

/-- Every lane of predicate SD[2:0] := the comparison. -/
def cmpSet (f : LayS) (c : Bool) (t : Sett) : Sett :=
  t.setP (f.sd.setWidth 3) (if c then BitVec.allOnes 128 else 0)
def effCmpEq (f : LayS) (t : Sett) : Sett := cmpSet f (t.sreg f.sa == t.op2 f) t
def effCmpNe (f : LayS) (t : Sett) : Sett := cmpSet f (t.sreg f.sa != t.op2 f) t
def effCmpLt (f : LayS) (t : Sett) : Sett := cmpSet f ((t.sreg f.sa).slt (t.op2 f)) t
def effCmpLe (f : LayS) (t : Sett) : Sett := cmpSet f ((t.sreg f.sa).sle (t.op2 f)) t
def effCmpLtu (f : LayS) (t : Sett) : Sett := cmpSet f ((t.sreg f.sa).ult (t.op2 f)) t
def effCmpLeu (f : LayS) (t : Sett) : Sett := cmpSet f ((t.sreg f.sa).ule (t.op2 f)) t

/-- A descriptor write: checked, then stored with its valid counts limited; none is 0x0202
(R49, R90, R91). -/
def descWrite (t : Sett) (r : BitVec 4) (d : BitVec 256) : Option Sett :=
  if descCheck t.carving t.compat d then some (t.setA r (descStored d)) else none

def effDescSet (f : LayS) (t : Sett) : Option Sett :=
  descWrite t (f.sd.setWidth 4)
    (t.sreg (f.sa + 3) ++ t.sreg (f.sa + 2) ++ t.sreg (f.sa + 1) ++ t.sreg f.sa)

/-- DESC.ADJ: SB is signed; a sum outside the field, or a narrow SB that is no multiple of a block,
fails the check. -/
def effDescAdj (f : LayS) (t : Sett) : Option Sett :=
  let r : BitVec 4 := f.sd.setWidth 4
  let d := t.areg r
  let x := (t.op2 f).toInt
  let k1 := descKind1 d
  let w : Int := if k1 then 2 ^ 48 else 2 ^ 22
  let o := (if k1 then (descVa d : Int) else descOffset d) + x
  match Fmt.ofCode (descFmt d) with
  | none => none
  | some fm =>
    let blk : Int := (4 * fm.bits : Nat)
    let sc := (if k1 then (descScaleVa d : Int) else descScaleOff d) + x / blk
    if o < 0 ∨ w ≤ o ∨ (fm.narrow ∧ (x % blk ≠ 0 ∨ sc < 0 ∨ w ≤ sc)) then none
    else
      let d1 := if k1 then descPut d 47 0 o.toNat else descPut d 34 13 o.toNat
      let d2 := if !fm.narrow then d1
        else if k1 then descPut d1 175 128 sc.toNat else descPut d1 56 35 sc.toNat
      descWrite t r d2

def effDescValid (f : LayS) (t : Sett) : Sett :=
  let r : BitVec 4 := f.sd.setWidth 4
  let d := t.areg r
  if descKind1 d then t
  else
    let v := (t.op2 f).toNat
    t.setA r ([0, 1, 2, 3].foldl (fun d k =>
      descPut d (128 + 16 * k + 15) (128 + 16 * k) (min (field v (16 * k + 15) (16 * k)) (descExt d k))) d)

def effDescGet (f : LayS) (t : Sett) : Sett :=
  let d := t.areg (f.sa.setWidth 4)
  t.setS f.sd (BitVec.ofNat 64 (d.toNat / 2 ^ (64 * (f.imm.toNat % 4))))

/-- Capability values (R119); `row`, `col` the sett's logical coordinates. -/
def capValue (sel row col : Nat) (compat : Bool) : Nat :=
  match sel with
  | 0x00 => 3
  | 0x01 => 12
  | 0x02 => 32
  | 0x03 => row
  | 0x04 => col
  | 0x05 => 4194304
  | 0x06 => 64
  | 0x07 => 2
  | 0x08 => b2n compat
  | 0x09 => 134217728
  | 0x0A => 1400000
  | 0x0B => 4096
  | 0x0C => 4096
  | 0x0D => 64
  | 0x0E => 4096
  | 0x0F => 16
  | 0x11 => 4096
  | 0x12 => 16384
  | 0x13 => 16384
  | 0x14 => 16384
  | 0x15 => 16384
  | 0x16 => 32768
  | 0x17 => 65536
  | 0x21 => 128
  | 0x22 => 128
  | 0x23 => 128
  | 0x24 => 128
  | 0x25 => 128
  | 0x26 => 256
  | 0x27 => 512
  | _ => 0

def effSysCaps (f : LayS) (rc : Nat × Nat) (t : Sett) : Sett :=
  t.setS f.sd (BitVec.ofNat 64 (capValue f.imm.toNat rc.1 rc.2 t.compat))

def effSysFlags (f : LayS) (t : Sett) : Sett := t.setS f.sd (t.flags.setWidth 64)

/-- Operand of layout B: SB, or IMM unsigned (R112). -/
def Sett.opB (t : Sett) (f : LayB) : W64 := if f.i then f.imm.setWidth 64 else t.sreg f.sb

/-- SYNC.WAIT is satisfied (R59). -/
def syncMet (f : LayB) (t : Sett) : Bool := (t.opB f).ule (t.ereg f.e)

end Sys2Proof.Machine
end

