-- ==== Sys2Proof/Machine/Stream.lean ====
section
/-! DEFINITION. The stream unit: class 0x2, tile headers and the tile CRC, block measures
(R99, R147, R155–R157, R272–R274, R357, R358, R578). -/

namespace Sys2Proof.Machine

/-! Measure slots (R157) -/

def Sett.slot (t : Sett) (k : Nat) : Slot := t.slots.get Slot.reset k
def Sett.setSlot (t : Sett) (k : Nat) (f : Slot → Slot) : Sett :=
  { t with slots := SMap.modify Slot.reset t.slots k f }

def sat64 (x : Nat) : Nat := min x (2 ^ 64 - 1)

/-- `ceil (r × 2^32)` (R157). -/
def worstOf (r : Rat) : Nat := (-((-(r * pow2 32)).floor)).toNat

/-- Add one measured block to a slot (R156, R157). DESIGN CHOICE: BLOCKS, too, saturates at 2^64 − 1. -/
def Slot.addBlock (k : Slot) (w : Narrowed) : Slot :=
  { k with clips := sat64 (k.clips + w.clips), qsheds := sat64 (k.qsheds + w.qsheds)
           worst := max k.worst (worstOf w.ratio), blocks := sat64 (k.blocks + 1) }

/-- Record what a narrowing measured, when `slot` is given and it narrowed (R155). -/
def recordBlock (i : Nat) (slot : Option Nat) (narrow : Bool) (w : Option Narrowed) (s : State) : State :=
  match slot, w with
  | some k, some w => if narrow then s.setSett i fun t => t.setSlot k fun x => x.addBlock w else s
  | _, _ => s

/-! Tiled objects (R272) -/

def tileElemBytes (o : BitVec 512) : Nat :=
  objTE o 0 * objTE o 1 * objTE o 2 * objTE o 3 * ((Fmt.ofCode (objFmt o)).getD .fp32).bits / 8
def tileScaleBytes (o : BitVec 512) : Nat :=
  let f := (Fmt.ofCode (objFmt o)).getD .fp32
  if f.narrow then tileElemBytes o / (4 * f.bits) else 0
def tileCount (o : BitVec 512) : Nat := objTC o 1 * objTC o 2 * objTC o 3

/-- Tiles below `count`, of `size` bytes each from `lo` on, that `n` bytes at `a` touch. -/
def tilesIn (lo size count a n : Nat) : List Nat :=
  if size = 0 ∨ n = 0 ∨ a + n ≤ lo then []
  else
    let k := (max a lo - lo) / size
    (iota k ((a + n - 1 - lo) / size - k + 1)).filter fun x => decide (x < count)

/-- Tiled objects of the running run. -/
def tiledObjs (s : State) : List (BitVec 512) :=
  match s.stile.cur with
  | none => []
  | some r => r.manifest.objects.filter objTiled

/-- Tiles of the run's tiled objects whose elements or scale bytes a store of these byte ranges touches. -/
def touchedTiles (s : State) (rs : List (Nat × Nat)) : List (BitVec 512 × Nat) :=
  ((tiledObjs s).map fun o =>
    ((rs.map fun e => tilesIn (objVa o) (tileElemBytes o) (tileCount o) e.1 e.2
        ++ tilesIn (objVa o + objScaleOff o) (tileScaleBytes o) (tileCount o) e.1 e.2).flatten.eraseDups).map fun k => (o, k)).flatten

/-- The tile that a memory tensor covers exactly: object and tile number (R273). -/
def exactTile (s : State) (t : Tens) : Option (BitVec 512 × Nat) :=
  if !t.mem then none
  else match findObject (tiledObjs s) t.base with
    | none => none
    | some o =>
      let teb := tileElemBytes o
      let off := t.base - objVa o
      if teb ≠ 0 ∧ off % teb = 0 ∧ off / teb < tileCount o ∧ [0, 1, 2, 3].all (fun k => t.ext k == objTE o k) then
        some (o, off / teb)
      else none

def tileHdrVa (o : BitVec 512) (i : Nat) : Nat := objVa o + objHdrOff o + 32 * i

/-- The valid rows of a tile, each up to the byte that holds its last valid element (R274); `row` gives the position of
a row's first byte. -/
def tileRows (i : Nat) (t : Tens) (row : Nat → Nat → Nat → Nat) (v : Nat → Nat) (s : State) : Res (List (List Byte)) :=
  Res.mapM (fun k s =>
    let c := rowCoords (v 1) (v 2) k
    (t.readBytes i (row c.1 c.2.1 c.2.2) (ceilDiv (v 0 * t.fmt.bits) 8) s).bind fun bs s => .ok (bs.map fun b => b.getD 0) s)
    (List.range (if v 0 = 0 then 0 else v 1 * v 2 * v 3)) s

/-- Scale bytes of the blocks that hold a valid element; `sc` gives the position of a row's first. -/
def tileScales (i : Nat) (t : Tens) (sc : Nat → Nat → Nat → Nat) (v : Nat → Nat) (s : State) : Res (List Byte) :=
  (Res.mapM (fun k s =>
    let c := rowCoords (v 1) (v 2) k
    (t.readBytes i (sc c.1 c.2.1 c.2.2) (ceilDiv (v 0) 32) s).bind fun bs s => .ok (bs.map fun b => b.getD 0) s)
    (List.range (if v 0 = 0 ∨ !t.fmt.narrow then 0 else v 1 * v 2 * v 3)) s).bind fun l s => .ok l.flatten s

/-- Bytes that a tile's CRC covers, where a descriptor places them (R274). -/
def tileBytes (i : Nat) (t : Tens) (v : Nat → Nat) (s : State) : Res (List Byte) :=
  (tileRows i t (fun a b c => t.base + t.rowOff a b c) v s).bind fun es s =>
    (tileScales i t (fun a b c => t.scaleAddr ⟨a, b, c, 0⟩) v s).bind fun ss s => .ok (es.flatten ++ ss) s

/-- The 32-byte header of a tile stored exactly (R272, R273). -/
def tileHeader (o : BitVec 512) (v : Nat → Nat) (bytes : List Byte) : List Byte :=
  leBytes (b2n ([0, 1, 2, 3].any fun k => decide (v k < objTE o k))) 1 ++ leBytes (objFmt o) 1
    ++ leBytes (objRank o) 1 ++ leBytes 0 1
    ++ leBytes (v 0) 2 ++ leBytes (v 1) 2 ++ leBytes (v 2) 2 ++ leBytes (v 3) 2
    ++ leBytes (objTE o 0) 2 ++ leBytes (objTE o 1) 2 ++ leBytes (objTE o 2) 2 ++ leBytes (objTE o 3) 2
    ++ leBytes bytes.length 4 ++ leBytes (crc32c bytes) 4 ++ leBytes 0 4

/-- Mark the headers of tiles that a store did not cover exactly: MIXED, CRC 0, BYTES 0 (R273). -/
def markMixed (i : Nat) (tiles : List (BitVec 512 × Nat)) (s : State) : Res Unit :=
  (Res.mapM (fun (k : BitVec 512 × Nat) s =>
    let va := tileHdrVa k.1 k.2
    (readMem i va 32 .read s).bind fun h s =>
      writeMem i va (patch (patch h 0 [(h.headD 0) ||| 2]) 20 (leBytes 0 8)) s) tiles s).bind
    fun _ s => .ok () s

/-- MIXED marks on every tile that a store of these byte ranges of memory touched, for stores that cover no tile exactly
(R273). -/
def markStores (i : Nat) (rs : List (Nat × Nat)) (s : State) : Res Unit :=
  if (tiledObjs s).isEmpty then .ok () s else markMixed i (touchedTiles s rs) s

/-- Byte ranges that a store of every valid element of a tensor writes. -/
def Tens.storeRanges (t : Tens) : List (Nat × Nat) :=
  ((List.range t.blockCount).map fun k =>
    let p := t.blockAt k
    (t.base + t.blockOff p, ceilDiv (t.blockValid p * t.fmt.bits) 8) ::
      (if t.fmt.narrow then [(t.scaleAddr p, 1)] else [])).flatten

/-- Header work that ends a store to memory: the header of a tile covered exactly (`exact` forms), MIXED marks on the
others that it touched (R273). `rs` are the byte ranges written, `v` the valid counts stored. -/
def storeHeaders (i : Nat) (exact : Bool) (dst : Tens) (rs : List (Nat × Nat)) (v : Nat → Nat) (s : State) : Res Unit :=
  if !dst.mem ∨ (tiledObjs s).isEmpty then .ok () s
  else
    let own := if exact then exactTile s dst else none
    let put (s : State) : Res Unit :=
      match own with
      | some (o, k) => (tileBytes i dst v s).bind fun bs s => writeMem i (tileHdrVa o k) (tileHeader o v bs) s
      | none => .ok () s
    (put s).bind fun _ s => markMixed i ((touchedTiles s rs).filter fun x => some x != own) s

/-- Die that backs an address of the running run, for LINTEL_TILE_CRC_CNT. -/
def backingDie (s : State) (va : Nat) : Nat :=
  match translate s (runAgent s) .read va with
  | .ok (.dev ca) => homeDie ca
  | _ => 0

/-- Read the header of tile `k` and, where its CRC is to be checked, the bytes that it covers, where the object places
them: does the tile agree (R357)? -/
def tileAgrees (i : Nat) (src : Tens) (o : BitVec 512) (k : Nat) (s : State) : Res Bool :=
  (readMem i (tileHdrVa o k) 32 .read s).bind fun h s =>
    let te := fun j => recField h (12 + 2 * j) 2
    if bit (recField h 0 1) 1 ∨ recField h 20 4 = 0 ∨ recField h 1 1 ≠ objFmt o
      ∨ recField h 2 1 ≠ objRank o ∨ [0, 1, 2, 3].any (fun j => te j != objTE o j) then .ok true s
    else
      let f := (Fmt.ofCode (objFmt o)).getD .fp32
      let t := { src with fmt := f }
      let v := fun j => min (recField h (4 + 2 * j) 2) (te j)
      let row := fun a b c => ((c * objTE o 2 + b) * objTE o 1 + a) * (objTE o 0 * f.bits / 8)
      (tileRows i t (fun a b c => objVa o + k * tileElemBytes o + row a b c) v s).bind fun es s =>
        (tileScales i t (fun a b c => objVa o + objScaleOff o + k * tileScaleBytes o + row a b c / (4 * f.bits)) v s).bind fun ss s =>
          let bs := es.flatten ++ ss
          .ok (decide (crc32c bs = recField h 24 4) && decide (bs.length = recField h 20 4)) s

/-- A line without its clean sectors, whose bursts are then read from memory. -/
def Line.bypass (l : Line) : Line :=
  let kept (w : Nat) : Bool := bit (l.valid &&& l.dirty).toNat (w / 4)
  { l with valid := l.valid &&& l.dirty, soft := l.soft.filter kept, hard := l.hard.filter kept }

/-- Let the next reads of a range come from memory: the slices lose their clean copies. -/
def bypassLintel (ag : Agent) (va len : Nat) (s : State) : State :=
  (granules va len).foldl (fun s g => match xlate ag .read g.1 s with
    | (.ok (.dev ca), s1) => s1.setLine (ca / 256) Line.bypass
    | (_, s1) => s1) s

def countTileCrc (va : Nat) (s : State) : State :=
  s.setDie (backingDie s va) fun m => { m with lTileCrcCnt := satAdd m.lTileCrcCnt 1 }

/-- The tile CRC check of a load that has moved its blocks (R357, R358): on a mismatch the tile and its header are read
again from memory, and a second mismatch ends the run with 0x0305; where the second check passes, `again` moves the
blocks once more. -/
def checkTile (i : Nat) (src : Tens) (again : State → Res Unit) (s : State) : Res Unit :=
  match exactTile s src with
  | none => .ok () s
  | some (o, k) =>
    (tileAgrees i src o k s).bind fun good s =>
      if good then .ok () s
      else
        let s1 := once i (fun s => bypassLintel (settAg s i) (tileHdrVa o k) 32
          (bypassLintel (settAg s i) (objVa o + k * tileElemBytes o) (tileElemBytes o)
            (bypassLintel (settAg s i) (objVa o + objScaleOff o + k * tileScaleBytes o) (tileScaleBytes o) (countTileCrc src.base s)))) s
        (tileAgrees i src o k s1).bind fun good s => if good then again s else .bad 0x0305 (countTileCrc src.base s)

/-! The opcodes -/

/-- Valid counts of the source limited by the destination's extents: what a memory tile holds. -/
def storedValid (src dst : Tens) (k : Nat) : Nat := min (src.valid k) (dst.ext k)

/-- Move every block of a transfer, measuring nothing. -/
def moveAll (i : Nat) (src dst : Tens) (s : State) : Res Unit :=
  (Res.mapM (fun k s => (moveBlock i src (dst.blockAt k) dst (dst.blockAt k) s).bind fun _ s => .ok () s)
    (List.range dst.blockCount) s).bind fun _ s => .ok () s

/-- Converting transfer AD := AA: a step for each block, then the check of the source tile when `crc`, then the headers.
DESIGN CHOICE: where the blocks move again after the second check of a tile, the measures of the first time stand. -/
def moveSteps (i : Nat) (src dst : Tens) (slot : Option Nat) (crc exact : Bool) (k : Nat) (s : State) :
    Res Unit :=
  if k < dst.blockCount then
    let p := dst.blockAt k
    (moveBlock i src p dst p s).bind fun w s => .ok () (recordBlock i slot dst.fmt.narrow w s)
  else if k = dst.blockCount then (if crc then checkTile i src (moveAll i src dst) s else .ok () s)
  else storeHeaders i exact dst dst.storeRanges (storedValid src dst) s

def modQ (f : LayT) : Bool := bit f.md.toNat 17
def modSlot16 (f : LayT) : Nat := field f.md.toNat 16 13

/-- STR.LOAD: measures when Q is set (R155). -/
def effStrLoad (i : Nat) (f : LayT) (prog : Nat) (s : State) : Eff :=
  let t := s.sett i
  let src := tens t f.aa
  let dst := tens t f.ad
  stepsFrom i (moveSteps i src dst (if modQ f then some (modSlot16 f) else none) true false)
    (dst.blockCount + 2) prog s

/-- STR.STORE: writes the header of a tile it covers exactly (R273). -/
def effStrStore (i : Nat) (f : LayT) (prog : Nat) (s : State) : Eff :=
  let t := s.sett i
  let src := tens t f.aa
  let dst := tens t f.ad
  stepsFrom i (moveSteps i src dst none false true) (dst.blockCount + 2) prog s

/-- STR.COPY of one block: codes and scale of the elements valid on both sides; AD's other valid elements of a byte that is
written are kept (R271, R578). -/
def copyBlock (i : Nat) (src dst : Tens) (p : BlockAt) (s : State) : Res Unit :=
  let n := min (src.blockValid p) (dst.blockValid p)
  if n = 0 then .ok () s
  else
    (src.readBlock i p s).bind fun (r : List (Option Nat) × Nat) s =>
      let cs := (r.1.map fun c : Option Nat => c.getD 0).take n
      if n = dst.blockValid p ∨ !dst.fmt.narrow then dst.writeBlock i p cs r.2 s
      else
        (dst.readBlock i p s).bind fun (q : List (Option Nat) × Nat) s =>
          let bs := pack dst.fmt.bits (cs ++ (q.1.map fun c : Option Nat => c.getD 0).drop n)
          (dst.writeBytes i (dst.base + dst.blockOff p) (bs.take (ceilDiv (n * dst.fmt.bits) 8)) s).bind fun _ s =>
            dst.writeBytes i (dst.scaleAddr p) [BitVec.ofNat 8 r.2] s

/-- Byte ranges that an STR.COPY writes. -/
def copyRanges (src dst : Tens) : List (Nat × Nat) :=
  ((List.range src.blockCount).map fun k =>
    let p := src.blockAt k
    let n := min (src.blockValid p) (dst.blockValid p)
    if n = 0 then [] else (dst.base + dst.blockOff p, ceilDiv (n * dst.fmt.bits) 8) ::
      (if dst.fmt.narrow then [(dst.scaleAddr p, 1)] else [])).flatten

def copySteps (i : Nat) (src dst : Tens) (k : Nat) (s : State) : Res Unit :=
  let n := src.blockCount
  if k < n then copyBlock i src dst (src.blockAt k) s
  else if k = n then
    checkTile i src (fun s => (Res.mapM (fun k s => copyBlock i src dst (src.blockAt k) s) (List.range n) s).bind fun _ s => .ok () s) s
  else storeHeaders i true dst (copyRanges src dst) (storedValid src dst) s

/-- STR.COPY: AD is taken with the element size of AA's format. -/
def effStrCopy (i : Nat) (f : LayT) (prog : Nat) (s : State) : Eff :=
  let t := s.sett i
  let src := tens t f.aa
  let dst := tensAs t f.ad src.fmt
  stepsFrom i (copySteps i src dst) (src.blockCount + 2) prog s

/-- The `j`-th valid element of an index operand in U32 or I32, as an unsigned word (R578). -/
def indexAt (i : Nat) (t : Tens) (j : Nat) (s : State) : Res (Option Nat) :=
  if (t.fmt = .u32 ∨ t.fmt = .i32) ∧ j < t.validCount then
    (t.readElem i (t.validAt j) s).bind fun r s =>
      .ok (match r with
        | some (some c, _) => some c
        | _ => none) s
  else .ok none s

/-- STR.GATHER: the block that block `k` of AD receives, in AD's format: scale, flags and codes. -/
def gatherRead (i : Nat) (src idx dst : Tens) (k : Nat) (s : State) : Res (Nat × Fl × List Nat) :=
  let nb := ceilDiv (dst.valid 0) 32
  let p := dst.blockAt k
  let n := dst.blockValid p
  (indexAt i idx (k / nb) s).bind fun x s =>
    let c := match x with
      | some r => if r < src.ext 1 * src.ext 2 * src.ext 3 then rowCoords (src.ext 1) (src.ext 2) r
                  else (src.ext 1, 0, 0)
      | none => (src.ext 1, 0, 0)
    (src.readBlock i ⟨c.1, c.2.1, c.2.2, p.b⟩ s).bind fun (r : List (Option Nat) × Nat) s =>
      if src.fmt = dst.fmt then
        .ok (r.2, flNone, ((r.1.map fun c : Option Nat => c.getD 0) ++ List.replicate n 0).take n) s
      else
        let w := convertBlock src.fmt dst.fmt (padVals (blockVals src.fmt r) n)
        .ok (w.scale, w.flags, w.codes) s

def gatherWrite (i : Nat) (dst : Tens) (k : Nat) (b : Nat × Fl × List Nat) (s : State) : Res Unit :=
  (dst.writeBlock i (dst.blockAt k) b.2.2 b.1 s).bind fun _ s =>
    .ok () (if b.2.1 = flNone then s else s.flag i b.2.1)

/-- One block of AD, or after the last the headers. -/
def gatherStep (i : Nat) (src idx dst : Tens) (k : Nat) (s : State) : Res Unit :=
  if k < dst.blockCount then (gatherRead i src idx dst k s).bind fun b s => gatherWrite i dst k b s
  else storeHeaders i false dst dst.storeRanges dst.valid s

/-- Blocks as a progress record. -/
def encBlocks : List (Nat × Fl × List Nat) → List Nat
  | [] => []
  | b :: t => b.1 :: b.2.1.toNat :: b.2.2.length :: (b.2.2 ++ encBlocks t)

def decBlocks : Nat → List Nat → List (Nat × Fl × List Nat)
  | n + 1, sc :: fl :: len :: t => (sc, BitVec.ofNat 8 fl, t.take len) :: decBlocks n (t.drop len)
  | _, _ => []

/-- Read blocks of a gather from number `k` on, after those of `bs`. -/
def gatherReads (i : Nat) (src idx dst : Tens) : Nat → Nat → List (Nat × Fl × List Nat) → State → List (Nat × Fl × List Nat) × Res Unit
  | 0, _, bs, s => (bs, .ok () s)
  | n + 1, k, bs, s =>
    match gatherRead i src idx dst k s with
    | .ok b s' => gatherReads i src idx dst n (k + 1) (bs ++ [b]) (clearTrace i s')
    | .fault c va kd s' => (bs, .fault c va kd s')
    | .bad x s' => (bs, .bad x s')

/-- Writes of a gather in place: the blocks read first stand in `bs`. -/
def gatherPlace (i : Nat) (dst : Tens) (bs : List (Nat × Fl × List Nat)) (prog : Nat) (s : State) : Eff :=
  match stepsFrom i (fun k s => if k < dst.blockCount then gatherWrite i dst k (bs.getD k (0x7F, flNone, [])) s
      else storeHeaders i false dst dst.storeRanges dst.valid s) (dst.blockCount + 1) prog s with
  | .fault p _ c va kd s' => .fault (dst.blockCount + p) (encBlocks bs) c va kd s'
  | e => e

/-- STR.GATHER (R578). In place (R94) every block is read before the first is written: progress counts the blocks read,
then those written. -/
def effStrGather (i : Nat) (f : LayT) (prog : Nat) (aux : List Nat) (s : State) : Eff :=
  let t := s.sett i
  let src := tens t f.aa
  let idx := tens t f.ab
  let dst := tens t f.ad
  if dst.sameExtent src || dst.sameExtent idx then
    let n := dst.blockCount
    let got := decBlocks n aux
    match gatherReads i src idx dst (n - got.length) got.length got s with
    | (bs, .ok _ s') => gatherPlace i dst bs (prog - n) s'
    | (bs, .fault c va kd s') => .fault bs.length (encBlocks bs) c va kd s'
    | (_, .bad x s') => .bad x s'
  else stepsFrom i (gatherStep i src idx dst) (dst.blockCount + 1) prog s

/-- Largest scale that block `k` of an operand counts with, plus one; 0 where none counts (R147). -/
def scanBlock (i : Nat) (t : Tens) (k : Nat) (s : State) : Res Nat :=
  let p := t.blockAt k
  if t.fmt.narrow then (t.readScale i p s).bind fun x s => .ok (if x = 255 then 0 else x + 1) s
  else
    (t.readBlock i p s).bind fun (r : List (Option Nat) × Nat) s =>
      .ok ((r.1.map fun c : Option Nat =>
        let e := (c.getD 0) / (if t.fmt = .fp32 then 2 ^ 23 else 2 ^ 7) % 256
        if e = 255 then 0 else max e 1 + 1).foldl max 0) s

/-- Scan `n` blocks from number `k` on, `m` the largest so far. -/
def scanFrom (i : Nat) (t : Tens) : Nat → Nat → Nat → State → Nat × Nat × Res Unit
  | 0, k, m, s => (k, m, .ok () s)
  | n + 1, k, m, s =>
    match scanBlock i t k s with
    | .ok x s' => scanFrom i t n (k + 1) (max m x) (clearTrace i s')
    | .fault c va kd s' => (k, m, .fault c va kd s')
    | .bad x s' => (k, m, .bad x s')

/-- Blocks of an operand that a scan reads. -/
def Tens.scanCount (t : Tens) : Nat := if t.fmt.isInt then 0 else t.blockCount

/-- The anchor of a scan from the largest scales plus one (R147). -/
def scanAnchor (a b : Fmt) (ma mb : Nat) : Int :=
  if ma = 0 ∨ mb = 0 then 0 else ((ma - 1 : Nat) : Int) + ((mb - 1 : Nat) : Int) - 254 + ilog2 (a.largest * b.largest)

/-- STR.SCAN (R147). Progress: blocks of AA scanned, then of AB, with the largest scales. -/
def effStrScan (i : Nat) (f : LayT) (prog : Nat) (aux : List Nat) (s : State) : Eff :=
  let t := s.sett i
  let a := tens t f.aa
  let b := tens t f.ab
  let na := a.scanCount
  match scanFrom i a (na - prog) (min prog na) (aux.getD 0 0) s with
  | (k, ma, .fault c va kd s1) => .fault k [ma, 0] c va kd s1
  | (_, _, .bad x s1) => .bad x s1
  | (_, ma, .ok _ s1) =>
    match scanFrom i b (b.scanCount - (prog - na)) (prog - na) (aux.getD 1 0) s1 with
    | (k, mb, .fault c va kd s2) => .fault (na + k) [ma, mb] c va kd s2
    | (_, _, .bad x s2) => .bad x s2
    | (_, mb, .ok _ s2) => .done (s2.setSett i fun t => t.setS f.sd (BitVec.ofInt 64 (scanAnchor a.fmt b.fmt ma mb)))

/-- Bring a range into the Lintel cache; a granule that does not translate to device memory is skipped. -/
def prefetch (ag : Agent) (va len : Nat) (s : State) : State :=
  (granules va len).foldl (fun s g => match xlate ag .read g.1 s with
    | (.ok (.dev ca), s1) => (burstsOf ca g.2).foldl (fun s b => (readBurst s b).1) s1
    | (_, s1) => s1) s

/-- STR.PREF: a kind-1 AA comes into the Lintel cache; no value changes and nothing faults (R578). -/
def effStrPref (i : Nat) (f : LayT) (s : State) : Eff :=
  let src := tens (s.sett i) f.aa
  .done (if src.mem then src.storeRanges.foldl (fun s e => prefetch (settAg s i) e.1 e.2 s) s else s)

end Sys2Proof.Machine
end

