-- ==== Sys2Proof/Machine/Matrix.lean ====
section
/-! DEFINITION. The matrix unit and the ledger converter: class 0x3 (R100–R103, R139–R151). -/

namespace Sys2Proof.Machine

def modFmt (f : LayT) : Nat := field f.md.toNat 17 14
def modLb (f : LayT) : Nat := field f.md.toNat 13 13
def modAcc (f : LayT) : Bool := bit f.md.toNat 12
def modSwap (f : LayT) : Bool := bit f.md.toNat 11
def modTrn (f : LayT) : Bool := bit f.md.toNat 10

/-- Plane depth K of a weight format (R101, R119). -/
def Fmt.depth : Fmt → Nat
  | .fp4 => 256
  | .t2 => 512
  | _ => 128

/-- Activation format that meets weights of a format (R101). -/
def Fmt.actFmt : Fmt → Fmt
  | .t2 => .fp4
  | f => f

def planeKey (k n : Nat) : Nat := 128 * k + n

/-- Weight of a plane at depth `k`, column `n`. -/
def planeAt (p : SMap Val) (k n : Nat) : Val := SMap.get (.fin 0) p (planeKey k n)

/-! One ledger receiving terms (R140–R142) -/

/-- A ledger in the middle of a sum, with the events of the terms so far. -/
structure LedAcc where
  n : Int
  nan : Bool
  pinf : Bool
  ninf : Bool
  sheds : Nat
  sats : Nat
  invalid : Bool
  deriving DecidableEq, Repr

def LedAcc.ofLedger (l : Ledger) : LedAcc := ⟨l.n.toInt, l.nan, l.pinf, l.ninf, 0, 0, false⟩
def LedAcc.zero : LedAcc := ⟨0, false, false, false, 0, 0, false⟩

/-- N is kept modulo 2^136 (R142). -/
def LedAcc.toLedger (a : LedAcc) : Ledger := ⟨BitVec.ofInt 136 a.n, a.nan, a.pinf, a.ninf⟩

/-- Enter one term under anchor `A`: clamped at 2^(A+23), truncated to 2^(A−104), or a marker. -/
def LedAcc.add (anchor : Int) (a : LedAcc) : Val → LedAcc
  | .nan => { a with nan := true, invalid := true }
  | .inf neg => if neg then { a with ninf := true } else { a with pinf := true }
  | .fin q =>
    if pow2 (anchor + 23) ≤ ratAbs q then
      { a with n := a.n + (if q < 0 then -(2 ^ 127) else 2 ^ 127 - 1), sats := a.sats + 1 }
    else
      let x := q * pow2 (104 - anchor)
      let t := truncInt x
      { a with n := a.n + t, sheds := if (t : Rat) = x then a.sheds else a.sheds + 1 }

/-- Sum of the products of a row of activations with one plane column; a lane that holds no element
(none) contributes nothing and raises no flag (R269, R270). -/
def dotColumn (anchor : Int) (plane : SMap Val) (n : Nat) : Nat → List (Option Val) → LedAcc → LedAcc
  | _, [], a => a
  | k, none :: vs, a => dotColumn anchor plane n (k + 1) vs a
  | k, some v :: vs, a => dotColumn anchor plane n (k + 1) vs (a.add anchor (v.mul (planeAt plane k n)))

/-- Events of a set of ledgers: sheds, saturations, INVALID. -/
structure TermEvents where
  sheds : Nat
  sats : Nat
  invalid : Bool
  deriving DecidableEq, Repr

/-- Enter the terms of activation row `m` into all 128 ledgers of the row of a bank (R102, R143). -/
def rowTerms (plane : SMap Val) (acc : Bool) (m : Nat) (vs : List (Option Val)) (b : Bank) : Bank × TermEvents :=
  let out := (List.range 128).map fun n =>
    let l := if acc then LedAcc.ofLedger (b.led.get Ledger.zero (128 * m + n)) else LedAcc.zero
    dotColumn b.anchor plane n 0 vs l
  ({ b with led := SMap.setMany Ledger.zero b.led (128 * m) (out.map LedAcc.toLedger)
            parity := if acc then b.parity else SMap.clear b.parity (128 * m) 128 },
   { sheds := (out.map (·.sheds)).foldl (· + ·) 0
     sats := (out.map (·.sats)).foldl (· + ·) 0
     invalid := out.any (·.invalid) })

/-- Flags and counts of entered terms (R153); sheds are logged under the issue number (R158). -/
def Sett.termEvents (t : Sett) (seq : Nat) (e : TermEvents) : Sett :=
  let t1 := (t.shed e.sheds).saturate e.sats
  let t2 := if e.invalid then t1.flag flInvalid else t1
  if e.sheds = 0 then t2 else { t2 with shedLog := t2.shedLog ++ [(seq, e.sheds)] }

/-- Is the parity of any ledger in `[lo, lo + n)` of the bank broken (R45)? -/
def Bank.badParity (b : Bank) (lo n : Nat) : Bool :=
  b.parity.any fun e => decide (lo ≤ e.1) && decide (e.1 < lo + n)

/-- Elements 0 .. min(k, VALID0) − 1 of a row; the list is cut at the valid prefix, so lanes
beyond contribute nothing, and a lane whose bytes lie outside the region holds no element (R93, R269). -/
def actRow (i : Nat) (t : Tens) (c : Nat × Nat × Nat) (k : Nat) (s : State) :
    Res (List (Option Val)) :=
  (t.readRowOpt i c s).bind fun vs s => .ok (vs.take k) s

/-- MMA rows from `prog`. A parity error of old contents ends the run with 0x0208. -/
def mmaRow (i seq lb : Nat) (acc : Bool) (src : Tens) (depth m : Nat) (s : State) : Res Unit :=
  (actRow i src (m, 0, 0) depth s).bind fun vs s =>
    let t := s.sett i
    let b := t.bank lb
    if acc ∧ b.badParity (128 * m) 128 then .bad 0x0208 s
    else
      let r := rowTerms t.active acc m vs b
      .ok () (s.setSett i fun t => (t.setBank lb r.1).termEvents seq r.2)

/-- MMA (R101, R102): planes exchange first if SWAP. A kind-1 AA computes no row (R577). -/
def effMma (i seq : Nat) (f : LayT) (s : State) : Eff :=
  let s0 := if modSwap f then s.setSett i fun t => { t with active := t.shadow, shadow := t.active } else s
  let t := s0.sett i
  let fm := (Fmt.ofCode (modFmt f)).getD .fp8a
  if isMemOp t f.aa then .done (s0.flag i flEmpty)
  else
    let src := tensAs t f.aa fm.actFmt
    runSteps i (mmaRow i seq (modLb f) (modAcc f) src fm.depth) (min (src.valid 1) 128) 0 s0

/-- Rows of a plane load: value of plane row `k`, column `n`, from AB; a transposed load takes
dimension 0 along K. -/
def wldCoords (trn : Bool) (k n : Nat) : Nat × Nat × Nat × Nat :=
  if trn then (k, n, 0, 0) else (n, k, 0, 0)

/-- MMA.WLD: the shadow plane := K × 128 weights; rows at or beyond K are zero (R102). -/
def effMmaWld (i : Nat) (f : LayT) (s : State) : Eff :=
  let t := s.sett i
  let fm := (Fmt.ofCode (modFmt f)).getD .fp8a
  if isMemOp t f.ab then .done ((s.setSett i fun t => { t with shadow := [] }).flag i flEmpty)
  else
    let src := tensAs t f.ab fm
    Res.toEff ((Res.mapM (fun k s =>
        Res.mapM (fun n s => src.readVal i (wldCoords (modTrn f) k n) s) (List.range 128) s)
      (List.range fm.depth) s).bind fun vs s =>
        .ok () (s.setSett i fun t => { t with shadow := SMap.setMany (.fin 0) [] 0 vs.flatten }))

/-- LDG.ANCHOR: SA clamped to −512 .. 511; the bank is cleared with fresh parity (R144, R45). -/
def effLdgAnchor (i : Nat) (f : LayT) (s : State) : Eff :=
  .done (s.setSett i fun t =>
    t.setBank (modLb f) { anchor := clampInt (-512) 511 (t.sreg f.sa).toInt, led := [], parity := [] })

/-- The value of a ledger and whether it came from its N (step 4), with INVALID and SATURATE (R150). -/
def ledgerVal (anchor : Int) (l : Ledger) : Val × Bool × Bool × Bool :=
  if l.nan || (l.pinf && l.ninf) then (.nan, false, true, false)
  else if l.pinf then (.inf false, false, false, false)
  else if l.ninf then (.inf true, false, false, false)
  else
    let n := l.n.toInt
    if n < -(2 ^ 127) then (.fin ((-(2 ^ 127) : Int) * pow2 (anchor - 104)), false, false, true)
    else if 2 ^ 127 - 1 < n then (.fin (((2 ^ 127 - 1 : Int) : Rat) * pow2 (anchor - 104)), false, false, true)
    else (.fin ((n : Rat) * pow2 (anchor - 104)), true, false, false)

/-- The residual of a ledger after value `w` was written (R151). -/
def residual (anchor : Int) (l : Ledger) (w : Rat) : Ledger :=
  { l with n := BitVec.ofInt 136 (l.n.toInt - truncInt (w * pow2 (104 - anchor))) }

/-- Convert one block of 32 ledgers of row `m` (R150, R151): the scale of a narrow block comes from its valid elements (R133).
DEDUCED: an element that lies outside the region, which is not written (R93), is converted all the same and leaves its ledger
as it stands under KEEP. -/
def cvtBlock (i lb : Nat) (keep : Bool) (dst : Tens) (p : BlockAt) (s : State) : Res Unit :=
  let m := p.i1
  let b := (s.sett i).bank lb
  let n := min (dst.blockValid p) (128 - 32 * p.b)
  let base := 128 * m + 32 * p.b
  if n = 0 then .ok () s
  else if b.badParity base n then .bad 0x0208 s
  else
    let ls := SMap.getMany Ledger.zero b.led base n
    let vs := ls.map (ledgerVal b.anchor)
    let w := convertBlock .fp32 dst.fmt (vs.map (·.1))
    (dst.writeBlock i p w.codes w.scale s).bind fun _ s =>
      let inv := vs.any fun v => v.2.2.1
      let ovf := w.flags &&& flOverflow
      let fl := (if inv then flInvalid else flNone) ||| ovf |||
        (if dst.fmt.narrow then w.flags &&& flInvalid else flNone)
      let sc := if !dst.mem ∧ dst.hi ≤ dst.scaleAddr p then 0x7F else w.scale
      let back := (w.codes.take (dst.insideCount p)).map fun c => dst.fmt.value sc c
      let upd := (ls.zip (vs.zip back)).map fun x =>
        match x.2.1.2.1, x.2.2 with
        | true, .fin q => residual b.anchor x.1 q
        | _, _ => x.1
      .ok () (s.setSett i fun t =>
        let t1 := (t.flag fl).saturate (vs.filter fun v => v.2.2.2).length
        if keep then t1.setBank lb { b with led := SMap.setMany Ledger.zero b.led base upd } else t1)

/-- LDG.CVT: rows below min(VALID1, 128), elements below min(VALID0, 128), index 0 of the rest. -/
def effLdgCvt (i : Nat) (f : LayT) (s : State) : Eff :=
  let t := s.sett i
  let fm := (Fmt.ofCode (modFmt f)).getD .fp32
  if isMemOp t f.ad then .done (s.flag i flEmpty)
  else
    let dst := tensAs t f.ad fm
    let rows := if dst.valid 2 = 0 ∨ dst.valid 3 = 0 then 0 else min (dst.valid 1) 128
    let nb := ceilDiv (min (dst.valid 0) 128) 32
    runSteps i (fun k => cvtBlock i (modLb f) (modAcc f) dst ⟨k / nb, 0, 0, k % nb⟩) (rows * nb) 0 s

end Sys2Proof.Machine
end

