-- ==== Sys2Proof/Machine/Vector.lean ====
section
/-! DEFINITION. The vector unit: class 0x4 (R83, R104, R126, R127, R138, R579). -/

namespace Sys2Proof.Machine

def signBit (b : Nat) : Bool := decide (b / 2 ^ 31 % 2 = 1)

/-- FP32 bits of an exact result; `nz` says a zero keeps a negative sign (R126). -/
def fpBits (nz : Bool) : Val → Nat × Fl
  | .nan => (0x7FC00000, flInvalid)
  | .inf n => (if n then 0xFF800000 else 0x7F800000, flNone)
  | .fin q =>
    let c0 := magCode .nearest 23 (-126) (ratAbs q)
    let c := if c0 < 0x7F800000 then c0 else 0x7F800000
    let neg := if q = 0 then nz else decide (q < 0)
    (c + b2n neg * 2 ^ 31, if c0 < 0x7F800000 then flNone else flOverflow)

def fAdd (a b : Nat) : Nat × Fl := fpBits (signBit a && signBit b) ((fp32Val a).add (fp32Val b))
def negBits (b : Nat) : Nat := if signBit b then b - 2 ^ 31 else b % 2 ^ 32 + 2 ^ 31
def fSub (a b : Nat) : Nat × Fl := fAdd a (negBits b)
def fMul (a b : Nat) : Nat × Fl := fpBits (signBit a != signBit b) ((fp32Val a).mul (fp32Val b))
/-- a × b + c with one rounding. -/
def fFma (a b c : Nat) : Nat × Fl :=
  fpBits ((signBit a != signBit b) && signBit c) (((fp32Val a).mul (fp32Val b)).add (fp32Val c))

/-- Lane maximum: canonical NaN for a NaN operand; of +0 and −0, +0. -/
def fMax (a b : Nat) : Nat × Fl :=
  let x := fp32Val a
  let y := fp32Val b
  if x.isNan || y.isNan then (0x7FC00000, flInvalid)
  else if x.isZero && y.isZero then (if signBit a && signBit b then 2 ^ 31 else 0, flNone)
  else (if x.lt y then b else a, flNone)

/-- Lane minimum: canonical NaN for a NaN operand; of +0 and −0, −0. -/
def fMin (a b : Nat) : Nat × Fl :=
  let x := fp32Val a
  let y := fp32Val b
  if x.isNan || y.isNan then (0x7FC00000, flInvalid)
  else if x.isZero && y.isZero then (if signBit a || signBit b then 2 ^ 31 else 0, flNone)
  else (if y.lt x then b else a, flNone)

/-- Comparison of CC (R104): 0 EQ, 1 NE, 2 LT, 3 LE; unordered with a NaN, which sets INVALID. -/
def fCmp (cc a b : Nat) : Bool × Fl :=
  let x := fp32Val a
  let y := fp32Val b
  let nan := x.isNan || y.isNan
  (match cc with
   | 0 => !nan && !x.lt y && !y.lt x
   | 1 => nan || x.lt y || y.lt x
   | 2 => x.lt y
   | _ => !nan && !y.lt x,
   if nan then flInvalid else flNone)

/-- A lane-wise result under PRED (R83): set lanes take `r`, clear lanes keep VD; flags of set lanes. -/
def laneWise (h : Hdr) (f : LayV) (r : Sett → Nat → Nat × Fl) (t : Sett) : Sett :=
  let p := (t.preg h.pred).toNat
  let old := t.vreg f.vd
  let fl := (List.range 128).foldl (fun a i => if bit p i then a ||| (r t i).2 else a) flNone
  (t.setV f.vd (ofLanes fun i => if bit p i then (r t i).1 else lane old i)).flag fl

/-- Lane-wise operation of VA and VB. -/
def vec2 (op : Nat → Nat → Nat × Fl) (h : Hdr) (f : LayV) (t : Sett) : Sett :=
  laneWise h f (fun t i => op (lane (t.vreg f.va) i) (lane (t.vreg f.vb) i)) t

def effVecAdd (h : Hdr) (f : LayV) (t : Sett) : Sett := vec2 fAdd h f t
def effVecSub (h : Hdr) (f : LayV) (t : Sett) : Sett := vec2 fSub h f t
def effVecMul (h : Hdr) (f : LayV) (t : Sett) : Sett := vec2 fMul h f t
def effVecMax (h : Hdr) (f : LayV) (t : Sett) : Sett := vec2 fMax h f t
def effVecMin (h : Hdr) (f : LayV) (t : Sett) : Sett := vec2 fMin h f t
def effVecFma (h : Hdr) (f : LayV) (t : Sett) : Sett :=
  laneWise h f (fun t i => fFma (lane (t.vreg f.va) i) (lane (t.vreg f.vb) i) (lane (t.vreg f.vc) i)) t
/-- Bit 31 cleared, no flag (R138). -/
def effVecAbs (h : Hdr) (f : LayV) (t : Sett) : Sett :=
  laneWise h f (fun t i => (lane (t.vreg f.va) i % 2 ^ 31, flNone)) t
def effVecSel (h : Hdr) (f : LayV) (t : Sett) : Sett :=
  laneWise h f (fun t i => (if bit (t.preg f.pd).toNat i then lane (t.vreg f.va) i
                            else lane (t.vreg f.vb) i, flNone)) t
def effVecBcast (h : Hdr) (f : LayV) (t : Sett) : Sett :=
  laneWise h f (fun t _ => ((t.sreg f.sa).toNat % 2 ^ 32, flNone)) t
def effVecIadd (h : Hdr) (f : LayV) (t : Sett) : Sett :=
  laneWise h f (fun t i => ((lane (t.vreg f.va) i + lane (t.vreg f.vb) i) % 2 ^ 32, flNone)) t
def effVecPerm (h : Hdr) (f : LayV) (t : Sett) : Sett :=
  laneWise h f (fun t i => (lane (t.vreg f.va) (lane (t.vreg f.vb) i % 128), flNone)) t

/-- VEC.CMP: set lanes of PD take the comparison, clear lanes keep. -/
def effVecCmp (h : Hdr) (f : LayV) (t : Sett) : Sett :=
  let p := (t.preg h.pred).toNat
  let c := fun i => fCmp f.cc.toNat (lane (t.vreg f.va) i) (lane (t.vreg f.vb) i)
  let fl := (List.range 128).foldl (fun a i => if bit p i then a ||| (c i).2 else a) flNone
  (t.setP f.pd (ofBits fun i => if bit p i then (c i).1 else bit (t.preg f.pd).toNat i)).flag fl

/-- One level of the pairwise tree: neighbours (0,1), (2,3), … -/
def pairLevel : List Nat → List Nat × Fl
  | a :: b :: t =>
    let r := fAdd a b
    let q := pairLevel t
    (r.1 :: q.1, r.2 ||| q.2)
  | l => (l, flNone)

def pairTree : Nat → List Nat → Nat × Fl
  | 0, l => (l.headD 0, flNone)
  | k + 1, l =>
    let r := pairLevel l
    let q := pairTree k r.1
    (q.1, r.2 ||| q.2)

/-- VEC.RSUM: lane 0 := tree sum of all lanes of VA, the other lanes 0, on the set lanes of PRED. -/
def effVecRsum (h : Hdr) (f : LayV) (t : Sett) : Sett :=
  let r := pairTree 7 ((List.range 128).map (lane (t.vreg f.va)))
  (laneWise h f (fun _ i => (if i = 0 then r.1 else 0, flNone)) t).flag
    (if (t.preg h.pred).toNat = 0 then flNone else r.2)

/-- FP32 lane of an element (R134, R104): FP32 and integer words copy their bits. -/
def ldLane (f : Fmt) (r : Option (Option Nat × Nat)) : Nat × Fl :=
  match r with
  | some (some c, sc) =>
    match f with
    | .fp32 | .i32 | .u32 => (c, flNone)
    | _ => Fmt.convWide f .fp32 (f.value sc c)
  | _ => (0, flNone)

/-- VEC.LD (R104, R579). A kind-1 AA holds no element (R577). -/
def effVecLd (i : Nat) (h : Hdr) (f : LayV) (s : State) : Eff :=
  let t := s.sett i
  if isMemOp t f.aa then
    .done (s.setSett i fun t => (laneWise h f (fun _ _ => (0, flNone)) t).flag flEmpty)
  else
    let src := tens t f.aa
    let b := (t.sreg f.sa).toNat
    let p := (t.preg h.pred).toNat
    Res.toEff ((Res.mapM (fun k s =>
        if bit p k && src.elemValid (b + k) then src.readElem i (src.elemCoords (b + k)) s
        else .ok none s) (List.range 128) s).bind fun es s =>
      .ok () (s.setSett i fun t => laneWise h f (fun _ k => ldLane src.fmt (es.getD k none)) t))

/-- VEC.ST of a wide format: each set lane whose element is valid. -/
def stWide (i : Nat) (dst : Tens) (b p : Nat) (v : BitVec 4096) (s : State) : Res Unit :=
  (Res.mapM (fun k s =>
    if bit p k && dst.elemValid (b + k) then
      let x := lane v k
      let r := match dst.fmt with
        | .fp32 | .i32 | .u32 => (x, flNone)
        | _ => Fmt.convWide .fp32 dst.fmt (fp32Val x)
      (dst.writeWide i (dst.elemCoords (b + k)) r.1 s).bind fun _ s => .ok () (s.flag i r.2)
    else .ok () s) (List.range 128) s).bind fun _ s => .ok () s

/-- VEC.ST of one narrow block (element numbers `e ..`): set lanes' values and the current values of
clear lanes narrowed together (R579). -/
def stNarrowBlock (i : Nat) (dst : Tens) (e k0 p : Nat) (v : BitVec 4096) (s : State) : Res Unit :=
  let c := dst.elemCoords e
  let at' : BlockAt := ⟨c.2.1, c.2.2.1, c.2.2.2, c.1 / 32⟩
  let n := if e < dst.ext 0 * dst.ext 1 * dst.ext 2 * dst.ext 3 then dst.blockValid at' else 0
  if n = 0 then .ok () s
  else
    (dst.readBlock i at' s).bind fun r s =>
      let cur := blockVals dst.fmt r
      let vs := (List.range n).map fun j =>
        if bit p (k0 + j) then fp32Val (lane v (k0 + j)) else cur.getD j (.fin 0)
      let w := dst.fmt.narrowBlock (vs.map some)
      (dst.writeBlock i at' w.codes w.scale s).bind fun _ s => .ok () (s.flag i w.flags)

/-- VEC.ST (R104, R579). -/
def effVecSt (i : Nat) (h : Hdr) (f : LayV) (s : State) : Eff :=
  let t := s.sett i
  if isMemOp t f.aa then .done (s.flag i flEmpty)
  else
    let dst := tens t f.aa
    let b := (t.sreg f.sa).toNat
    let p := (t.preg h.pred).toNat
    let v := t.vreg f.vd
    Res.toEff (if dst.fmt.narrow then
        (Res.mapM (fun j s => stNarrowBlock i dst (b / 32 * 32 + 32 * j) (32 * j) p v s) [0, 1, 2, 3] s).bind
          fun _ s => .ok () s
      else stWide i dst b p v s)

end Sys2Proof.Machine
end

