-- ==== Sys2Proof/Machine/Mortar.lean ====
section
/-! DEFINITION. Mortar: groups, records, conversions, chunks and epochs (R430–R459). -/

namespace Sys2Proof.Machine

def State.ctx (s : State) (c : Nat) : Ctx := s.mortar.ctxs.get Ctx.reset c
def State.setCtx (s : State) (c : Nat) (f : Ctx → Ctx) : State :=
  { s with mortar := { s.mortar with ctxs := SMap.modify Ctx.reset s.mortar.ctxs c f } }
def State.group (s : State) (gid : Nat) : Option Group := s.mortar.groups.find? fun g => g.gid == gid
def State.setGroup (s : State) (gid : Nat) (f : Group → Group) : State :=
  { s with mortar := { s.mortar with groups := s.mortar.groups.map fun g => if g.gid = gid then f g else g } }

/-! Members (R430, R452) -/

def entModule (e : Nat) : Nat := field e 12 0
def entHost (e : Nat) : Bool := bit e 13
def entRow (e : Nat) : Nat := field e 17 14
def entCol (e : Nat) : Nat := field e 22 18

def Group.n (g : Group) : Nat := g.entries.length
/-- Modules in the order in which their members first appear. -/
def Group.mods (g : Group) : List Nat := (g.entries.map entModule).eraseDups
/-- Indices of a module's members. -/
def Group.of (g : Group) (m : Nat) : List Nat :=
  (List.range g.n).filter fun i => decide (entModule (g.entries.getD i 0) = m)
def Group.firstOf (g : Group) (m : Nat) : Nat := (g.of m).headD 0
def Group.lastOf (g : Group) (m : Nat) : Nat := (g.of m).getLastD 0
def Group.modOf (g : Group) (i : Nat) : Nat := entModule (g.entries.getD i 0)
/-- Place of a module in the chain. -/
def Group.place (g : Group) (m : Nat) : Nat := g.mods.findIdx (· == m)

/-! Records (R433, R435) -/

def recOp (r : List Byte) : Nat := recField r 0 1
def recMode (r : List Byte) : Nat := recField r 1 1
def recFast (r : List Byte) : Bool := bit (recMode r) 0
def recRed (r : List Byte) : Nat := field (recMode r) 2 1
def recIfmt (r : List Byte) : Fmt := (Fmt.ofCode (recField r 2 1)).getD .fp32
def recOfmt (r : List Byte) : Fmt := (Fmt.ofCode (recField r 3 1)).getD .fp32
def recPeer (r : List Byte) : Nat := recField r 4 2
def recCevt (r : List Byte) : Nat := field (recField r 6 1) 3 0
def recSrc (r : List Byte) : Nat := recField r 8 8
def recDst (r : List Byte) : Nat := recField r 16 8
def recCount (r : List Byte) : Nat := recField r 24 8
def recStatusVa (r : List Byte) : Nat := recField r 40 8
def recIsPair (r : List Byte) : Bool := recOp r == 6 || recOp r == 7
def recIsReduce (r : List Byte) : Bool := recOp r == 1 || recOp r == 2
def recExact (r : List Byte) : Bool := recIsReduce r && recRed r == 0 && !recFast r
/-- Effective anchor (R433, R436). -/
def recAnchor (g : Group) (r : List Byte) : Int := if bit (recMode r) 3 then signed 16 (recField r 32 2) else g.anchor

/-- Formats that an operation allows (R435, R442). -/
def recFormatsOk (r : List Byte) : Bool :=
  match Fmt.ofCode (recField r 2 1), Fmt.ofCode (recField r 3 1) with
  | some i, some o =>
    if recIsReduce r then
      if i = .i32 then o == .i32 && !(recFast r && recRed r == 0)
      else (i == .fp32 || i == .bf16) && (o == .fp32 || o == .bf16) && (!(recFast r && recRed r == 0) || i == o)
    else !i.narrow && i == o
  | _, _ => false

/-- BAD_RECORD: a reserved value, a format or anchor not allowed, an unknown member (R440, R458). -/
def badRecord (g : Group) (member : Nat) (r : List Byte) : Bool :=
  let op := recOp r
  op == 0 || 7 < op || recRed r == 3 || field (recMode r) 7 4 != 0 || !recFormatsOk r
    || (if op = 4 ∨ recIsPair r then decide (g.n ≤ recPeer r) else recPeer r != 0)
    || field (recField r 6 1) 7 4 != 0 || recField r 7 1 != 0 || recField r 34 6 != 0 || recField r 48 16 != 0
    || decide (recAnchor g r < -120) || decide (111 < recAnchor g r) || decide (g.n ≤ member)

/-- Bytes of one wire element: 8 in exact mode, else the IFMT element (R445, R453). -/
def wireBytes (r : List Byte) : Nat := if recExact r then 8 else (recIfmt r).bits / 8
def wireFmt (r : List Byte) : Nat := if recExact r then 8 else recField r 2 1
def inBytes (r : List Byte) : Nat := (recIfmt r).bits / 8
def outBytes (r : List Byte) : Nat := (recOfmt r).bits / 8
/-- Wire elements of a whole chunk, and chunks of `n` elements; none still makes one empty chunk. -/
def perChunk (r : List Byte) : Nat := 65536 / wireBytes r
def chunksOf (r : List Byte) : Nat := max 1 (ceilDiv (recCount r) (perChunk r))
/-- Elements [first, end) of chunk `c`. -/
def chunkRange (r : List Byte) (c : Nat) : Nat × Nat := (c * perChunk r, min ((c + 1) * perChunk r) (recCount r))

/-- DIGEST (R445). SEND and RECV meet in the form of the SEND record. -/
def recDigest (g : Group) (member : Nat) (r : List Byte) : Nat :=
  let b := if recOp r = 7 then [BitVec.ofNat 8 6] ++ (r.drop 1).take 3 ++ leBytes member 2 else r.take 6
  crc32c (b ++ (r.drop 24).take 8 ++ leBytes ((recAnchor g r) % 65536).toNat 2)

/-! Exact mode (R438–R440) -/

def wireMark : Nat := 2 ^ 63

/-- One element onto the wire: N, flags, saturations, sheds. -/
def toWire (a : Int) (f : Fmt) (c : Nat) : Nat × Fl × Nat × Nat :=
  if f = .i32 then ((signed 32 c % (2 ^ 64 : Nat)).toNat, flNone, 0, 0)
  else match f.elemVal c with
  | .fin q =>
    let big := decide (pow2 (a + 1) ≤ ratAbs q)
    let lim := pow2 (a + 1) - pow2 (a - 47)
    let x := if big then (if q < 0 then -lim else lim) else q
    let n := truncInt (x * pow2 (47 - a))
    let shed := !big && decide ((n : Rat) ≠ x * pow2 (47 - a))
    ((n % (2 ^ 64 : Nat)).toNat, (if big then flSaturate else flNone) ||| (if shed then flShed else flNone),
      b2n big, b2n shed)
  | _ => (wireMark, flInvalid, 0, 0)

def wireAdd (x y : Nat) : Nat := if x = wireMark ∨ y = wireMark then wireMark else (x + y) % 2 ^ 64

/-- One result element (R440). -/
def ofWire (a : Int) (f : Fmt) (n : Nat) : Nat × Fl :=
  if n = wireMark then
    (if f = .i32 then (2 ^ 31, flInvalid) else Fmt.convWide .fp32 f .nan)
  else
    let x := signed 64 n
    if f = .i32 then
      let y := clampInt (-(2 ^ 31)) (2 ^ 31 - 1) x
      ((y % (2 ^ 32 : Nat)).toNat, if y = x then flNone else flSaturate)
    else Fmt.convWide .fp32 f (.fin ((x : Rat) * pow2 (a - 47)))

/-! Fast mode and extremes (R441, R442) -/

/-- Sum of two codes of FP32 or BF16, rounded to nearest even in that format; a zero is +0 (R126). -/
def fastAdd (f : Fmt) (x y : Nat) : Nat × Fl :=
  let r := if f = .bf16 then Fmt.convWide .fp32 .bf16 ((bf16Val x).add (bf16Val y)) else fAdd x y
  if (f.elemVal r.1).isZero then (0, r.2) else r

/-- The larger (`up`) or smaller of two codes by value; NaN absorbs. Of codes that compare equal, and of NaNs, the one of the
higher rank stays, which the spec leaves open. -/
def extreme (up : Bool) (f : Fmt) (x y : Nat) : Nat :=
  let a := f.elemVal x
  let b := f.elemVal y
  let rank (c : Nat) : Nat := Config.mortarRank (if up then 1 else 2) f.bits c
  let pick := if rank x < rank y ∨ (rank x = rank y ∧ x < y) then y else x
  if a.isNan && b.isNan then pick
  else if a.isNan then x
  else if b.isNan then y
  else if a.lt b then (if up then y else x)
  else if b.lt a then (if up then x else y)
  else pick

/-- Combine two wire elements of a reduction; the flag is a fast-mode add's OVERFLOW. -/
def wireCombine (r : List Byte) (x y : Nat) : Nat × Bool :=
  if recExact r then (wireAdd x y, false)
  else if recRed r = 0 then
    let z := fastAdd (recIfmt r) x y
    (z.1, (z.2 &&& flOverflow) != 0)
  else (extreme (decide (recRed r = 1)) (recIfmt r) x y, false)

/-- A wire element as a result element, with the flags of the receiving member of `n` (R440, R441, R443). -/
def wireResult (n : Nat) (a : Int) (r : List Byte) (x : Nat) : Nat × Fl :=
  if recExact r then ofWire a (recOfmt r) x
  else
    let v := (recIfmt r).elemVal x
    let nan := if v.isNan ∧ 1 < n ∧ recRed r = 0 then flInvalid else flNone
    if recIfmt r = recOfmt r then (x, nan)
    else
      let z := Fmt.convWide (recIfmt r) (recOfmt r) v
      (z.1, z.2 ||| nan)

/-- `w`-byte elements of a byte list. -/
def splitElems (w : Nat) : Nat → List Byte → List Nat
  | 0, _ => []
  | n + 1, bs => leNat (bs.take w) :: splitElems w n (bs.drop w)

def joinElems (w : Nat) (xs : List Nat) : List Byte := (xs.map fun x => leBytes x w).flatten

/-! Memory, faults and statuses of a context (R448) -/

/-- The run that a context serves: the running one or one that waits. -/
def ctxRun (s : State) (c : Nat) : Option Run :=
  (s.stile.cur.toList ++ s.stile.runs).find? fun r => r.client == (s.ctx c).client && r.seqNo == (s.ctx c).runSeq

/-- The agent of a context: the objects of its run, or none for host records. -/
def ctxAgent (s : State) (c : Nat) : Agent :=
  let x := s.ctx c
  { client := x.client
    objs := if x.host then none else some (((ctxRun s c).map fun r => r.manifest.objects).getD [])
    mortar := true, engine := .mortar c }

/-- A granule access of a context's piece of work: one that the piece made before it was paused is not made again. -/
def ctxGranule (c : Nat) (f : State → Acc) (s : State) : Acc :=
  let add (bs : List Byte) (s : State) : State := s.setCtx c fun x => { x with log := x.log ++ [bs] }
  match (s.ctx c).replay with
  | b :: t => .ok b (add b (s.setCtx c fun x => { x with replay := t }))
  | [] => match f s with
    | .ok bs s' => .ok bs (add bs s')
    | e => e

def ctxRead (c va len : Nat) (s : State) : Res (List Byte) :=
  (Res.mapM (fun (g : Nat × Nat) s => (ctxGranule c (fun s => readGranule s (ctxAgent s c) .read g.1 g.2) s).toRes g.1 .read)
    (granules va len) s).bind fun l s => .ok l.flatten s

def ctxWrite (c va : Nat) (bs : List Byte) (s : State) : Res Unit :=
  (Res.mapM (fun (g : Nat × Nat) s =>
    (ctxGranule c (fun s => writeGranule s (ctxAgent s c) .write g.1 ((bs.drop (g.1 - va)).take g.2)) s).toRes g.1 .write)
    (granules va bs.length) s).bind fun _ s => .ok () s

/-- A piece of a context's work: 0 a received chunk, 1 a task within the module, 2 one for another module; its source,
destination and chunk. -/
def workKey (kind src dst ch : Nat) : Nat := kind + 3 * (src + 65536 * (dst + 65536 * ch))

/-! Chunks (R445, R446) -/

/-- A chunk header with its CRC. -/
def chunkHeader (type op mode wfmt gid epoch seq chunk src dst anchor credits digest : Nat) (payload : List Byte) :
    List Byte :=
  let b := leBytes type 1 ++ leBytes op 1 ++ leBytes mode 1 ++ leBytes wfmt 1 ++ leBytes gid 4 ++ leBytes epoch 4
    ++ leBytes seq 4 ++ leBytes chunk 4 ++ leBytes src 2 ++ leBytes dst 2 ++ leBytes anchor 2 ++ leBytes credits 2
    ++ leBytes payload.length 4 ++ leBytes digest 4
  b ++ leBytes (crc32c (b ++ payload)) 4 ++ leBytes 0 216

def chType (h : List Byte) : Nat := recField h 0 1
def chGid (h : List Byte) : Nat := recField h 4 4
def chEpoch (h : List Byte) : Nat := recField h 8 4
def chSeq (h : List Byte) : Nat := recField h 12 4
def chChunk (h : List Byte) : Nat := recField h 16 4
def chSrc (h : List Byte) : Nat := recField h 20 2
def chDst (h : List Byte) : Nat := recField h 22 2
def chCredits (h : List Byte) : Nat := recField h 26 2
def chDigest (h : List Byte) : Nat := recField h 32 4
def chCrcOk (h payload : List Byte) : Bool := decide (crc32c (h.take 36 ++ payload) = recField h 36 4)
/-- What names a chunk within a group: sequence, source, destination, index. -/
def chKey (h : List Byte) : Nat × Nat × Nat := (chSrc h, chDst h, chChunk h)

/-- A control message that answers chunk `h`: the same identification, another TYPE and CREDITS. -/
def answerHeader (h : List Byte) (type credits epoch : Nat) : List Byte :=
  chunkHeader type (recField h 1 1) (recField h 2 1) (recField h 3 1) (chGid h) epoch (chSeq h) (chChunk h) (chSrc h)
    (chDst h) (recField h 24 2) credits (chDigest h) []

/-- Send a control message. -/
def sendControl (module : Nat) (h : List Byte) (s : State) : State := golgerSend module 0 h s

/-- NOTICE of a group's epoch to every other module of it (R449). -/
def sendNotices (g : Group) (epoch : Nat) (s : State) : State :=
  let me := s.golger.moduleId
  (g.mods.filter (· ≠ me)).foldl (fun s m =>
    sendControl m (chunkHeader 4 0 0 0 g.gid epoch 0 0 (g.firstOf me) (g.firstOf m) 0 0 0 []) s) s

/-! Epochs and failures (R449, R451) -/

/-- Staged chunks of the group's earlier epochs are discarded (R449). -/
def dropStale (gid epoch : Nat) (s : State) : State :=
  match (s.group gid).bind (·.ctx) with
  | none => s
  | some c => s.setCtx c fun x =>
      { x with recvs := x.recvs.filter fun r => decide (chGid r.header ≠ gid) || decide (epoch ≤ chEpoch r.header) }

/-- The group stands at `epoch`, its numbers starting again at 0. -/
def setEpoch (gid epoch : Nat) (s : State) : State :=
  let s1 := (dropStale gid epoch s).setGroup gid fun g => { g with epoch := epoch, seq := 0, pairSeq := [] }
  { s1 with mortar := { s1.mortar with epochCnt := satAdd s1.mortar.epochCnt 1 } }

/-- Drop the current collective of a context: its records end with a fate, its staging is released. -/
def dropColl (c : Nat) (fate : Fate) (s : State) : State :=
  match (s.ctx c).cur with
  | none => s
  | some k =>
    let s1 := s.setCtx c fun x =>
      { x with cur := none, sends := [], credits := [], paused := none, kept := [], failCnt := satAdd x.failCnt 1
               recvs := x.recvs.filter fun r => decide (chGid r.header ≠ k.gid) || decide (fate.epoch ≤ chEpoch r.header)
               ending := x.ending ++ k.recs.map fun r => (r, fate) }
    { s1 with mortar := { s1.mortar with
        lastFail := BitVec.ofNat 64 (k.gid * 2 ^ 32 + fate.cause % 65536 * 65536 + fate.status % 65536) } }

/-- The current collective of a context fails here: the epoch advances by one and is made known. -/
def failColl (c status cause chunk src : Nat) (s : State) : State :=
  match (s.ctx c).cur with
  | none => s
  | some k =>
    match s.group k.gid with
    | none => dropColl c ⟨status, cause, chunk, src, 0⟩ s
    | some g =>
      let e := g.epoch + 1
      sendNotices g e (setEpoch k.gid e (dropColl c ⟨status, cause, chunk, src, e⟩ s))

def noChunk : Nat := 0xFFFFFFFF

/-- A NOTICE or DATA chunk brings a higher epoch: it is adopted, and the current collective of the
group fails with EPOCH_CHANGED, at once unless the context is frozen (R449, R450). -/
def adoptEpoch (gid epoch : Nat) (s : State) : State :=
  match s.group gid with
  | none => s
  | some g =>
    if epoch ≤ g.epoch then s
    else
      let s1 := setEpoch gid epoch s
      match g.ctx with
      | none => s1
      | some c =>
        if (s1.ctx c).phase = .frozen then s1
        else if ((s1.ctx c).cur.map (·.gid)) = some gid then dropColl c ⟨0x0402, 0, noChunk, 0, epoch⟩ s1
        else s1

/-- Faults counted for the descriptors of host records (R405). -/
def countHostFault (recs : List PostRec) (s : State) : State :=
  recs.foldl (fun s r => match r.poster with
    | .host c q d _ _ => s.setQ c q fun x => { x with descs := x.descs.map fun e => if e.id = d then { e with faults := e.faults + 1 } else e }
    | .sett _ _ _ => s) s

/-- The run that a context serves. -/
def Ctx.serves (x : Ctx) (r : Run) : Bool := !x.host && r.client == x.client && r.seqNo == x.runSeq

/-- A fault of a context counts for its run, wherever that is, or for the host records at hand (R405). -/
def countCtxFault (x : Ctx) (recs : List PostRec) (s : State) : State :=
  if x.host then countHostFault recs s
  else
    let add (r : Run) : Run := if x.serves r then { r with faults := r.faults + 1 } else r
    { s with stile := { s.stile with cur := s.stile.cur.map add, runs := s.stile.runs.map add } }

/-- A fatal class ends the run that a context serves: at once on the array, else when it resumes. -/
def doomRun (c status : Nat) (s : State) : State :=
  if s.stile.cur.any (s.ctx c).serves then { s with mortar := { s.mortar with doom := some status } }
  else s.setCtx c fun x => { x with doom := some status }

/-- A fault of a context's transfer, for the records at hand: it pauses, or a fatal class ends the run (host: the collective). -/
def mortarFault (c cls va : Nat) (kind : AccKind) (chunk src : Nat) (recs : List PostRec) (s : State) : State :=
  let x := s.ctx c
  let id := faultId s x.client va cls (.mortar c)
  let s0 := if (sameFault s x.client va cls (.mortar c)).isSome then s else countCtxFault x recs s
  let s1 := postFault s0 x.client va cls kind (if x.host then 0 else x.runSeq) (4096 + c) (.mortar c)
  if !fatalClass cls then s1.setCtx c fun x => { x with paused := some id, pausedAt := (chunk, src) }
  else if x.host then failColl c 0x0403 (classStatus cls) chunk src s1
  else doomRun c (classStatus cls) s1

/-- Do the piece of work `key` from the granule at which it stopped, and go on with its result, or pause or fail the
collective. -/
def ctxGo {α : Type} (c key chunk src : Nat) (f : State → Res α) (k : α → State → State) (s : State) : State :=
  let clear (s : State) : State := s.setCtx c fun x => { x with kept := SMap.set [] x.kept key [], log := [], replay := [] }
  match f (s.setCtx c fun x => { x with replay := x.kept.get [] key, log := [] }) with
  | .ok a s => k a (clear s)
  | .fault cls va kind s =>
    mortarFault c cls va kind chunk src (((s.ctx c).cur.map (·.recs)).getD []) (s.setCtx c fun x => { x with kept := SMap.set [] x.kept key x.log, log := [], replay := [] })
  | .bad st s => failColl c 0x0403 st chunk src (clear s)

/-! Completion of records (R443, R444, R454) -/

/-- The status word. -/
def statusWord (r : PostRec) (f : Fate) : List Byte :=
  let fl := r.flags.toNat
  leBytes f.status 2 ++ leBytes f.cause 2
    ++ leBytes (b2n (bit fl 3) + 2 * b2n (bit fl 4) + 4 * b2n (bit fl 2) + 8 * b2n (bit fl 1)) 1 ++ leBytes 0 3
    ++ leBytes f.chunk 4 ++ leBytes f.src 2 ++ leBytes (f.epoch % 65536) 2

/-- Change a sett of a run by its logical index: on the array, or as the run's save holds it. -/
def State.setRunSett (s : State) (client run l : Nat) (f : Sett → Sett) : State :=
  let mine (r : Run) : Bool := r.client == client && r.seqNo == run
  match s.stile.cur.filter mine with
  | some r => match r.placement.find? fun e => e.1 == l with
    | some e => s.setSett e.2 f
    | none => s
  | none =>
    let save (v : Saved) : Saved := { v with setts := v.setts.map fun e => if e.1 = l then (l, f e.2) else e }
    { s with stile := { s.stile with runs := s.stile.runs.map fun r => if mine r then { r with saved := r.saved.map save } else r } }

/-- What a record's poster sees at its end: flags and counts, then the event counter or the host's record. -/
def notifyPoster (r : PostRec) (f : Fate) (s : State) : State :=
  match r.poster with
  | .sett c k l => s.setRunSett c k l fun t =>
      ({ (t.flag r.flags) with shedCnt := satAdd t.shedCnt r.sheds, satCnt := satAdd t.satCnt r.sats }).bumpE
        (BitVec.ofNat 4 (recCevt r.bytes))
  | .host c q d irq tag =>
    let n := ((((s.cl c).q q).descs.find? fun e => e.id == d).map (·.faults)).getD 0
    postComp s c q (some d) irq { tag := tag.toNat, status := f.status, type := 4, faults := n }

/-- Write the status word and tell the poster; none when the write faults. -/
def endRecord (c : Nat) (r : PostRec) (f : Fate) (s : State) : Res Unit :=
  (if recStatusVa r.bytes = 0 then .ok () s else ctxWrite c (recStatusVa r.bytes) (statusWord r f) s).bind
    fun _ s => .ok () (notifyPoster r f s)

/-- End the waiting records in order, as far as no write faults; an unreadable place for a status word
loses the word and nothing else. -/
def endRecords (c : Nat) : Nat → State → State
  | 0, s => s
  | n + 1, s =>
    let x := s.ctx c
    if x.phase = .frozen ∨ x.paused.isSome then s
    else match x.ending with
      | [] => s
      | (r, f) :: rest =>
        match endRecord c r f s with
        | .ok _ s1 => endRecords c n (s1.setCtx c fun x => { x with ending := rest, log := [] })
        | .bad _ s1 => endRecords c n ((notifyPoster r f s1).setCtx c fun x => { x with ending := rest })
        | .fault cls va kind s1 =>
          let s2 := mortarFault c cls va kind noChunk 0 [r] s1
          if fatalClass cls then endRecords c n ((notifyPoster r f s2).setCtx c fun x => { x with ending := rest })
          else s2

/-! Sources, results and plans of a collective (R435, R452) -/

/-- The group and record of a context's collective. -/
def collGroup (s : State) (k : Coll) : Group :=
  (s.group k.gid).getD { gid := k.gid, host := false, lgroup := 0, client := 0, runSeq := 0, ctx := none, stageVa := 0
                         entries := [], anchor := 0, timeout := 0, epoch := 0, seq := 0, pairSeq := [] }
def Coll.head (k : Coll) : List Byte := (k.recs.map (·.bytes)).headD []
/-- A collective whose COUNT is 0 is a barrier, passed along the reduction chain. -/
def Coll.chain (k : Coll) : Bool := recIsReduce k.head || (!k.pair && decide (recCount k.head = 0))

/-- Wire elements [lo, hi) of a member's source, with what the conversions counted. -/
def readSource (c : Nat) (g : Group) (r : PostRec) (lo hi : Nat) (s : State) : Res (List Nat × PostRec) :=
  let w := inBytes r.bytes
  (ctxRead c (recSrc r.bytes + lo * w) ((hi - lo) * w) s).bind fun bs s =>
    let xs := splitElems w (hi - lo) bs
    if recExact r.bytes then
      let ys := xs.map (toWire (recAnchor g r.bytes) (recIfmt r.bytes))
      .ok (ys.map (·.1), { r with flags := ys.foldl (fun f y => f ||| y.2.1) r.flags
                                  sats := r.sats + (ys.map (·.2.2.1)).foldl (· + ·) 0
                                  sheds := r.sheds + (ys.map (·.2.2.2)).foldl (· + ·) 0 }) s
    else .ok (xs, r) s

/-- Combine lists of wire elements that start at element `lo`; also the elements that overflowed. -/
def combineLists (r : List Byte) (lo : Nat) (xs ys : List Nat) : List Nat × List Nat :=
  let z := (xs.zip ys).map fun p => wireCombine r p.1 p.2
  (z.map (·.1), ((List.range z.length).filter fun i => ((z.map (·.2)).getD i false)).map (lo + ·))

/-- The local members' elements of a chunk added to `acc` in member order (none: nothing yet). -/
def sumLocals (c : Nat) (g : Group) (lo hi : Nat) :
    List PostRec → Option (List Nat) → List Nat → List PostRec → State → Res (List Nat × List Nat × List PostRec)
  | [], acc, ov, out, s => .ok (acc.getD [], ov, out) s
  | r :: t, acc, ov, out, s =>
    (readSource c g r lo hi s).bind fun p s =>
      match acc with
      | none => sumLocals c g lo hi t (some p.1) ov (out ++ [p.2]) s
      | some a =>
        let z := combineLists r.bytes lo a p.1
        sumLocals c g lo hi t (some z.1) (ov ++ z.2) (out ++ [p.2]) s

/-- Elements of a reduction that a member receives: all, or its slice. -/
def memberRange (g : Group) (r : PostRec) : Nat × Nat :=
  if recOp r.bytes = 2 then
    let cc := ceilDiv (recCount r.bytes) g.n
    (min (r.member * cc) (recCount r.bytes), min ((r.member + 1) * cc) (recCount r.bytes))
  else (0, recCount r.bytes)

/-- A result element of a reduction at a module: its OFMT code, the flags known to be set for it, and where the module cannot
know all of them the sets of which one is (R443). -/
structure RedElem where
  code : Nat
  flags : Fl
  alts : List Fl
  deriving DecidableEq, Repr

/-- Is OVERFLOW of a fast-mode element unknown here: not finite, and other modules added too? -/
def overOpen (g : Group) (r : List Byte) (x : Nat) : Bool :=
  recIsReduce r && recRed r == 0 && recFast r && decide (1 < g.mods.length) && !((recIfmt r).elemVal x).isFin

/-- A wire element converted at the chain's last module. -/
def wireElem (g : Group) (r : List Byte) (x : Nat) : RedElem :=
  let y := wireResult g.n (recAnchor g r) r x
  ⟨y.1, y.2, if overOpen g r x then [flNone, flOverflow] else []⟩

/-- A converted element at the modules before it: of what the conversion set, it shows a NaN and an infinity, but not whether an
I32 at its limit was clamped. DESIGN CHOICE: what the element does not show is free, since the chunk carries no flags (R445). -/
def backElem (g : Group) (r : List Byte) (c : Nat) : RedElem :=
  let v := (recOfmt r).elemVal c
  let nan := if v.isNan then flInvalid else flNone
  let inf := !v.isFin && !v.isNan
  if recExact r then
    if recOfmt r = .i32 then
      ⟨c, flNone, if c = 2 ^ 31 then [flNone, flInvalid, flSaturate] else if c = 2 ^ 31 - 1 then [flNone, flSaturate] else []⟩
    else ⟨c, if inf then flOverflow else nan, []⟩
  else if recRed r = 0 then ⟨c, if 1 < g.n then nan else flNone, if overOpen g r c then [flNone, flOverflow] else []⟩
  else if recIfmt r = recOfmt r then ⟨c, flNone, []⟩
  else ⟨c, nan, if inf && recOfmt r == .bf16 then [flNone, flOverflow] else []⟩

/-- Codes and flags of elements, what is open drawn once for each element, whichever members receive it. -/
def settleElems : List RedElem → State → List (Nat × Fl) × State
  | [], s => ([], s)
  | z :: t, s =>
    if z.alts.isEmpty then
      let q := settleElems t s
      ((z.code, z.flags) :: q.1, q.2)
    else
      let w := (Config.freeWord s.fresh).toNat
      let q := settleElems t { s with fresh := s.fresh + 1 }
      ((z.code, z.flags ||| z.alts.getD (w % z.alts.length) flNone) :: q.1, q.2)

/-- An element of which an add at this module is known to have overflowed. -/
def RedElem.over (z : RedElem) : RedElem := ⟨z.code, z.flags ||| flOverflow, []⟩

/-- Write the result elements that start at element `lo` to a member's DST, with its flags (R440, R443). -/
def writeResult (c : Nat) (g : Group) (lo : Nat) (ys : List (Nat × Fl)) (r : PostRec) (s : State) : Res PostRec :=
  let rg := memberRange g r
  let a := max lo rg.1
  let b := min (lo + ys.length) rg.2
  let mine := (ys.drop (a - lo)).take (b - a)
  (ctxWrite c (recDst r.bytes + (a - rg.1) * outBytes r.bytes) (joinElems (outBytes r.bytes) (mine.map (·.1))) s).bind
    fun _ s => .ok { r with flags := mine.foldl (fun f y => f ||| y.2) r.flags } s

/-- Elements of chunk `ch` that the members of module `m` and of those before it receive on the way back. -/
def backCount (g : Group) (r : List Byte) (m ch : Nat) : Nat :=
  let rg := chunkRange r ch
  if recOp r = 2 then min (rg.2 - rg.1) ((g.lastOf m + 1) * ceilDiv (recCount r) g.n - rg.1) else rg.2 - rg.1

/-- Does the way back carry chunk `ch` to module `m`? -/
def backNeeded (g : Group) (r : List Byte) (m ch : Nat) : Bool :=
  decide (recCount r = 0) || decide (0 < backCount g r m ch)

def Coll.setRecs (k : Coll) (rs : List PostRec) : Coll := { k with recs := rs }

/-- Replace a record of a list by its successor (same member and poster). -/
def putRec (rs : List PostRec) (r : PostRec) : List PostRec :=
  rs.map fun x => if x.member = r.member ∧ recOp x.bytes = recOp r.bytes then r else x

def State.setColl (s : State) (c : Nat) (f : Coll → Coll) : State :=
  s.setCtx c fun x => { x with cur := x.cur.map f }

/-- A finished reduction chunk: results for the local members, and the converted chunk on to the module before (R452). -/
def giveResults (c : Nat) (g : Group) (k : Coll) (ch : Nat) (zs : List RedElem) (rs : List PostRec) (overs : List Nat)
    (s : State) : Res (Coll → Coll) :=
  let me := s.golger.moduleId
  let p := g.place me
  let lo := (chunkRange k.head ch).1
  let q := settleElems ((List.range zs.length).map fun j =>
    let z := zs.getD j ⟨0, flNone, []⟩
    if overs.contains (lo + j) then z.over else z) s
  (Res.mapM (writeResult c g lo q.1) rs q.2).bind fun rs s =>
    let prev := g.mods.getD (p - 1) 0
    let outs := if p = 0 ∨ !backNeeded g k.head prev ch then []
      else [{ module := prev, src := g.firstOf me, dst := g.firstOf prev, chunk := ch
              payload := joinElems (outBytes k.head) ((q.1.map (·.1)).take (backCount g k.head prev ch)) : OutChunk }]
    .ok (fun k => { k with recs := rs, overs := overs, out := k.out ++ outs }) s

/-- The chain's last module converts the sums. -/
def deliverReduced (c : Nat) (g : Group) (k : Coll) (ch : Nat) (xs : List Nat) (rs : List PostRec) (overs : List Nat)
    (s : State) : Res (Coll → Coll) :=
  giveResults c g k ch (xs.map (wireElem g k.head)) rs overs s

/-- The converted chunk comes back. -/
def deliverBack (c : Nat) (g : Group) (k : Coll) (ch : Nat) (xs : List Nat) (s : State) : Res (Coll → Coll) :=
  giveResults c g k ch (xs.map (backElem g k.head)) k.recs k.overs s

/-- The module's own part of a reduction chunk joined to what came along the chain (none at its start). -/
def joinChain (c : Nat) (g : Group) (k : Coll) (ch : Nat) (acc : Option (List Nat)) (s : State) :
    Res (List Nat × List Nat × List PostRec) :=
  let rg := chunkRange k.head ch
  if recCount k.head = 0 then .ok ([], k.overs, k.recs) s
  else sumLocals c g rg.1 rg.2 k.recs acc k.overs [] s

/-- Consume an up-going chunk of a reduction. -/
def consumeUp (c : Nat) (g : Group) (k : Coll) (ch : Nat) (xs : List Nat) (s : State) : Res (Coll → Coll) :=
  let me := s.golger.moduleId
  let p := g.place me
  (joinChain c g k ch (some xs) s).bind fun z s =>
    if p + 1 < g.mods.length then
      let next := g.mods.getD (p + 1) 0
      .ok (fun k => { k with recs := z.2.2, overs := z.2.1
                             out := k.out ++ [{ module := next, src := g.firstOf me, dst := g.firstOf next, chunk := ch
                                                payload := joinElems (wireBytes k.head) z.1 }] }) s
    else deliverReduced c g k ch z.1 z.2.2 z.2.1 s

/-- Bytes [off, off + len) of a member's source, or its destination, in a copying operation. -/
def copyIn (c : Nat) (r : PostRec) (off len : Nat) (s : State) : Res (List Byte) :=
  ctxRead c (recSrc r.bytes + off) len s
def copyOut (c : Nat) (r : PostRec) (off : Nat) (bs : List Byte) (s : State) : Res Unit :=
  ctxWrite c (recDst r.bytes + off) bs s

/-- Byte size of one block: COUNT elements. -/
def blockLen (r : List Byte) : Nat := recCount r * inBytes r
def chunkLen (r : List Byte) (ch : Nat) : Nat := min 65536 (blockLen r - ch * 65536)
/-- Place of chunk `ch` for `dst` in `src`'s source, and of chunk `ch` from `src` in `dst`'s destination. -/
def srcOff (r : List Byte) (dst ch : Nat) : Nat := (if recOp r = 5 then dst * blockLen r else 0) + ch * 65536
def dstOff (r : List Byte) (src ch : Nat) : Nat :=
  (if recOp r = 3 ∨ recOp r = 5 then src * blockLen r else 0) + ch * 65536
def blockChunks (r : List Byte) : Nat := max 1 (ceilDiv (blockLen r) 65536)

/-- Local members that receive a block: all of them, or the one it is for. -/
def receivers (k : Coll) (dst : Nat) : List PostRec :=
  if recOp k.head = 3 ∨ recOp k.head = 4 then k.recs
  else k.recs.filter fun r => decide (r.member = dst) && decide (recOp r.bytes ≠ 6)

def writeBlocks (c : Nat) (k : Coll) (src dst ch : Nat) (bs : List Byte) (s : State) : Res Unit :=
  (Res.mapM (fun r s => copyOut c r (dstOff r.bytes src ch) bs s) (receivers k dst) s).bind fun _ s => .ok () s

def sourceRec (k : Coll) (src : Nat) : Option PostRec :=
  k.recs.find? fun r => decide (r.member = src) && decide (recOp r.bytes ≠ 7)

/-- Bytes that a send task forms from local sources. -/
def formChunk (c : Nat) (g : Group) (k : Coll) (src dst ch : Nat) (s : State) : Res (List Byte × (Coll → Coll)) :=
  if k.chain then
    (joinChain c g k ch none s).bind fun z s =>
      .ok (joinElems (wireBytes k.head) z.1, fun k => { k with recs := z.2.2, overs := z.2.1 }) s
  else match sourceRec k src with
    | none => .ok ([], id) s
    | some r => (copyIn c r (srcOff r.bytes dst ch) (chunkLen r.bytes ch) s).bind fun bs s => .ok (bs, id) s

/-- A task within the module. -/
def hereTask (c : Nat) (g : Group) (k : Coll) (src dst ch : Nat) (s : State) : Res (Coll → Coll) :=
  if k.chain then (joinChain c g k ch none s).bind fun z s => deliverReduced c g k ch z.1 z.2.2 z.2.1 s
  else match sourceRec k src with
    | none => .ok id s
    | some r =>
      (copyIn c r (srcOff r.bytes dst ch) (chunkLen r.bytes ch) s).bind fun bs s =>
        (writeBlocks c k src dst ch bs s).bind fun _ s => .ok id s

/-- Consume a DATA chunk: what it changes in the collective. -/
def consumeChunk (c : Nat) (g : Group) (k : Coll) (key : Nat × Nat × Nat) (payload : List Byte) (s : State) :
    Res (Coll → Coll) :=
  let me := s.golger.moduleId
  let p := g.place me
  if k.chain then
    let elems (w : Nat) : List Nat := splitElems w (payload.length / w) payload
    if key.1 < key.2.1 then consumeUp c g k key.2.2 (elems (wireBytes k.head)) s
    else deliverBack c g k key.2.2 (elems (outBytes k.head)) s
  else
    (writeBlocks c k key.1 key.2.1 key.2.2 payload s).bind fun _ s =>
      let on := if recOp k.head = 3 ∨ recOp k.head = 4 then
          let from' := g.place (g.modOf key.1)
          let next := if from' < p then p + 1 else p - 1
          if (from' < p ∧ p + 1 < g.mods.length) ∨ (p < from' ∧ 0 < p) then [g.mods.getD next 0] else []
        else []
      .ok (fun k => { k with out := k.out ++ on.map fun m =>
        { module := m, src := key.1, dst := g.firstOf m, chunk := key.2.2, payload := payload } }) s

/-- Sources of a copying collective that all modules pass on: every member, or the root. -/
def passed (g : Group) (r : List Byte) : List Nat := if recOp r = 4 then [recPeer r] else List.range g.n

/-- Tasks and expected chunks of a collective at this module. -/
def planOf (me : Nat) (g : Group) (k : Coll) : List Task × List (Nat × Nat × Nat) :=
  let p := g.place me
  let np := g.mods.length
  let r := k.head
  let first := g.firstOf me
  let modAt (q : Nat) : Nat := g.mods.getD q 0
  if k.chain then
    let cs := List.range (if recCount r = 0 then 1 else chunksOf r)
    if np ≤ 1 then (cs.map fun ch => .here 0 0 ch, [])
    else
      (if p = 0 then cs.map fun ch => .send (modAt 1) first (g.firstOf (modAt 1)) ch else [],
       (if 0 < p then cs.map fun ch => (g.firstOf (modAt (p - 1)), first, ch) else [])
         ++ (if p + 1 < np then (cs.filter fun ch => backNeeded g r me ch).map fun ch =>
              (g.firstOf (modAt (p + 1)), first, ch) else []))
  else
    let cs := List.range (blockChunks r)
    let mine := g.of me
    if recOp r = 3 ∨ recOp r = 4 then
      let own := (passed g r).filter mine.contains
      let sides := (if p + 1 < np then [modAt (p + 1)] else []) ++ (if 0 < p then [modAt (p - 1)] else [])
      ((own.map fun i => (cs.map fun ch => [Task.here i i ch] ++ sides.map fun m => Task.send m i (g.firstOf m) ch).flatten).flatten,
       (((passed g r).filter fun i => !mine.contains i).map fun i => cs.map fun ch => (i, first, ch)).flatten)
    else if recOp r = 5 then
      ((mine.map fun i => ((List.range g.n).map fun j => cs.map fun ch =>
          if mine.contains j then Task.here i j ch else Task.send (g.modOf j) i j ch).flatten).flatten,
       (((List.range g.n).filter fun i => !mine.contains i).map fun i =>
          (mine.map fun j => cs.map fun ch => (i, j, ch)).flatten).flatten)
    else
      (k.recs.map fun q =>
        if recOp q.bytes = 6 then
          cs.map fun ch => if g.modOf (recPeer q.bytes) = me then Task.here q.member (recPeer q.bytes) ch
            else Task.send (g.modOf (recPeer q.bytes)) q.member (recPeer q.bytes) ch
        else []).flatten |> fun ts =>
      (ts, (k.recs.map fun q =>
        if recOp q.bytes = 7 ∧ g.modOf (recPeer q.bytes) ≠ me then cs.map fun ch => (recPeer q.bytes, q.member, ch)
        else []).flatten)

/-! The work of a context (R437, R446, R447) -/

/-- The earliest queued record that satisfies `p`, and the queue without it. -/
def takeFirst (p : PostRec → Bool) (q : List PostRec) : Option (PostRec × List PostRec) :=
  match q with
  | [] => none
  | r :: t => if p r then some (r, t) else
      match takeFirst p t with
      | some (x, rest) => some (x, r :: rest)
      | none => none

/-- Does a queued record join the current collective: a missing local member's next record, or the
partner of a local pair? -/
def joins (me : Nat) (g : Group) (k : Coll) (r : PostRec) : Bool :=
  decide (r.gid = k.gid) && decide (r.member < g.n) &&
    if k.pair then
      match k.recs with
      | [a] => recIsPair r.bytes && decide (recOp r.bytes ≠ recOp a.bytes) && decide (g.modOf (recPeer a.bytes) = me)
                 && decide (r.member = recPeer a.bytes) && decide (recPeer r.bytes = a.member)
      | _ => false
    else !recIsPair r.bytes && !(k.recs.any fun a => a.member == r.member)

/-- Every local record of the collective is here. -/
def Coll.full (k : Coll) (me : Nat) (g : Group) : Bool :=
  if k.pair then
    decide (2 ≤ k.recs.length) || decide (g.modOf (recPeer k.head) ≠ me)
  else (g.of me).all fun i => k.recs.any fun r => r.member == i

/-- Insert a record in member order. -/
def insertRec (r : PostRec) : List PostRec → List PostRec
  | [] => [r]
  | a :: t => if a.member ≤ r.member then a :: insertRec r t else r :: a :: t

def gatherGo (c me : Nat) (g : Group) : Nat → State → State
  | 0, s => s
  | n + 1, s =>
    let x := s.ctx c
    match x.cur with
    | none => s
    | some k =>
      if k.full me g then s
      else match takeFirst (joins me g k) x.queue with
        | none => s
        | some (r, rest) =>
          gatherGo c me g n (s.setCtx c fun x =>
            { x with queue := rest, cur := some { k with recs := insertRec r k.recs } })

/-- Records of one collective agree (R436). -/
def agree (g : Group) (rs : List PostRec) : Bool :=
  match rs with
  | [] => true
  | r :: t => t.all fun x => recDigest g x.member x.bytes == recDigest g r.member r.bytes

/-- Once every local record is here: bad ones end, disagreeing ones fail, else the plan is made. A bad record beside good ones
ends with the epoch that the collective's failure brings. -/
def launch (c : Nat) (g : Group) (k : Coll) (s : State) : State :=
  let e := g.epoch
  let bad := k.recs.filter fun r => badRecord g r.member r.bytes
  let s1 := s.setCtx c fun x => { x with ending := x.ending ++ bad.map fun r =>
    (r, ⟨0x0405, 0, noChunk, 0, if bad.length = k.recs.length then e else e + 1⟩) }
  if bad.length = k.recs.length then
    let s2 := s1.setCtx c fun x => { x with cur := none }
    if k.pair then s2 else s2.setGroup k.gid fun g => { g with seq := g.seq + 1 }
  else if !bad.isEmpty ∨ !agree g k.recs then
    failColl c 0x0407 0 noChunk 0 (s1.setColl c fun k => { k with recs := k.recs.filter fun r => !badRecord g r.member r.bytes })
  else
    let plan := planOf s.golger.moduleId g k
    s.setColl c fun k => { k with ready := true, tasks := plan.1, expect := plan.2 }

/-- The chunk's source is told that it is accepted; `n` credits go back (R446). -/
def sendAck (module : Nat) (h : List Byte) (n : Nat) (s : State) : State :=
  sendControl module (answerHeader h 2 n (chEpoch h)) s

/-- Does a message belong to a collective? -/
def Coll.owns (k : Coll) (h : List Byte) : Bool :=
  decide (chGid h = k.gid) && decide (chEpoch h = k.epoch) && decide (chSeq h = k.seq + (if k.pair then 2 ^ 31 else 0))

/-- A message for a context's collective comes or goes: the collective's timer restarts (R450). -/
def restartTimer (h : List Byte) (s : State) : State :=
  match (s.group (chGid h)).bind (·.ctx) with
  | some c => s.setCtx c fun x => { x with timer := if x.cur.any (·.owns h) then 0 else x.timer }
  | none => s

/-- A staged chunk of the collective, if one can be consumed. -/
def nextStaged (x : Ctx) (k : Coll) : Option RecvSlot :=
  x.recvs.find? fun r => k.owns r.header && k.expect.contains (chKey r.header)

/-- Is a chunk of the collective staged whose DIGEST is another (R447)? -/
def mismatched (x : Ctx) (k : Coll) (digest : Nat) : Bool :=
  x.recvs.any fun r => k.owns r.header && decide (chDigest r.header ≠ digest)

def isHere : Task → Bool
  | .here _ _ _ => true
  | .send _ _ _ _ => false

/-- One piece of work of a context; none when there is nothing to do. -/
def workOnce (c : Nat) (s : State) : Option State :=
  let x := s.ctx c
  if x.phase ≠ .bound ∨ x.paused.isSome then none
  else match x.cur with
    | none => none
    | some k =>
      match s.group k.gid with
      | none => none
      | some g =>
        if k.epoch < g.epoch then some (dropColl c ⟨0x0402, 0, noChunk, 0, g.epoch⟩ s)
        else if !k.ready then
          let s1 := gatherGo c s.golger.moduleId g 64 s
          match (s1.ctx c).cur with
          | none => none
          | some k1 => if k1.full s.golger.moduleId g then some (launch c g k1 s1) else if k1 = k then none else some s1
        else if mismatched x k (recDigest g ((k.recs.map (·.member)).headD 0) k.head) then some (failColl c 0x0407 0 noChunk 0 s)
        else match nextStaged x k with
          | some r =>
            let key := chKey r.header
            some (ctxGo c (workKey 0 key.1 key.2.1 key.2.2) key.2.2 key.1 (consumeChunk c g k key r.payload) (fun f s =>
              sendAck r.module r.header 1 ((s.setColl c fun k =>
                { (f k) with expect := k.expect.filter (· ≠ key), got := k.got ++ [key] }).setCtx c fun x =>
                  { x with recvs := x.recvs.filter (· ≠ r), timer := 0 })) s)
          | none =>
            match k.tasks.find? isHere with
            | some (.here src dst ch) =>
              some (ctxGo c (workKey 1 src dst ch) ch src (hereTask c g k src dst ch) (fun f s =>
                s.setColl c fun k => { (f k) with tasks := k.tasks.filter (· ≠ .here src dst ch) }) s)
            | _ => none

/-- Lost messages of Golger: the kept copy is sent again once, a second loss fails the collective. -/
def resendSlot (c slot cause : Nat) (s : State) : State :=
  match (s.ctx c).sends.get none slot with
  | none => s
  | some k =>
    if k.resent then failColl c 0x0403 cause (chChunk k.header) (chSrc k.header) s
    else
      golgerSend k.module (1 + 16 * c + slot) (k.header ++ k.payload) (s.setCtx c fun x =>
        { x with resendCnt := satAdd x.resendCnt 1
                 timer := 0
                 sends := SMap.set none x.sends slot (some { k with resent := true, sentAt := s.now }) })

def settleLost : Nat → State → State
  | 0, s => s
  | n + 1, s =>
    match s.golger.lost with
    | [] => s
    | (tag, code) :: rest =>
      settleLost n (resendSlot ((tag - 1) / 16) ((tag - 1) % 16) code { s with golger := { s.golger with lost := rest } })

/-- Let a context do what it can. -/
def workCtx (c : Nat) : Nat → State → State
  | 0, s => s
  | n + 1, s =>
    match workOnce c s with
    | some s' => workCtx c n (settleLost 64 s')
    | none => s

/-- Work left: a bound on the steps that a context can take at once. -/
def workBound (c : Nat) (s : State) : Nat :=
  let x := s.ctx c
  let rs := x.queue ++ (match x.cur with
    | some k => k.recs
    | none => [])
  (rs.map fun r =>
    let n := ((s.group r.gid).map (·.n)).getD 0
    (n * n + 2) * (blockChunks r.bytes + chunksOf r.bytes)).foldl (· + ·) (100 + x.recvs.length)

/-- A context does all that it can, then writes the completions that are due. -/
def mortarWork (c : Nat) (s : State) : State :=
  let s1 := settleLost 64 s
  let s2 := workCtx c (workBound c s1) s1
  endRecords c (s2.ctx c).ending.length s2

/-! Posting (R434, R455, R456) -/

/-- A free context: not bound, in service and with no completion still to write. -/
def freeCtx (s : State) : Option Nat :=
  (List.range 256).find? fun c => (s.ctx c).phase == .free && !bit (s.ctx c).ctrl.toNat 0 && (s.ctx c).ending.isEmpty
    && (s.ctx c).doom.isNone

def bindCtx (c client runSeq stageVa : Nat) (host : Bool) (s : State) : State :=
  s.setCtx c fun x => { x with phase := .bound, client := client, runSeq := runSeq, stageVa := stageVa, host := host
                               queue := [], cur := none, ending := [], sends := [], recvs := [], credits := [], paused := none, log := [], kept := [], replay := [], doom := none }

/-- The context of a group's next post: its own, or after a take-down another with its staging area. -/
def groupCtx (g : Group) (s : State) : Option Nat × State :=
  match g.ctx with
  | some c => (some c, s)
  | none =>
    let same := (List.range 256).find? fun c =>
      let x := s.ctx c
      (x.phase == .bound || x.phase == .frozen) && x.client == g.client && x.host == g.host && x.runSeq == g.runSeq && x.stageVa == g.stageVa
    match same with
    | some c => (some c, s.setGroup g.gid fun g => { g with ctx := some c })
    | none => match freeCtx s with
      | none => (none, s)
      | some c => (some c, (bindCtx c g.client g.runSeq g.stageVa g.host s).setGroup g.gid fun g => { g with ctx := some c })

/-- Write the status word of a record that no context holds. DEDUCED: a fault there is the post's own, and pauses it; a place
that cannot be written otherwise loses the word. -/
def looseWord (ag : Agent) (r : PostRec) (f : Fate) (s : State) : Res Unit :=
  if recStatusVa r.bytes = 0 then .ok () s
  else match writeRange s ag .write (recStatusVa r.bytes) (statusWord r f) with
    | (_, .ok _ s') => .ok () s'
    | (va, .fault cls s') => .fault cls va .write s'
    | (_, .bad _ s') => .ok () s'

/-- End a record that no context holds. -/
def endLoose (ag : Agent) (r : PostRec) (f : Fate) (s : State) : Res Unit :=
  (looseWord ag r f s).bind fun _ s => .ok () (notifyPoster r f s)

/-- How a post went. -/
inductive Posted where
  | accepted (s : State)
  | full (s : State)
  /-- ended for want of a context, as far as its status word could be written -/
  | ended (r : Res Unit)

/-- Hand a record to a group's context (R434, R456). -/
def postRecord (ag : Agent) (g : Group) (r : PostRec) (s : State) : Posted :=
  let q := groupCtx g s
  match q.1 with
  | none => .ended (endLoose ag r ⟨0x0406, 0, noChunk, 0, g.epoch⟩ q.2)
  | some c =>
    if 64 ≤ (q.2.ctx c).queue.length then .full q.2
    else .accepted (mortarWork c (q.2.setCtx c fun x => { x with queue := x.queue ++ [r] }))

/-- COLL.POST (R114, R434, R577). -/
def effCollPost (i : Nat) (f : LayT) (s : State) : Eff :=
  let t := s.sett i
  match s.stile.cur with
  | none => .done s
  | some run =>
    let post (bs : List Byte) (s : State) : Eff :=
      let rc := (s.logicalOf i).getD (0, 0)
      let g := s.mortar.groups.find? fun g => !g.host && g.client == run.client && g.runSeq == run.seqNo
        && g.lgroup == (t.sreg f.sa).toNat
      let mk (gid member : Nat) : PostRec :=
        { gid := gid, member := member, bytes := bs, poster := .sett run.client run.seqNo (32 * rc.1 + rc.2), sheds := 0, sats := 0, flags := 0 }
      let ag : Agent := { client := run.client, objs := some run.manifest.objects, mortar := true }
      match g with
      | none => (endLoose ag (mk 0 0) ⟨0x0405, 0, noChunk, 0, 0⟩ s).toEff
      | some g =>
        let member := (List.range g.n).find? fun k =>
          let e := g.entries.getD k 0
          decide (entModule e = s.golger.moduleId) && !entHost e && decide (entRow e = rc.1) && decide (entCol e = rc.2)
        match postRecord ag g (mk g.gid (member.getD g.n)) s with
        | .accepted s' => .done s'
        | .full s' => .wait .mortar 0 [] s'
        | .ended r => r.toEff
    if isMemOp t f.aa then post (leBytes 0 64) (s.flag i flEmpty)
    else
      let x := tens t f.aa
      match x.readBytes i x.base 64 s with
      | .ok bs s' => post (bs.map fun b => b.getD 0) s'
      | .fault c v k s' => .fault 0 [] c v k s'
      | .bad st s' => .bad st s'

/-! Commands -/

/-- Sequence number of the collective that a record begins. -/
def seqOf (g : Group) (r : PostRec) : Nat :=
  if recIsPair r.bytes then
    let k := if recOp r.bytes = 6 then 65536 * r.member + recPeer r.bytes else 65536 * recPeer r.bytes + r.member
    g.pairSeq.get 0 k
  else g.seq

/-- A record that begins no collective: one of no member, or a SEND or RECV that is bad. DESIGN CHOICE: it takes no number. -/
def lone (g : Group) (r : PostRec) : Bool := decide (g.n ≤ r.member) || (recIsPair r.bytes && badRecord g r.member r.bytes)

/-- COLLECTIVE_START: the oldest record begins the context's next collective (R437), or ends with BAD_RECORD where it belongs
to none. -/
def collStart (c : Nat) (s : State) : State :=
  let x := s.ctx c
  if x.phase ≠ .bound ∨ x.paused.isSome ∨ x.cur.isSome then s
  else match x.queue with
    | [] => s
    | r :: rest =>
      match s.group r.gid with
      | none => s
      | some g =>
        if lone g r then
          mortarWork c (s.setCtx c fun x => { x with queue := rest, ending := x.ending ++ [(r, ⟨0x0405, 0, noChunk, 0, g.epoch⟩)] })
        else mortarWork c (s.setCtx c fun x =>
          { x with queue := rest, sends := [], credits := [], timer := 0
                   cur := some { gid := r.gid, pair := recIsPair r.bytes, seq := seqOf g r, epoch := g.epoch, recs := [r]
                                 ready := false, tasks := [], out := [], expect := [], got := [], overs := [] } })

/-- Credits for a destination module: one at the start of a collective. -/
def Ctx.credit (x : Ctx) (m : Nat) : Nat := x.credits.get 1 m

/-- A free send slot. -/
def Ctx.freeSlot (x : Ctx) : Option Nat := (List.range 16).find? fun k => (x.sends.get none k).isNone

/-- The lowest free receive slot. -/
def Ctx.freeRecv (x : Ctx) : Nat := ((List.range 16).find? fun k => !(x.recvs.any fun r => r.slot == k)).getD 0

/-- Put a payload into staging slot `k`: send slots 0–15, receive slots 16–31. A staging page that
does not translate keeps its contents. -/
def stage (c k : Nat) (payload : List Byte) (s : State) : State :=
  match (writeRange s (ctxAgent s c) .write ((s.ctx c).stageVa + 65536 * k) payload).2 with
  | .ok _ s' => s'
  | .fault _ _ => s
  | .bad _ s' => s'

/-- Send a DATA chunk with a credit, keeping its copy in a slot (R446). -/
def sendData (c slot module src dst ch : Nat) (payload : List Byte) (k : Coll) (g : Group) (s : State) : State :=
  let r := k.head
  let m := (k.recs.map (·.member)).headD 0
  let op := if recOp r = 7 then 6 else recOp r
  let wf := if k.chain && decide (dst < src) then recField r 3 1 else wireFmt r
  let h := chunkHeader 1 op (recMode r) wf k.gid k.epoch (k.seq + (if k.pair then 2 ^ 31 else 0)) ch src dst
    ((recAnchor g r) % 65536).toNat 0 (recDigest g m r) payload
  let s1 := (stage c slot payload s).setCtx c fun x =>
    { x with chunkCnt := satAdd x.chunkCnt 1, credits := SMap.set 1 x.credits module (x.credit module - 1)
             timer := 0, sends := SMap.set none x.sends slot (some ⟨module, h, payload, false, s.now⟩) }
  settleLost 64 (golgerSend module (1 + 16 * c + slot) (h ++ payload) s1)

/-- CHUNK_SEND: a formed chunk goes first, else the next one is formed from a source. -/
def chunkSend (c : Nat) (s : State) : State :=
  let x := s.ctx c
  match x.cur, x.freeSlot with
  | some k, some slot =>
    if x.phase ≠ .bound ∨ x.paused.isSome ∨ !k.ready then s
    else match s.group k.gid with
      | none => s
      | some g =>
        match k.out.find? fun o => decide (0 < x.credit o.module) with
        | some o =>
          mortarWork c (sendData c slot o.module o.src o.dst o.chunk o.payload k g
            (s.setColl c fun k => { k with out := k.out.erase o }))
        | none =>
          match k.tasks.find? fun t => match t with
              | .send m _ _ _ => decide (0 < x.credit m)
              | .here _ _ _ => false with
          | some (.send m src dst ch) =>
            mortarWork c (ctxGo c (workKey 2 src dst ch) ch src (formChunk c g k src dst ch) (fun p s =>
              let s1 := s.setColl c fun k => { (p.2 k) with tasks := k.tasks.filter (· ≠ .send m src dst ch) }
              sendData c slot m src dst ch p.1 k g s1) s)
          | _ => s
  | _, _ => s

/-- Is the chunk's collective already past, or the chunk already taken? -/
def alreadyTaken (g : Group) (x : Ctx) (h : List Byte) : Bool :=
  let q := chSeq h
  let pair := decide (2 ^ 31 ≤ q)
  let cur := match x.cur with
    | some k => decide (k.gid = g.gid) && decide (k.pair = pair) && decide (k.seq = q % 2 ^ 31) && k.got.contains (chKey h)
    | none => false
  let past := if pair then decide (q - 2 ^ 31 < g.pairSeq.get 0 (65536 * chSrc h + chDst h)) else decide (q < g.seq)
  cur || past || x.recvs.any fun r => r.header == h

/-- Take a message out of Golger's inbox. -/
def takeInbox (source : Nat) (m : Chunk) (s : State) : State :=
  { s with golger := { s.golger with inbox := s.golger.inbox.erase ⟨source, m.header ++ m.payload⟩ } }

/-- DATA_CHUNK (R446, R447, R449, R457). -/
def dataChunk (source : Nat) (m : Chunk) (s0 : State) : State :=
  let s := takeInbox source m s0
  let h := m.header
  match s.group (chGid h) with
  | none => s
  | some g0 =>
    if h.length ≠ 256 then s
    else if !chCrcOk h m.payload then
      settleLost 64 (sendControl source (answerHeader h 3 0 (chEpoch h)) (restartTimer h s))
    else if chEpoch h < g0.epoch then s
    else
      let s1 := restartTimer h (adoptEpoch g0.gid (chEpoch h) s)
      match s1.group g0.gid with
      | none => s1
      | some g =>
        match g.ctx with
        | none => s1
        | some c =>
          let x := s1.ctx c
          if alreadyTaken g x h then mortarWork c (sendAck source h 0 s1)
          else if 16 ≤ x.recvs.length then mortarWork c s1
          else
            let slot : RecvSlot := ⟨x.freeRecv, source, h, m.payload⟩
            let s2 := mortarWork c ((stage c (16 + x.freeRecv) m.payload s1).setCtx c fun x =>
              { x with recvs := x.recvs ++ [slot] })
            if (s2.ctx c).recvs.contains slot then settleLost 64 (sendAck source h 0 s2) else s2

/-- The send slot that a control message answers. -/
def answered (s : State) (h : List Byte) : Option (Nat × Nat) :=
  match s.group (chGid h) with
  | none => none
  | some g => match g.ctx with
    | none => none
    | some c =>
      ((List.range 16).find? fun k => match (s.ctx c).sends.get none k with
        | some d => chKey d.header == chKey h && chSeq d.header == chSeq h && chEpoch d.header == chEpoch h
        | none => false).map fun k => (c, k)

/-- ACK_CHUNK (R446). -/
def ackChunk (source : Nat) (m : Chunk) (s0 : State) : State :=
  let s := takeInbox source m s0
  let h := m.header
  if !chCrcOk h m.payload then s
  else
    let s1 := match answered s h with
      | some (c, k) => s.setCtx c fun x => { x with sends := SMap.set none x.sends k none }
      | none => s
    match s1.group (chGid h) with
    | none => s1
    | some g => match g.ctx with
      | none => s1
      | some c =>
        let cur := match (s1.ctx c).cur with
          | some k => decide (k.gid = g.gid) && decide (k.epoch = chEpoch h)
          | none => false
        if cur then restartTimer h (s1.setCtx c fun x =>
          { x with credits := SMap.set 1 x.credits source (min 16 (x.credit source + chCredits h)) })
        else s1

/-- REFETCH (R447). -/
def refetchChunk (source : Nat) (m : Chunk) (s0 : State) : State :=
  let s := takeInbox source m s0
  if !chCrcOk m.header m.payload then s
  else match answered s m.header with
    | some (c, k) => mortarWork c (resendSlot c k 0 s)
    | none => s

/-- NOTICE (R449, R450). -/
def noticeChunk (source : Nat) (m : Chunk) (s0 : State) : State :=
  let s := takeInbox source m s0
  if !chCrcOk m.header m.payload then s
  else
    let s1 := adoptEpoch (chGid m.header) (chEpoch m.header) s
    match (s1.group (chGid m.header)).bind (·.ctx) with
    | some c => mortarWork c s1
    | none => s1

/-- Has a kept chunk waited MORTAR_ACK_LIMIT ticks since it was last sent? -/
def ackLate (s : State) (c slot : Nat) : Bool :=
  ((s.ctx c).sends.get none slot).any fun k => decide (k.sentAt + s.mortar.ackLimit.toNat ≤ s.now)

/-- ACK_LIMIT_EXPIRY (R447). -/
def ackLimit (c slot : Nat) (s : State) : State :=
  if ackLate s c slot then mortarWork c (resendSlot c slot 0 s) else s

/-- Has the timer of a context's collective reached its group's TIMEOUT? -/
def timedOut (s : State) (c : Nat) : Bool :=
  let x := s.ctx c
  (x.cur.bind fun k => s.group k.gid).any fun g => decide (g.timeout ≤ x.timer)

/-- GROUP_TIMEOUT: not while the context is frozen or waits on a fault (R450). -/
def groupTimeout (c : Nat) (s : State) : State :=
  let x := s.ctx c
  if x.phase ≠ .bound ∨ x.paused.isSome ∨ !timedOut s c then s
  else mortarWork c (failColl c 0x0401 0 noChunk 0 s)

/-- The collective has nothing left to do and every chunk it sent is acknowledged. -/
def collDone (x : Ctx) (k : Coll) : Bool :=
  k.ready && k.tasks.isEmpty && k.out.isEmpty && k.expect.isEmpty && x.sends.isEmpty

/-- COLLECTIVE_COMPLETE (R437, R444). -/
def collComplete (c : Nat) (s : State) : State :=
  let x := s.ctx c
  match x.cur with
  | none => s
  | some k =>
    if x.phase ≠ .bound ∨ x.paused.isSome ∨ !collDone x k then s
    else
      let epoch := ((s.group k.gid).map (·.epoch)).getD 0
      let s1 := s.setGroup k.gid fun g =>
        if k.pair then
          let r := k.recs.headD { gid := 0, member := 0, bytes := [], poster := .sett 0 0 0, sheds := 0, sats := 0, flags := 0 }
          let key := if recOp r.bytes = 6 then 65536 * r.member + recPeer r.bytes else 65536 * recPeer r.bytes + r.member
          { g with pairSeq := SMap.modify 0 g.pairSeq key (· + 1) }
        else { g with seq := g.seq + 1 }
      let s2 := s1.setCtx c fun x =>
        { x with cur := none, credits := []
                 ending := x.ending ++ k.recs.map fun r => (r, ⟨0, 0, noChunk, 0, epoch⟩) }
      endRecords c (s2.ctx c).ending.length s2

/-- The epoch of each of a context's groups advances by one (R451, R456). -/
def advanceGroups (p : Group → Bool) (s : State) : State :=
  (s.mortar.groups.filter p).foldl (fun s g => sendNotices g (g.epoch + 1) (setEpoch g.gid (g.epoch + 1) s)) s

/-- CONTEXT_TAKE_DOWN (R456): collectives in flight and queued records end with CONTEXT_DOWN, and the epochs of the
context's groups advance (R451). Completions that wait on a fault at their status word stay to be written. -/
def ctxTakeDown (c : Nat) (s : State) : State :=
  let x := s.ctx c
  let s0 := s.setCtx c fun x => { x with ctrl := 1 }
  if x.phase = .free ∨ x.phase = .down then s0.setCtx c fun x => { x with phase := .down }
  else
    let s1 := s0.setCtx c fun x => { x with phase := .bound, paused := none }
    let s2 := dropColl c ⟨0x0406, 0, noChunk, 0, (((x.cur.bind fun k => s.group k.gid).map (·.epoch)).getD 0) + 1⟩ s1
    let s3 := s2.setCtx c fun x =>
      { x with queue := [], ending := x.ending ++ x.queue.map fun r =>
          (r, ⟨0x0406, 0, noChunk, 0, (((s.group r.gid).map (·.epoch)).getD 0) + 1⟩) }
    let s4 := advanceGroups (fun g => decide (g.ctx = some c)) s3
    let s5 := endRecords c (s4.ctx c).ending.length s4
    let s6 := s5.setCtx c fun x => { x with phase := .down, recvs := [], sends := [], credits := [] }
    settleLost 64 ({ s6 with
      mortar := { s6.mortar with
        groups := s5.mortar.groups.map fun g => if g.ctx = some c then { g with ctx := none } else g } })

/-- CONTEXT_RETURN (R456). -/
def ctxReturn (c : Nat) (s : State) : State :=
  s.setCtx c fun x => if x.phase = .down then { x with ctrl := 0, phase := .free } else { x with ctrl := 0 }

/-- Free a context: it keeps its counts. -/
def freeOneCtx (c : Nat) (s : State) : State :=
  s.setCtx c fun x =>
    if x.phase = .down then x
    else { x with phase := .free, client := 0, runSeq := 0, host := false, stageVa := 0, queue := [], cur := none, ending := []
                  sends := [], recvs := [], credits := [], paused := none, log := [], kept := [], replay := [], doom := none }

/-- Contexts that satisfy `p`. -/
def ctxsWhere (p : Ctx → Bool) (s : State) : List Nat := (s.mortar.ctxs.filter fun e => p e.2).map (·.1)

/-- Release groups and contexts; when abandoned, collectives in flight fail without status (MORTAR_LAST_FAIL's is one that
the spec does not name) and the groups' epochs advance (R432, R451). -/
def releaseGroups (pg : Group → Bool) (pc : Ctx → Bool) (abandon : Bool) (s : State) : State :=
  let cs := ctxsWhere pc s
  let s1 := if abandon then
      cs.foldl (fun s c => match (s.ctx c).cur with
        | some _ =>
          let st := freeStatus 4 s
          (dropColl c ⟨st.1, 0, noChunk, 0, 0⟩ st.2).setCtx c fun x => { x with ending := [] }
        | none => s) s
    else s
  let s2 := if abandon then advanceGroups pg s1 else s1
  let s3 := cs.foldl (fun s c => freeOneCtx c s) s2
  settleLost 64 { s3 with mortar := { s3.mortar with groups := s3.mortar.groups.filter fun g => !pg g } }

/-- Release of a run's Mortar contexts (R432, R451). -/
def releaseContexts (s : State) (r : Run) (abandon : Bool) : State :=
  releaseGroups (fun g => !g.host && g.client == r.client && g.runSeq == r.seqNo)
    (fun x => !x.host && x.client == r.client && x.runSeq == r.seqNo && x.phase != .free) abandon s

/-- The run of a context is on the array again: a fatal fault that the context met meanwhile ends it. -/
def wakeDoom (c : Nat) (s : State) : State :=
  match (s.ctx c).doom with
  | none => s
  | some st => doomRun c st (s.setCtx c fun x => { x with doom := none })

/-- Freeze the contexts of the running run, or let them go on (R382, R450). -/
def freezeContexts (r : Run) (on : Bool) (s : State) : State :=
  let cs := ctxsWhere (fun x => !x.host && x.client == r.client && x.runSeq == r.seqNo) s
  cs.foldl (fun s c =>
    if on then s.setCtx c fun x => if x.phase = .bound then { x with phase := .frozen } else x
    else wakeDoom c (mortarWork c (s.setCtx c fun x => if x.phase = .frozen then { x with phase := .bound } else x))) s

/-- A host context whose last group was closed while completions waited is free once they are written (R455). -/
def reapCtx (c : Nat) (s : State) : State :=
  let x := s.ctx c
  if x.host && x.phase == .bound && x.cur.isNone && x.queue.isEmpty && x.ending.isEmpty
      && !(s.mortar.groups.any fun g => decide (g.ctx = some c)) then freeOneCtx c s
  else s

/-- RESUME of a context's fault: the paused chunk goes on (R448). -/
def resumeCtx (c id : Nat) (s : State) : State :=
  if (s.ctx c).paused = some id then reapCtx c (mortarWork c (s.setCtx c fun x => { x with paused := none })) else s

/-- FAIL of a context's fault: its collective fails with CHUNK_FAILED (R448). -/
def failCtx (c id : Nat) (s : State) : State :=
  if (s.ctx c).paused = some id then
    let s1 := s.setCtx c fun x => { x with paused := none }
    match (s1.ctx c).cur, (s1.ctx c).ending with
    | some _, [] => mortarWork c (failColl c 0x0403 0x0310 (s1.ctx c).pausedAt.1 (s1.ctx c).pausedAt.2 s1)
    | _, e => match e with
      | (r, f) :: rest => reapCtx c (mortarWork c ((notifyPoster r f s1).setCtx c fun x => { x with ending := rest }))
      | [] => s1
  else s

/-! Declarations (R431, R455) -/

def declGid (d : Nat) : Nat := d % 2 ^ 32
def declField (d byte n : Nat) : Nat := d / 2 ^ (8 * byte) % 2 ^ (8 * n)
def declFirst (d : Nat) : Nat := declField d 8 4
def declN (d : Nat) : Nat := declField d 12 4
def declEntries (d : Nat) (ms : List Nat) : List Nat := (ms.drop (declFirst d)).take (declN d)

/-- Members of each module lie contiguously. -/
def contiguous : List Nat → List Nat → Bool
  | _, [] => true
  | seen, m :: t =>
    match seen with
    | last :: _ => if m = last then contiguous seen t else !seen.contains m && contiguous (m :: seen) t
    | [] => contiguous [m] t

/-- The conditions of R431 on one declaration; local members are host members when `host`. -/
def declOk (s : State) (host : Bool) (d : Nat) (ms : List Nat) (localOk : Nat → Bool) : Bool :=
  let es := declEntries d ms
  decide (1 ≤ declN d) && decide (declN d ≤ 32768) && decide (declFirst d + declN d ≤ ms.length)
    && decide (crc32c ((es.map fun e => leBytes e 8).flatten) = declField d 24 4)
    && decide (es.eraseDups.length = es.length) && contiguous [] (es.map entModule)
    && (es.filter fun e => decide (entModule e = s.golger.moduleId)).all (fun e => decide (entHost e = host) && localOk e)
    && !(s.mortar.groups.any fun g => g.gid == declGid d)
    && decide (declField d 32 8 % 65536 = 0)

/-- The group that a declaration makes. -/
def mkGroup (s : State) (host : Bool) (d : Nat) (ms : List Nat) (client runSeq ctx lgroup : Nat) : Group :=
  { gid := declGid d, host := host, lgroup := lgroup, client := client, runSeq := runSeq, ctx := some ctx
    stageVa := declField d 32 8, entries := declEntries d ms, anchor := signed 16 (declField d 16 2)
    timeout := if declField d 20 4 = 0 then s.mortar.timeoutDefault.toNat else declField d 20 4
    epoch := 0, seq := 0, pairSeq := [] }

/-- Entries of the group and member tables in use (R431, R459). -/
def groupsUsed (s : State) : Nat := s.mortar.groups.length
def membersUsed (s : State) : Nat := (s.mortar.groups.map (·.n)).foldl (· + ·) 0

end Sys2Proof.Machine
end

