-- ==== Sys2Proof/Machine/RunEnd.lean ====
section
/-! DEFINITION. The end of a run and a sett's faults (R71, R171–R174, R332, R370, R402–R405). -/

namespace Sys2Proof.Machine

/-! The end of a run (R71, R402, R403, R332) -/

/-- STILE_ESC_STATUS (R174). -/
def Esc.statusWord (e : Esc) : Nat :=
  b2n e.beyond * 2 ^ 31 + b2n e.exh * 2 ^ 30 + e.exhStep * 2 ^ 20 + e.widest * 2 ^ 16 + e.exhSetts

/-- Clamp of R402. -/
def satDeficit (x : Int) : Int := clampInt (-(2 ^ 63)) (2 ^ 63) x

/-- Insert residency entries on one die, the oldest making room beyond 256 (R332). -/
def insertResident (l : List Resident) (r : Resident) : List Resident :=
  let l' := l ++ [r]
  l'.drop (l'.length - 256)

/-- Dies on which an object lies. -/
def objDies (o : BitVec 512) : List Nat :=
  if objTier o = 1 then [0, 1] else if objSpread o then [0, 1] else [objHome o]

/-- Enter a run's objects with a residency key in the residency table (R332). -/
def enterResidency (s : State) (r : Run) : State :=
  (r.manifest.objects.filter fun o => decide (objReskey o ≠ 0) &&
      (objTier o == 0 || objTier o == 1 || objTier o == 4)).foldl (fun s o =>
    (objDies o).foldl (fun s d =>
      let e : Resident := { client := r.client, reskey := objReskey o, tier := objTier o, spread := objSpread o
                            bytes := objBytes o, va := objVa o, objBytes := objBytes o }
      { s with stile := { s.stile with
          residency := SMap.modify [] s.stile.residency d (fun l => insertResident l e) } }) s) s

/-- Lintel-pinned lines that the run has touched (R324). -/
def State.lockedLines (s : State) : List Nat := (s.mem.lines.filter fun e => e.2.locked).map (·.1)

/-- The Lintel-pinned lines stay no longer: the run ends or leaves the array (R324). -/
def unlockLines (s : State) : State := s.lockedLines.foldl (fun s k => s.setLine k fun l => { l with locked := false }) s

/-- Drop everything the run holds outside its completion: setts, waits, faults, tables, contexts. -/
def clearRun (s : State) (r : Run) (status : Nat) (abandon : Bool) : State :=
  let idx := r.placement.map (·.2)
  let s1 := idx.foldl (fun s i => s.setSett i fun t =>
    if t.phase = .fenced ∨ t.phase = .selfTest then { t with queue := [], stall := none, fetchMiss := false, status := BitVec.ofNat 16 status }
    else { t with phase := if t.asleep then .gated else if status = 0 then .completed else .idle, queue := [], stall := none
                  asleep := false, fetchMiss := false, status := BitVec.ofNat 16 status }) s
  let s2 := { s1 with mem := { s1.mem with waits := s1.mem.waits.filter fun w => !idx.contains w.sett } }
  let s3 := s2.setClient r.client fun x =>
    { x with waiting := x.waiting.filter (fun f => f.run != r.seqNo), resumed := [] }
  let s4 := (r.manifest.cairn).foldl (fun s t => s.setCairn t fun k => { k with owned := false }) s3
  let s5 := [0, 1].foldl (fun s d => s.setDie d fun m => { m with lintelPinned := 0 }) s4
  releaseContexts (unlockLines s5) r abandon

/-- Completion fields of a run (R405). -/
def runComp (s : State) (r : Run) (status stall : Nat) (e : Esc) : Comp :=
  { tag := r.tag.toNat, status := status, type := 1, run := r.seqNo, warn := r.warn
    wait := r.wait, runt := r.runt, save := r.save, preempts := r.preempts, faults := r.faults
    escCnt := e.cnt.toNat, escExh := e.exhCnt.toNat, escStatus := e.statusWord, escRatio := e.worst
    start := r.start, fin := s.now, stall := stall }

/-- The ready and pre-empted runs: of each queue only the earliest that has not completed (R393, R399). -/
def State.readyRuns (s : State) : List Run :=
  s.stile.runs.filter fun r => !((s.stile.runs ++ s.stile.cur.toList).any fun x =>
    x.client == r.client && x.queue == r.queue && decide (x.seqNo < r.seqNo))

/-- Has the client a ready or a pre-empted run (R402)? -/
def State.hasRuns (s : State) (c : Nat) : Bool := s.readyRuns.any fun r => r.client == c

/-- The deficit of a client without one is 0 (R402). -/
def settleDeficit (c : Nat) (s : State) : State := if s.hasRuns c then s else s.setCl c fun k => { k with deficit := 0 }

/-- A run leaves the array: its deficit, the array free, STOP and PREEMPT cleared (R402, R410). -/
def freeArray (s : State) (r : Run) : State :=
  let s1 := s.setCl r.client fun k => { k with deficit := satDeficit (k.deficit - (s.stile.held : Int)) }
  settleDeficit r.client { s1 with stile := { s1.stile with cur := none, array := .free, held := 0, stop := false
                                                            preempt := false } }

/-- End the running run with a status and post its completion (R71, R405). -/
def endRunWith (s : State) (status stall : Nat) : State :=
  match s.stile.cur with
  | none => s
  | some r =>
    let e := s.stile.esc
    let s1 := clearRun s r status (decide (status ≠ 0))
    let s2 := if status = 0 then enterResidency s1 r else s1
    let s3 := postComp (freeArray s2 r) r.client r.queue (some r.desc) r.irq (runComp s r status stall e)
    { s3 with mortar := { s3.mortar with doom := none } }

def endRun (s : State) (status : Nat) : State := endRunWith s status 0

/-- A diagnostic or self-test sequence of a sett outside any run ends with a status (R72). -/
def endSequence (i status : Nat) (s : State) : State :=
  s.setSett i fun t => { t with phase := if t.phase = .running ∨ t.phase = .draining then .completed else t.phase, queue := []
                                stall := none, ended := false, status := BitVec.ofNat 16 status }

/-- How a sett's error ends what it runs: the sett, the status. -/
abbrev Ender := Nat → Nat → State → State

/-- A sett's transfer met a fault class: the record is posted; a fatal class ends the run by `fin` (R370). -/
def settFault (fin : Ender) (s : State) (i : Nat) (u : UnitId) (va cls : Nat) (kind : AccKind) : State :=
  match s.stile.cur with
  | none => s
  | some r =>
    let s0 := if (sameFault s r.client va cls (.sett i u)).isSome then s else countRunFault s
    let s1 := postFault s0 r.client va cls kind r.seqNo (settAgent s i u) (.sett i u)
    if fatalClass cls then fin i (classStatus cls) s1 else s1

/-- No sett: Stile itself ends the run. -/
def noSett : Nat := 408

/-- What Mortar's contexts or the Lintel slices have met that ends the run ends it (R340, R370). -/
def settleDoomBy (fin : Ender) (s : State) : State :=
  match s.mortar.doom with
  | none => s
  | some st => fin noSett st { s with mortar := { s.mortar with doom := none } }

end Sys2Proof.Machine
end

