-- ==== Sys2Proof/Machine/Func.lean ====
section
/-! DEFINITION. The function unit: class 0x5 (R72, R105, R177–R180, R195, R196). -/

namespace Sys2Proof.Machine

inductive FnOp where
  | tanh | sig | gateSig | gateTanh | gateSilu | gateGelu
  deriving DecidableEq, Repr

/-- The GATE opcodes are the fused forms of R72. -/
def FnOp.isGate : FnOp → Bool
  | .tanh | .sig => false
  | .gateSig | .gateTanh | .gateSilu | .gateGelu => true

/-- σ̂ of R178. -/
def sigHat (a : Val) : Val := rn ((Val.fin 1).div (rn ((Val.fin 2).add (em1 a.neg))))

/-- τ̂ of R178. -/
def tanhHat (a : Val) : Val :=
  let m := a.abs
  let r := if (Val.fin 16).lt m then .fin 1
    else
      let t := em1 ((Val.fin 2).mul m)
      rn (t.div (rn (t.add (.fin 2))))
  match a with
  | .nan => .nan
  | _ => if a.isNeg then r.neg else r

def geluC0 : Val := fp32Val 0x3F4C422A
def geluC1 : Val := fp32Val 0x3D372713

/-- `p` of R178: 2 × C0 × (a + C1 × a³), exactly. -/
def geluP (a : Val) : Val :=
  ((Val.fin 2).mul geluC0).mul (a.add (geluC1.mul (a.mul (a.mul a))))

/-- Result of a class 0x5 opcode in normal form (R178, R179). -/
def fnExact (op : FnOp) (a b : Val) : Val :=
  match op with
  | .sig => sigHat a
  | .tanh => tanhHat a
  | .gateSig => if b.isNan then .nan else rn (a.mul (sigHat b))
  | .gateTanh => if b.isNan then .nan else rn (a.mul (tanhHat b))
  | .gateSilu => rn (a.mul (sigHat a))
  | .gateGelu => rn (a.mul (sigmaExact (geluP a)))

/-- LN5 forms (R196). -/
def fnLn5 (op : FnOp) (a b : Val) : Val :=
  let tanh5 := fun v : Val => if v.isNeg then (Ln5Fn.tanh.evalVal v.abs).neg else Ln5Fn.tanh.evalVal v
  let sig5 := fun v : Val =>
    if v.isNeg then rz ((Val.fin 1).sub (Ln5Fn.sig.evalVal v.neg)) else Ln5Fn.sig.evalVal v
  match op with
  | .sig => sig5 a
  | .tanh => tanh5 a
  | .gateSig => if b.isNan then .nan else rz (a.mul (sig5 b))
  | .gateTanh => if b.isNan then .nan else rz (a.mul (tanh5 b))
  | .gateSilu => rz (a.mul (sig5 a))
  | .gateGelu => rn (a.mul (sigmaExact (geluP a)))

def fnVal (compat : Bool) (op : FnOp) (a b : Val) : Val :=
  if a.isNan then .nan else if compat then fnLn5 op a b else fnExact op a b

/-- Register form: set lanes of VD (R180). -/
def fnRegs (op : FnOp) (h : Hdr) (f : LayF) (t : Sett) : Sett :=
  let p := (t.preg h.pred).toNat
  let r := fun i => fnVal t.compat op (fp32Val (lane (t.vreg f.a) i)) (fp32Val (lane (t.vreg f.b) i))
  let fl := if (List.range 128).any fun i => bit p i && (r i).isNan then flInvalid else flNone
  (t.setV f.d (ofLanes fun i =>
    if bit p i then fp32Code .nearest (r i) else lane (t.vreg f.d) i)).flag fl

/-- Store results for the valid prefix of a block of `dst`; kept elements of a narrow block join with
their own values (R180). -/
def storePrefix (i : Nat) (src : Fmt) (dst : Tens) (p : BlockAt) (vs : List Val) (s : State) : Res Unit :=
  let nd := dst.blockValid p
  let mine := vs.take nd
  if mine.isEmpty then .ok () s
  else if mine.length = nd ∨ !dst.fmt.narrow then
    let w := convertBlock src dst.fmt mine
    (dst.writeBlock i p w.codes w.scale s).bind fun _ s => .ok () (s.flag i w.flags)
  else
    (dst.readBlock i p s).bind fun r s =>
      let w := convertBlock src dst.fmt (mine ++ (blockVals dst.fmt r).drop mine.length)
      (dst.writeBlock i p w.codes w.scale s).bind fun _ s => .ok () (s.flag i w.flags)

/-- Scratch form, one block of AA. -/
def fnBlock (i : Nat) (op : FnOp) (a b dst : Tens) (hasB : Bool) (k : Nat) (s : State) : Res Unit :=
  let p := a.blockAt k
  let n := a.blockValid p
  (a.readBlock i p s).bind fun ra s =>
    (if hasB then b.readBlock i p s else .ok ([], 0x7F) s).bind fun rb s =>
      let va := blockVals a.fmt ra
      let vb := padVals (blockVals b.fmt rb) n
      let rs := (va.zip vb).map fun x => fnVal (s.sett i).compat op x.1 x.2
      let s := if rs.any Val.isNan then s.flag i flInvalid else s
      storePrefix i .fp32 dst p rs s

def FnOp.usesB : FnOp → Bool
  | .gateSig | .gateTanh => true
  | .tanh | .sig | .gateSilu | .gateGelu => false

/-- Neutral operand standing for a kind-1 descriptor: no valid element (R577). -/
def emptied (t : Tens) : Tens := { t with mem := false, d := 0, lo := 0, hi := 0 }

/-- A scratch operand: the tensor, emptied when its descriptor is kind 1 (R577). -/
def scrTens (t : Sett) (r : BitVec 4) : Tens := if isMemOp t r then emptied (tens t r) else tens t r
def scrTensAs (t : Sett) (r : BitVec 4) (f : Fmt) : Tens :=
  if isMemOp t r then emptied (tensAs t r f) else tensAs t r f

/-- EMPTY when any of the scratch operands named is kind 1 (R577). -/
def flagEmptyOps (i : Nat) (rs : List (BitVec 4)) (s : State) : State :=
  if rs.any fun r => isMemOp (s.sett i) r then s.flag i flEmpty else s

/-- A class 0x5 opcode; a fused gate outside normal mode ends the sequence with 0x0201 (R72). -/
def effFn (op : FnOp) (i : Nat) (h : Hdr) (f : LayF) (prog : Nat) (s : State) : Eff :=
  let t := s.sett i
  if op.isGate ∧ s.settMode i ≠ 0 then .bad 0x0201 s
  else if f.m then
    let ra : BitVec 4 := f.a.setWidth 4
    let rb : BitVec 4 := f.b.setWidth 4
    let rd : BitVec 4 := f.d.setWidth 4
    let a := scrTens t ra
    stepsFrom i (fnBlock i op a (scrTens t rb) (scrTens t rd) op.usesB) a.blockCount prog
      (flagEmptyOps i (if op.usesB then [ra, rb, rd] else [ra, rd]) s)
  else .done (s.setSett i (fnRegs op h f))

end Sys2Proof.Machine
end

