-- ==== Sys2Proof/Machine/Row.lean ====
section
/-! DEFINITION. The row unit: class 0x6 (R107, R181–R191, R197). -/

namespace Sys2Proof.Machine

def modOfmt (f : LayT) : Fmt := (Fmt.ofCode (field f.md.toNat 17 14)).getD .fp32
def modAff (f : LayT) : Bool := bit f.md.toNat 13

/-- `truncTo` with a mark when something nonzero is discarded. -/
def truncShed (q : Rat) (w : Int) : Rat × Nat :=
  let t := truncTo q w
  (t, if t = q then 0 else 1)

/-- The statistics pass in progress: anchor, lane ledgers, sheds so far (R182). -/
structure Stats where
  a1 : Option Int
  s1 : List Rat
  s2 : List Rat
  sheds : Nat

def Stats.zero : Stats := ⟨none, List.replicate 128 0, List.replicate 128 0, 0⟩

/-- Truncate every lane ledger at weight `2^w`. -/
def truncLanes (l : List Rat) (w : Int) : List Rat × Nat :=
  let r := l.map fun q => truncShed q w
  (r.map (·.1), (r.map (·.2)).foldl (· + ·) 0)

/-- Add `ts` to the lanes from lane 0, truncated at `2^w`. -/
def addLanes : List Rat → List Rat → Int → List Rat × Nat
  | l, [], _ => (l, 0)
  | [], _, _ => ([], 0)
  | a :: l, t :: ts, w =>
    let x := truncShed t w
    let r := addLanes l ts w
    ((a + x.1) :: r.1, x.2 + r.2)

/-- Largest exponent of the nonzero numbers of a chunk. -/
def chunkExp (ds : List Rat) : Option Int :=
  (ds.filter fun d => decide (d ≠ 0)).foldl (fun m d => match m with
    | none => some (ilog2 d)
    | some e => some (max e (ilog2 d))) none

/-- One chunk of at most 128 elements (R182). -/
def Stats.chunk (x : Stats) (ds : List Rat) : Stats :=
  let rise : Option Int := match chunkExp ds, x.a1 with
    | some e, none => some e
    | some e, some a => if a < e then some e else none
    | none, _ => none
  let y : Stats := match rise with
    | none => x
    | some e =>
      match x.a1 with
      | none => { x with a1 := some e }
      | some _ =>
        let u := truncLanes x.s1 (e - 104)
        let v := truncLanes x.s2 (2 * e + 1 - 104)
        ⟨some e, u.1, v.1, x.sheds + u.2 + v.2⟩
  match y.a1 with
  | none => y
  | some a =>
    let u := addLanes y.s1 ds (a - 104)
    let v := addLanes y.s2 (ds.map fun d => d * d) (2 * a + 1 - 104)
    { y with s1 := u.1, s2 := v.1, sheds := y.sheds + u.2 + v.2 }

/-- Chunks of 128. -/
def chunks128 {α : Type} : Nat → List α → List (List α)
  | 0, _ => []
  | _ + 1, [] => []
  | n + 1, l => l.take 128 :: chunks128 n (l.drop 128)

def statsPass (ds : List Rat) : Stats := (chunks128 (ds.length + 1) ds).foldl Stats.chunk Stats.zero

inductive RowOp where
  | norm | rms | smax | stat
  deriving DecidableEq, Repr

/-- Outputs of one row, with its flags, sheds and the statistics ledgers it leaves. -/
structure RowOut where
  ys : List Val
  flags : Fl
  sheds : Nat
  stats : List (Rat × Rat)

/-- μ and V of R183: the first value of the row, n, t1, t2; OVERFLOW beside V. -/
def meanVar (x0 : Rat) (n : Nat) (t1 t2 : Rat) : Val × Val × Fl :=
  let mu := rn (.fin (x0 + t1 / n))
  let num := (n : Rat) * t2 - t1 * t1
  let v := num / ((n : Rat) * n)
  if num < 0 then (mu, .fin 0, flNone)
  else (mu, rz (.fin v), if (magVal 23 (-126) 0x7F7FFFFF) < v then flOverflow else flNone)

/-- The affine step y × γ + β in one rounding (R185, R186). -/
def affine (rnd : Rounding) (y g b : Val) : Val × Fl :=
  let e := (y.mul g).add b
  let r := rnd32 rnd e
  match e, r with
  | .nan, _ => (.nan, flInvalid)
  | .fin _, .inf _ => (r, flOverflow)
  | _, _ => (r, flNone)

def applyAffine (rnd : Rounding) (ys gs bs : List Val) : List Val × Fl :=
  let r := (ys.zip (gs.zip bs)).map fun x => affine rnd x.1 x.2.1 x.2.2
  (r.map (·.1), r.foldl (fun f x => f ||| x.2) flNone)

def nanRow (n : Nat) : List Val := List.replicate n .nan

/-- ROW.STAT, ROW.NORM and ROW.RMS on one row of finite values (R182–R186). -/
def rowStats (op : RowOp) (eps : Val) (xs : List Rat) (aff : Option (List Val × List Val)) : RowOut :=
  let n := xs.length
  let x0 := if op = .rms then 0 else xs.headD 0
  let ds := xs.map (· - x0)
  let st := statsPass ds
  let t1 := ratSum st.s1
  let t2 := ratSum st.s2
  let mv := meanVar x0 n t1 t2
  let led := st.s1.zip st.s2
  match op with
  | .stat => ⟨[mv.1, mv.2.1], mv.2.2, st.sheds, led⟩
  | _ =>
    if eps.isNan || eps.isNeg then ⟨nanRow n, mv.2.2 ||| flInvalid, st.sheds, led⟩
    else
      let den := if op = .rms then rn ((rn (.fin (t2 / n))).add eps) else rn (mv.2.1.add eps)
      let zero := den.isZero
      let q := rsq .nearest den
      let ys := if zero then xs.map fun _ => Val.fin 0
        else if op = .rms then xs.map fun x => rn ((Val.fin x).mul q)
        else ds.map fun d => rn ((rn (.fin (d - t1 / n))).mul q)
      let fl := mv.2.2 ||| (if zero then flInvalid else flNone)
      match aff with
      | none => ⟨ys, fl, st.sheds, led⟩
      | some (g, b) =>
        let r := applyAffine .nearest ys g b
        ⟨r.1, fl ||| r.2, st.sheds, led⟩

/-- A score after the limits of R188: none for NaN, else the value (−∞ below the limit). -/
def limitScore (z : Val) : Option (Option Rat × Fl) :=
  match z with
  | .nan => none
  | .inf n => if n then some (none, flNone) else some (some 32768, flSaturate)
  | .fin q => if 32768 < q then some (some 32768, flSaturate)
    else if q < -32768 then some (none, flNone) else some (some q, flNone)

/-- The factor f under the compatibility flags, from T_exp (R197): T_exp(RZ(k ln 2 − z)). T_exp has no value below 0, and
the spec states none for a score above k ln 2: a free value, a function of the score, within 2⁻²³ of 2 T_exp(RZ((k + 1) ln 2 − z)),
which keeps the bound of R199. -/
def expF5 (z : Rat) : Rat :=
  let d := ln2Above (expK z) z
  if d < 0 then
    let off : Rat := ((Config.expAbove (fp32Code .nearest (.fin z))).toInt : Rat) / 2 ^ 38
    (rz (.fin (2 * (Ln5Fn.exp.eval (ln2Above (expK z + 1) z)).finOr0 + off))).finOr0
  else (Ln5Fn.exp.eval d).finOr0
where
  ln2Above (k : Int) (z : Rat) : Rat :=
    (settle (fun p =>
      let b := ln2Bounds p
      if k < 0 then ((k : Rat) * b.2 - z, (k : Rat) * b.1 - z) else ((k : Rat) * b.1 - z, (k : Rat) * b.2 - z))
      (fun e => rz (.fin e)) .nan).finOr0

/-- Exponential terms of scores: k and f of R189, or f of R197 (none for −∞). -/
def expTerm (compat : Bool) (z : Option Rat) : Option (Int × Rat) :=
  z.map fun q => (expK q, if compat then expF5 q else (expF q).finOr0)

/-- Lane sums with a shared anchor K, chunk by chunk, silently truncated (R189, R191). -/
def expSumChunk (x : Option Int × List Rat) (c : List (Option (Int × Rat))) : Option Int × List Rat :=
  let top := c.foldl (fun m t => match m, t with
    | none, some t => some t.1
    | some k, some t => some (max k t.1)
    | m, none => m) none
  let y := match top, x.1 with
    | some k, none => (some k, x.2)
    | some k, some k0 => if k0 < k then (some k, x.2.map fun q => truncTo q (k - 104)) else x
    | none, _ => x
  match y.1 with
  | none => y
  | some k =>
    (y.1, (addLanes y.2 (c.map fun t => match t with
      | some t => t.2 * pow2 t.1
      | none => 0) (k - 104)).1)

/-- K and Σ of a row's exponential terms. -/
def expSum (ts : List (Option (Int × Rat))) : Option Int × Rat :=
  let r := (chunks128 (ts.length + 1) ts).foldl expSumChunk (none, List.replicate 128 0)
  (r.1, ratSum r.2)

/-- ROW.SMAX on one row (R188–R190). -/
def rowSmax (sc : Val) (xs : List Val) : RowOut :=
  let zs := xs.map fun x => limitScore (rn (sc.mul x))
  let zz := zs.map fun z => (z.getD (none, flNone))
  let fl := zz.foldl (fun f z => f ||| z.2) flNone
  if zs.any (·.isNone) then ⟨nanRow xs.length, flInvalid ||| fl, 0, []⟩
  else
    let ts := zz.map fun z => expTerm false z.1
    let r := expSum ts
    match r.1 with
    | none => ⟨xs.map fun _ => .fin 0, fl, 0, []⟩
    | some k =>
      let sum := rn (.fin (r.2 * pow2 (-k)))
      let inv := rn ((Val.fin 1).div sum)
      ⟨ts.map fun t => match t with
        | some t => rn ((Val.fin (t.2 * pow2 (t.1 - k))).mul inv)
        | none => .fin 0, fl, 0, []⟩

/-! LN5 forms (R197) -/

/-- RZ sum by lane in chunk order, then along the pairwise tree. -/
def ln5Lanes (xs : List Val) : List Val :=
  (chunks128 (xs.length + 1) xs).foldl (fun acc c =>
    (acc.zip (c ++ List.replicate 128 (Val.fin 0))).map fun x => rz (x.1.add x.2))
    (List.replicate 128 (.fin 0))

def ln5Tree : Nat → List Val → Val
  | 0, l => l.headD (.fin 0)
  | k + 1, l =>
    let rec pairs : List Val → List Val
      | a :: b :: t => rz (a.add b) :: pairs t
      | l => l
    ln5Tree k (pairs l)

def ln5Sum (xs : List Val) : Val := ln5Tree 7 (ln5Lanes xs)

/-- Row opcodes under the compatibility flags; q = RZ(1 ÷ 0) is infinite, from finite operands (R198). DESIGN CHOICE: a lane's
sum or square beyond the largest finite value is that value, as RZ gives it, and sets no flag; R198 leaves what the LN5 then
gives open. -/
def rowLn5 (op : RowOp) (eps : Val) (xs : List Val) (aff : Option (List Val × List Val)) : RowOut :=
  let n := xs.length
  let nv := Val.fin n
  let s1 := ln5Sum xs
  let s2 := ln5Sum (xs.map fun x => rz (x.mul x))
  let mu := rz (s1.div nv)
  let ms := rz (s2.div nv)
  let v0 := rz (ms.sub (rz (mu.mul mu)))
  let v := (Val.fin 0).max v0
  let fin (ys : List Val) : RowOut :=
    ⟨ys, if ys.any Val.isNan then flInvalid else flNone, 0, []⟩
  if xs.any Val.isNan then fin (nanRow (if op = .stat then 2 else n))
  else match op with
  | .stat => fin [mu, v]
  | .smax =>
    let zs := xs.map fun x => rz (eps.mul x)
    let m := zs.foldl Val.max (.inf true)
    let ps := zs.map fun z => Ln5Fn.exp.evalVal (rz (m.sub z))
    let r := rz ((Val.fin 1).div (ln5Sum ps))
    fin (ps.map fun p => rz (p.mul r))
  | _ =>
    if eps.isNan || eps.isNeg then fin (nanRow n)
    else
      let den := rz ((if op = .rms then ms else v).add eps)
      let q := if den.isZero then .inf false else rsq .zero den
      let ys := xs.map fun x => rz ((if op = .rms then x else rz (x.sub mu)).mul q)
      let fl := if den.isZero then flOverflow else flNone
      match aff with
      | none => let r := fin ys
                { r with flags := r.flags ||| fl }
      | some (g, b) =>
        let r := applyAffine .zero ys g b
        ⟨r.1, r.2 ||| fl ||| (if ys.any Val.isNan then flInvalid else flNone), 0, []⟩

/-- Outputs of one row: compatibility forms, R184 for rows that hold NaN or infinity, else R182–R190. -/
def rowOut (compat : Bool) (op : RowOp) (p : Val) (xs : List Val) (aff : Option (List Val × List Val)) :
    RowOut :=
  if compat then rowLn5 op p xs aff
  else if op = .smax then rowSmax p xs
  else if xs.any fun x => !x.isFin then ⟨nanRow (if op = .stat then 2 else xs.length), flInvalid, 0, []⟩
  else rowStats op p (xs.map Val.finOr0) aff

/-- Store a row's FP32 results in OFMT and then in AD's format (R187). -/
def storeRow (i : Nat) (ofmt : Fmt) (dst : Tens) (c : Nat × Nat × Nat) (ys : List Val) (s : State) :
    Res Unit :=
  (Res.mapM (fun b s =>
    let p : BlockAt := ⟨c.1, c.2.1, c.2.2, b⟩
    let mine := (ys.drop (32 * b)).take (dst.blockValid p)
    if mine.isEmpty then .ok () s
    else
      let w := convertBlock .fp32 ofmt mine
      let s := s.flag i (if ofmt = .fp32 then flNone else w.flags)
      if ofmt = dst.fmt ∧ mine.length = dst.blockValid p then dst.writeBlock i p w.codes w.scale s
      else storePrefix i ofmt dst p (w.codes.map fun x => ofmt.value w.scale x) s)
    (List.range (ceilDiv (dst.valid 0) 32)) s).bind fun _ s => .ok () s

/-- One row of AA. -/
def rowStep (op : RowOp) (i : Nat) (f : LayT) (a dst : Tens) (g b : List Val) (k : Nat) (s : State) : Res Unit :=
  let c := rowCoords (a.valid 1) (a.valid 2) k
  let t := s.sett i
  let p := fp32Val ((t.sreg f.sa).toNat % 2 ^ 32)
  (a.readRow i c s).bind fun xs s =>
    let aff := if modAff f then some ((padVals g xs.length).map rn, (padVals b xs.length).map rn) else none
    let r := rowOut t.compat op p xs aff
    let s := s.setSett i fun t =>
      let t1 := (t.flag r.flags).shed r.sheds
      if r.stats.isEmpty then t1
      else { t1 with statsParity := false, stats := SMap.setMany StatPair.zero [] 0 (r.stats.map fun x => ⟨x.1, x.2⟩) }
    storeRow i (if op = .stat then .fp32 else modOfmt f) dst c r.ys s

/-- A class 0x6 opcode: γ and β are read once, then rows in linear order, from row `prog` on (R181, R194). -/
def effRow (op : RowOp) (i : Nat) (f : LayT) (prog : Nat) (s : State) : Eff :=
  let t := s.sett i
  let a := scrTens t f.aa
  let ab := scrTens t f.ab
  let n := if a.valid 0 = 0 then 0 else a.valid 1 * a.valid 2 * a.valid 3
  let s1 := flagEmptyOps i (if modAff f then [f.aa, f.ad, f.ab] else [f.aa, f.ad]) s
  let row (r : Nat) (use : Bool) (s : State) : Res (List Val) := if use then ab.readRow i (r, 0, 0) s else .ok [] s
  match (row 0 (modAff f) s1).bind fun g s =>
      (row 1 (modAff f && decide (op = .norm)) s).bind fun b s => .ok (g, b) s with
  | .ok gb s2 => stepsFrom i (rowStep op i f a (scrTens t f.ad) gb.1 gb.2) n prog s2
  | .fault c v k s2 => .fault 0 [] c v k s2
  | .bad x s2 => .bad x s2

end Sys2Proof.Machine
end

