-- ==== Sys2Proof/Machine/Escal.lean ====
section
/-! DEFINITION. Escalation: class 0xE, the ladder and Stile's counts (R116, R155–R174). -/

namespace Sys2Proof.Machine

def modPd (f : LayT) : BitVec 3 := BitVec.ofNat 3 (field f.md.toNat 17 15)
def modSlot14 (f : LayT) : Nat := field f.md.toNat 14 11

/-- QNT.CVT (R168): a converting transfer within scratch that measures. -/
def qntStep (i : Nat) (src dst : Tens) (slot : Nat) (k : Nat) (s : State) : Res Unit :=
  let p := dst.blockAt k
  (moveBlock i src p dst p s).bind fun w s => .ok () (recordBlock i (some slot) dst.fmt.narrow w s)

def effQntCvt (i : Nat) (f : LayT) (prog : Nat) (s : State) : Eff :=
  let t := s.sett i
  let dst := scrTens t f.ad
  stepsFrom i (qntStep i (scrTens t f.aa) dst (modSlot14 f)) dst.blockCount prog
    (flagEmptyOps i [f.aa, f.ad] s)

/-- Terms shed in a slot's span by instructions issued before `seq` (R158). -/
def Sett.lshed (t : Sett) (k : Slot) (seq : Nat) : Nat :=
  ((t.shedLog.filter fun e => decide (k.spanSeq ≤ e.1) && decide (e.1 < seq)).map (·.2)).foldl (· + ·) 0

/-- Bytes of a 64-byte record at a scratch operand; zeros for a kind-1 descriptor (R577). -/
def readRecord (i : Nat) (r : BitVec 4) (n : Nat) (s : State) : Res (List Byte) :=
  let t := s.sett i
  if isMemOp t r then .ok (leBytes 0 n) (s.flag i flEmpty)
  else
    let x := tens t r
    (x.readBytes i x.base n s).bind fun bs s => .ok (bs.map fun b => b.getD 0) s

/-- The mask of exceeded measures (R161). -/
def exceeded (d : List Byte) (k : Slot) (lshed : Nat) : Nat :=
  let ctrl := recField d 4 4
  b2n (bit ctrl 1 && decide (recField d 8 8 < k.clips))
    + 2 * b2n (bit ctrl 2 && decide (recField d 16 8 < k.qsheds))
    + 4 * b2n (bit ctrl 3 && decide (recField d 32 4 < k.worst))
    + 8 * b2n (bit ctrl 4 && decide (recField d 24 8 < lshed))

/-- ESC.CHECK (R160, R161); the engine holds it until earlier matrix instructions completed. -/
def effEscCheck (i seq : Nat) (f : LayT) (s : State) : Eff :=
  Res.toEff ((readRecord i f.ab 64 s).bind fun d s =>
    .ok () (s.setSett i fun t =>
      let k := t.slot (modSlot14 f)
      let m := exceeded d k (t.lshed k seq)
      ((t.setP (modPd f) (if m = 0 then 0 else BitVec.allOnes 128)).setS f.sd (BitVec.ofNat 64 m)).setSlot
        (modSlot14 f) fun k => { k with layerId := recField d 0 4 }))

/-- The next wider available step of a slot (R168). -/
def Slot.next (k : Slot) : Option Nat :=
  [0, 1, 2, 3, 4].find? fun x => decide (k.step < x) && bit k.steps.toNat x

/-- The data of an escalation or exhaustion event (R172): logical coordinates, slot, step and LAYER_ID. DESIGN CHOICE:
their places in the 12 bytes, and CODE 0 for both, which nothing else tells apart. -/
def escData (s : State) (i slot step layer : Nat) : List Byte :=
  let rc := (s.logicalOf i).getD (0, 0)
  leBytes rc.1 1 ++ leBytes rc.2 1 ++ leBytes slot 1 ++ leBytes step 1 ++ leBytes layer 4 ++ leBytes 0 4

/-- Stile's count of an advancing ESC.MARK: events, budget and alarm (R171–R173). -/
def countEsc (s : State) (i slot step layer : Nat) : State :=
  let e := s.stile.esc
  let cnt := satAdd e.cnt 1
  let beyond := decide (e.budget ≠ 0) && decide (e.budget.toNat < cnt.toNat)
  let e1 := { e with cnt := cnt, beyond := e.beyond || beyond
                     widest := if e.widest = 15 then step else max e.widest step }
  let s1 := { s with stile := { s.stile with esc := e1 } }
  let s2 := if e.cnt = 0 ∨ (cnt.toNat % 4096 = 0 ∧ cnt ≠ e.cnt) then
    raiseEvent s1 0 1 0 (escData s i slot step layer) else s1
  if beyond ∧ !e.beyond then raiseAlarm s2 1 0 1 else s2

/-- Stile's count of an exhausting ESC.MARK (R171, R172, R174). -/
def countExh (s : State) (i slot step worst layer : Nat) : State :=
  let e := s.stile.esc
  let first := !(s.sett i).exhOnce
  let e1 := { e with exhCnt := satAdd e.exhCnt 1, exh := true, exhStep := min e.exhStep step
                     exhSetts := if first then e.exhSetts + 1 else e.exhSetts
                     worst := max e.worst worst }
  let s1 := ({ s with stile := { s.stile with esc := e1 } }).setSett i fun t => { t with exhOnce := true }
  if e.exhCnt = 0 then raiseEvent s1 0 1 0 (escData s i slot step layer) else s1

/-- Does the running run execute on the sett: it is not in a self-test or diagnostic sequence (R171)? -/
def State.runsOn (s : State) (i : Nat) : Bool := s.stile.cur.isSome && s.settMode i == 0

/-- ESC.MARK (R116, R168); Stile counts those of the running run (R171). -/
def effEscMark (i seq : Nat) (f : LayT) (s : State) : Eff :=
  let n := modSlot14 f
  let k := (s.sett i).slot n
  match k.next with
  | some x =>
    let s1 := s.setSett i fun t =>
      ((t.setSlot n fun k => { k with clips := 0, qsheds := 0, worst := 0, blocks := 0, step := x, spanSeq := seq }).setS
        f.sd (BitVec.ofNat 64 x)).flag flMarked
    .done (if k.declared ∧ s.runsOn i then countEsc s1 i n x k.layerId else s1)
  | none =>
    let s1 := s.setSett i fun t => (t.setS f.sd (BitVec.ofNat 64 k.step)).flag flExhausted
    .done (if s.runsOn i then countExh s1 i n k.step k.worst k.layerId else s1)

/-- ESC.PIN (R169). -/
def effEscPin (i : Nat) (f : LayT) (s : State) : Eff :=
  .done (s.setSett i fun t => t.setSlot (modSlot14 f) fun k => { k with pin := true })

/-- ESC.CLR (R168). -/
def effEscClr (i seq : Nat) (f : LayT) (s : State) : Eff :=
  .done (s.setSett i fun t => t.setSlot (modSlot14 f) fun k =>
    { k with clips := 0, qsheds := 0, worst := 0, blocks := 0, spanSeq := seq
             step := if k.pin then k.step else k.base })

end Sys2Proof.Machine
end

