-- ==== Sys2Proof/Machine/Window.lean ====
section
/-! DEFINITION. The window streamer and the frequency path: class 0x7 (R108, R249–R266). -/

namespace Sys2Proof.Machine

/-! Geometry (R249–R251); axis 0 is x, 1 is y, 2 is t -/

def winStride (f : LayW) (d : Nat) : Nat := field f.stride.toNat (4 * d + 3) (4 * d) + 1
def winDil (f : LayW) (d : Nat) : Nat := field f.dil.toNat (4 * d + 3) (4 * d) + 1
def winLo (ext : W64) (d : Nat) : Nat := field ext.toNat (16 * d + 7) (16 * d)
def winHi (ext : W64) (d : Nat) : Nat := field ext.toNat (16 * d + 15) (16 * d + 8)
def winK (ext : W64) (d : Nat) : Nat := field ext.toNat (51 + 4 * d) (48 + 4 * d) + 1

/-- Valid count of AA along an axis; 1 at or beyond RANK (R249), 0 for a kind-1 operand (R577). -/
def winIn (t : Sett) (aa : BitVec 4) (d : Nat) : Nat :=
  let x := t.areg aa
  if descRank x ≤ d + 1 then 1 else if descKind1 x then 0 else descValid x (d + 1)

/-- Output extent along an axis (R250). -/
def winOut (f : LayW) (ext : W64) (inp : Nat) (d : Nat) : Nat :=
  let num : Int := (inp : Int) + winLo ext d + winHi ext d - winDil f d * (winK ext d - 1 : Nat) - 1
  (num.fdiv (winStride f d) + 1).toNat

/-- Input coordinate of position `o`, tap `j` on an axis; none for padding (R251). -/
def winCoord (f : LayW) (ext : W64) (inp d o j : Nat) : Option Nat :=
  let x : Int := (o : Int) * winStride f d - winLo ext d + (j : Int) * winDil f d
  if x < 0 ∨ (inp : Int) ≤ x then none else some x.toNat

/-- A WIN instruction's geometry. -/
structure WinGeo where
  inp : List Nat
  out : List Nat
  k : List Nat
  deriving DecidableEq, Repr

def winGeo (t : Sett) (f : LayW) (ext : W64) : WinGeo :=
  let inp := [0, 1, 2].map fun d => winIn t f.aa d
  { inp := inp
    out := [0, 1, 2].map fun d => winOut f ext (inp.getD d 1) d
    k := [0, 1, 2].map fun d => winK ext d }

def WinGeo.positions (g : WinGeo) : Nat := g.out.getD 0 0 * g.out.getD 1 0 * g.out.getD 2 0
def WinGeo.taps (g : WinGeo) : Nat := g.k.getD 0 1 * g.k.getD 1 1 * g.k.getD 2 1

/-- Input coordinates (x, y, t) of position `m` and tap number `j`, none for padding. -/
def WinGeo.at (g : WinGeo) (f : LayW) (ext : W64) (m j : Nat) : Option (Nat × Nat × Nat) :=
  let ox := g.out.getD 0 1
  let oy := g.out.getD 1 1
  let kx := g.k.getD 0 1
  let ky := g.k.getD 1 1
  match winCoord f ext (g.inp.getD 0 0) 0 (m % ox) (j % kx),
        winCoord f ext (g.inp.getD 1 0) 1 (m / ox % oy) (j / kx % ky),
        winCoord f ext (g.inp.getD 2 0) 2 (m / ox / oy) (j / kx / ky) with
  | some x, some y, some t => some (x, y, t)
  | _, _, _ => none

/-- AA as the WIN opcodes read it: valid count 1 on each axis at or beyond RANK (R249). -/
def winTens (t : Sett) (aa : BitVec 4) (f : Fmt) : Tens :=
  let x := scrTensAs t aa f
  { x with d := [1, 2, 3].foldl (fun d k =>
      if descRank d ≤ k ∧ !descKind1 d then descPut d (128 + 16 * k + 15) (128 + 16 * k) 1 else d) x.d }

/-- Activations of position `m` along the plane rows (R254). -/
def winRow (i : Nat) (f : LayW) (ext : W64) (g : WinGeo) (src : Tens) (depth m : Nat) (s : State) :
    Res (List (Option Val)) :=
  let c := src.valid 0
  Res.mapM (fun r s =>
    match g.at f ext m (r / c) with
    | none => .ok none s
    | some p => src.readOpt i (r % c, p.1, p.2.1, p.2.2) s)
    (List.range (min (g.taps * c) depth)) s

/-- One position of WIN.CONV. -/
def convRow (i seq : Nat) (f : LayW) (ext : W64) (g : WinGeo) (src : Tens) (depth m : Nat) (s : State) :
    Res Unit :=
  (winRow i f ext g src depth m s).bind fun vs s =>
    let t := s.sett i
    let lb := b2n f.lb
    let b := t.bank lb
    if f.acc ∧ b.badParity (128 * m) 128 then .bad 0x0208 s
    else
      let r := rowTerms t.active f.acc m vs b
      .ok () (s.setSett i fun t => (t.setBank lb r.1).termEvents seq r.2)

/-- WIN.CONV (R252–R256). -/
def effWinConv (i seq : Nat) (f : LayW) (ext : W64) (prog : Nat) (s : State) : Eff :=
  let s0 := if f.swap ∧ prog = 0 then s.setSett i fun t => { t with active := t.shadow, shadow := t.active }
    else s
  let t := s0.sett i
  let g := winGeo t f ext
  let fm := (Fmt.ofCode f.fmt.toNat).getD .fp8a
  let s1 := flagEmptyOps i [f.aa] s0
  if g.positions = 0 then .done (s1.flag i flEmpty)
  else stepsFrom i (convRow i seq f ext g (winTens t f.aa fm.actFmt) fm.depth) (min g.positions 128) prog s1

/-- Pooled value of a window: largest element, or the mean rounded once (R258). An element outside the descriptor's region
(none) leaves the maximum and counts as zero in the mean (R93, R269). -/
def poolVal (pk : Nat) (ws : List (Option Val)) : Val :=
  match if pk = 0 then ws.filterMap id else ws.map fun v => v.getD (.fin 0) with
  | [] => .fin 0
  | v :: t => if pk = 0 then t.foldl Val.max v
    else rn ((t.foldl Val.add v).div (.fin (ws.length : Nat)))

/-- Pooled values of one position of WIN.POOL, a value for each channel. -/
def poolRow (i : Nat) (f : LayW) (ext : W64) (g : WinGeo) (src : Tens) (m : Nat) (s : State) : Res (List Val) :=
  let at' := (List.range g.taps).filterMap fun j => g.at f ext m j
  (Res.mapM (fun c s =>
    (Res.mapM (fun (p : Nat × Nat × Nat) s => src.readOpt i (c, p.1, p.2.1, p.2.2) s) at' s).bind fun vs s =>
      .ok (poolVal f.pk.toNat vs) s) (List.range (src.valid 0)) s)

/-- Store the values of position `m`. -/
def poolStore (i : Nat) (g : WinGeo) (dst : Tens) (m : Nat) (ys : List Val) (s : State) : Res Unit :=
  let ox := g.out.getD 0 1
  let oy := g.out.getD 1 1
  let s := if ys.any Val.isNan then s.flag i flInvalid else s
  (Res.mapM (fun b s => storePrefix i .fp32 dst ⟨m % ox, m / ox % oy, m / ox / oy, b⟩
    ((ys.drop (32 * b)).take 32) s) (List.range (ceilDiv (dst.valid 0) 32)) s).bind fun _ s => .ok () s

/-- WIN.POOL (R258, R259): every window is read before the first result is stored, so that a
destination equal to the source works in place (R94). -/
def effWinPool (i : Nat) (f : LayW) (ext : W64) (s : State) : Eff :=
  let t := s.sett i
  let g := winGeo t f ext
  let fm := (Fmt.ofCode f.fmt.toNat).getD .fp32
  let s1 := flagEmptyOps i [f.aa, f.ad] s
  if g.positions = 0 then .done (s1.flag i flEmpty)
  else Res.toEff ((Res.mapM (poolRow i f ext g (winTens t f.aa fm)) (List.range g.positions) s1).bind fun rows s =>
    (Res.mapM (fun m s => poolStore i g (scrTensAs t f.ad fm) m (rows.getD m []) s)
      (List.range g.positions) s).bind fun _ s => .ok () s)

/-! Transforms (R261–R266) -/

/-- The complex entries an operand holds in dimension 0 of row 0. -/
def complexAt (i : Nat) (t : Tens) (m : Nat) (s : State) : Res (Val × Val) :=
  (t.readVal i (2 * m, 0, 0, 0) s).bind fun a s =>
    (t.readVal i (2 * m + 1, 0, 0, 0) s).bind fun b s => .ok (a, b) s

/-- Exact complex product terms: real and imaginary sums. -/
def cmulExact (a b : Val × Val) : Val × Val :=
  ((a.1.mul b.1).sub (a.2.mul b.2), (a.1.mul b.2).add (a.2.mul b.1))

def cconj (a : Val × Val) : Val × Val := (a.1, a.2.neg)

/-- RN of an exact sum with its flags: INVALID for NaN, OVERFLOW for infinity from a finite sum (R266). -/
def rnFlag (v : Val) : Val × Fl :=
  let r := rn v
  match v, r with
  | .nan, _ => (r, flInvalid)
  | .fin _, .inf _ => (r, flOverflow)
  | _, _ => (r, flNone)

/-- Complex points of a row: pairs of its elements, zero beyond the valid ones. -/
def pairUp : Nat → List Val → List (Val × Val)
  | 0, _ => []
  | n + 1, a :: b :: t => (a, b) :: pairUp n t
  | n + 1, [a] => (a, .fin 0) :: pairUp n []
  | n + 1, [] => (.fin 0, .fin 0) :: pairUp n []

/-- Output point `p` of a stage of radix `r` entering with `l` points per group done (R263). -/
def fftPoint (n r l : Nat) (w : Nat → Val × Val) (y : List (Val × Val)) (p : Nat) : Val × Val :=
  let t := n / (l * r)
  let k := p / t
  let k1 := k % l
  let k2 := k / l
  let tt := p % t
  let terms := (List.range r).map fun u =>
    cmulExact (w (u * (k1 * t + k2 * n / r) * 4096 / n % 4096)) (y.getD (k1 * r * t + u * t + tt) (.fin 0, .fin 0))
  terms.foldl (fun a x => (a.1.add x.1, a.2.add x.2)) (.fin 0, .fin 0)

/-- One transform of one stage: `k` counts stages × rows. -/
def fftStep (q i : Nat) (f : LayT) (aa ad : Tens) (ws : List (Val × Val)) (logn first batch k : Nat) (s : State) :
    Res Unit :=
  let n := 2 ^ logn
  let r := 2 ^ q
  let stage := k / batch
  let c := rowCoords (aa.valid 1) (aa.valid 2) (k % batch)
  let l := 2 ^ (first + q * stage)
  let inv := bit f.md.toNat 17
  ((if stage = 0 then aa else ad).readRow i c s).bind fun xs s =>
      let w := fun m => let e := ws.getD m (.fin 0, .fin 0); if inv then cconj e else e
      let ys := (List.range n).map fun p => fftPoint n r l w (pairUp n (xs.map rn)) p
      let out := (ys.map fun y => [rnFlag y.1, rnFlag y.2]).flatten
      let s := s.flag i (out.foldl (fun a x => a ||| x.2) flNone)
      (Res.mapM (fun b s => storePrefix i .fp32 ad ⟨c.1, c.2.1, c.2.2, b⟩
        (((out.map (·.1)).drop (32 * b)).take 32) s) (List.range (ceilDiv (2 * n) 32)) s).bind fun _ s => .ok () s

/-- R261: SA and the operands name a transform; else the opcode writes nothing and sets EMPTY. -/
def fftWorks (q : Nat) (t : Sett) (f : LayT) : Bool :=
  let sa := (t.sreg f.sa).toNat
  let logn := field sa 3 0
  let count := field sa 11 8
  decide (2 ≤ logn) && decide (logn ≤ 12) && decide (count ≠ 0) && decide (field sa 7 4 + count * q ≤ logn)
    && decide (2 * 2 ^ logn ≤ (scrTens t f.aa).ext 0) && decide (2 * 2 ^ logn ≤ (scrTens t f.ad).valid 0)

/-- FFT.R4 (`q` 2) and FFT.R8 (`q` 3): SA gives points, first stage and count (R261). The twiddle
table is read before the first stage. -/
def effFft (q i : Nat) (f : LayT) (s : State) : Eff :=
  let t := s.sett i
  let sa := (t.sreg f.sa).toNat
  let logn := field sa 3 0
  let first := field sa 7 4
  let count := field sa 11 8
  let aa := scrTens t f.aa
  let ad := scrTens t f.ad
  let s1 := flagEmptyOps i [f.aa, f.ab, f.ad] s
  if fftWorks q t f = false then .done (s1.flag i flEmpty)
  else
    let batch := aa.valid 1 * aa.valid 2 * aa.valid 3
    match Res.mapM (fun m s => complexAt i (scrTens t f.ab) m s) (List.range 4096) s1 with
    | .ok ws s2 => runSteps i (fftStep q i f aa ad ws logn first batch) (count * batch) 0 s2
    | .fault c v k s2 => .fault 0 [] c v k s2
    | .bad x s2 => .bad x s2

/-- FFT.CMUL, one row of AD (R265). -/
def cmulStep (i : Nat) (f : LayT) (aa ab ad : Tens) (k : Nat) (s : State) : Res Unit :=
  let c := rowCoords (ad.valid 1) (ad.valid 2) k
  let n := ceilDiv (ad.valid 0) 2
  let row (t : Tens) (s : State) : Res (List Val) :=
    if t.rowValid c.1 c.2.1 c.2.2 then t.readRow i c s else .ok [] s
  (row aa s).bind fun xs s => (row ab s).bind fun ys s =>
    let conj := bit f.md.toNat 16
    let zs := (pairUp n (xs.map rn)).zip (pairUp n (ys.map rn))
    let out := (zs.map fun z =>
      let e := cmulExact z.1 (if conj then cconj z.2 else z.2)
      [rnFlag e.1, rnFlag e.2]).flatten
    let s := s.flag i (out.foldl (fun a x => a ||| x.2) flNone)
    (Res.mapM (fun b s => storePrefix i .fp32 ad ⟨c.1, c.2.1, c.2.2, b⟩
      (((out.map (·.1)).drop (32 * b)).take 32) s) (List.range (ceilDiv (ad.valid 0) 32)) s).bind fun _ s => .ok () s

def effFftCmul (i : Nat) (f : LayT) (s : State) : Eff :=
  let t := s.sett i
  let ad := scrTens t f.ad
  runSteps i (cmulStep i f (scrTens t f.aa) (scrTens t f.ab) ad) (ad.valid 1 * ad.valid 2 * ad.valid 3) 0
    (flagEmptyOps i [f.aa, f.ab, f.ad] s)

end Sys2Proof.Machine
end

