-- ==== Sys2Proof/Machine/Sort.lean ====
section
/-! DEFINITION. The sort unit and the merge of ranked runs: class 0x8 (R109, R228–R235); trees of
setts (R221, R222). -/

namespace Sys2Proof.Machine

/-! Keys and stable order (R229, R230) -/

def modKt (f : LayT) : Nat := field f.md.toNat 17 16
def modDesc (f : LayT) : Bool := bit f.md.toNat 15

def keyNan (kt key : Nat) : Bool := kt == 0 && (fp32Val key).isNan

/-- Numeric comparison of two keys that are not NaN. -/
def keyLt (kt a b : Nat) : Bool :=
  match kt with
  | 0 => (fp32Val a).lt (fp32Val b)
  | 1 => decide (signed 32 a < signed 32 b)
  | _ => decide (a < b)

/-- Does key `a` strictly precede key `b`? NaN follows every key in both directions. -/
def keyBefore (kt : Nat) (desc : Bool) (a b : Nat) : Bool :=
  if keyNan kt a then false
  else if keyNan kt b then true
  else if desc then keyLt kt b a else keyLt kt a b

/-- Insert `x` before every element that it does not follow, so equal keys keep their order. -/
def insertBy {α : Type} (before : α → α → Bool) (x : α) : List α → List α
  | [] => [x]
  | y :: t => if before y x then y :: insertBy before x t else x :: y :: t

/-- Stable sort. -/
def stableSort {α : Type} (before : α → α → Bool) : List α → List α
  | [] => []
  | x :: t => insertBy before x (stableSort before t)

/-- Stable merge; the first list's elements come first where keys are equal. -/
def stableMerge {α : Type} (before : α → α → Bool) (a b : List α) : List α :=
  b.foldl (fun acc y => insertAfter y acc) a
where
  insertAfter (y : α) : List α → List α
    | [] => [y]
    | x :: t => if before y x then y :: x :: t else x :: insertAfter y t

def inOrder {α : Type} (before : α → α → Bool) : List α → Bool
  | a :: b :: t => !before b a && inOrder before (b :: t)
  | _ => true

/-! Pair operands (R228, R231) -/

def isWordFmt (f : Fmt) : Bool := f == .fp32 || f == .i32 || f == .u32

/-- Pairs of AA: at most 4,096. -/
def readPairs (i : Nat) (t : Tens) (s : State) : Res (List (Nat × Nat)) :=
  let word (j : Nat) (s : State) : Res Nat :=
    (t.readElem i (t.validAt j) s).bind fun r s =>
      .ok (match r with
        | some (some c, _) => c
        | _ => 0) s
  Res.mapM (fun k s => (word (2 * k) s).bind fun a s => (word (2 * k + 1) s).bind fun b s => .ok (a, b) s)
    (List.range (min (t.validCount / 2) 4096)) s

/-- Write pairs to AD's valid elements in linear order; answers how many were written. -/
def writePairs (i : Nat) (t : Tens) (ps : List (Nat × Nat)) (s : State) : Res Nat :=
  let n := min ps.length (t.validCount / 2)
  (Res.mapM (fun k s =>
    let p := ps.getD k (0, 0)
    (t.writeWide i (t.validAt (2 * k)) p.1 s).bind fun _ s =>
      t.writeWide i (t.validAt (2 * k + 1)) p.2 s) (List.range n) s).bind fun _ s => .ok n s

def anyNanKey (kt : Nat) (ps : List (Nat × Nat)) : Bool := ps.any fun p => keyNan kt p.1

def setSd (i : Nat) (sd : BitVec 5) (v : Nat) (s : State) : State :=
  s.setSett i fun t => t.setS sd (BitVec.ofNat 64 v)

/-- SORT.PAIRS (`top` none) and SORT.TOPK (`top` the unsigned SA). -/
def effSort (i : Nat) (f : LayT) (top : Option Nat) (s : State) : Eff :=
  let t := s.sett i
  let aa := scrTens t f.aa
  let ad := scrTens t f.ad
  let s1 := flagEmptyOps i [f.aa, f.ad] s
  if !isWordFmt (descFormat t f.aa) || !isWordFmt (descFormat t f.ad) then
    .done (setSd i f.sd 0 (s1.flag i flEmpty))
  else if top = some 0 then .done (setSd i f.sd 0 (s1.flag i flEmpty))
  else
    let kt := modKt f
    Res.toEff ((readPairs i aa s1).bind fun ps s =>
      let s := if anyNanKey kt ps then s.flag i flInvalid else s
      let q := stableSort (fun a b : Nat × Nat => keyBefore kt (modDesc f) a.1 b.1) ps
      (writePairs i ad (match top with
        | some k => q.take k
        | none => q) s).bind fun n s => .ok () (setSd i f.sd n s))

def effSortPairs (i : Nat) (f : LayT) (s : State) : Eff := effSort i f none s
def effSortTopk (i : Nat) (f : LayT) (s : State) : Eff :=
  effSort i f (some ((s.sett i).sreg f.sa).toNat) s

/-! Trees across setts (R221, R222, R232) -/

/-- A member's place in its tree: the physical setts of the members in order, and its own index. -/
structure Tree where
  members : List Nat
  self : Nat
  deriving DecidableEq, Repr

/-- Span `[c0, c0 + w)` along the sett's row (axis 0) or column, limited to the run's grid; a sett
outside it forms a tree of itself alone. -/
def treeOf (s : State) (i c0 w : Nat) (axis : Bool) : Tree :=
  match s.logicalOf i, s.stile.cur with
  | some (r, c), some run =>
    let pos := if axis then r else c
    let lim := if axis then run.manifest.rows else run.manifest.cols
    let hi := min (c0 + w) lim
    if c0 ≤ pos ∧ pos < hi then
      { members := (iota c0 (hi - c0)).map fun k => if axis then s.physOf k c else s.physOf r k
        self := pos - c0 }
    else ⟨[i], 0⟩
  | _, _ => ⟨[i], 0⟩

/-- The first mesh entry of a sett that satisfies `p`. -/
def meshEntry (t : Sett) (p : QEntry → Bool) : Option QEntry :=
  t.queue.find? fun e => decide (e.unit = .mesh) && p e

def Sett.setEntry (t : Sett) (seq : Nat) (f : QEntry → QEntry) : Sett :=
  { t with queue := t.queue.map fun e => if e.seq = seq then f e else e }

/-- A pair in a merge: key, index, member, position in the member's run. -/
structure MPair where
  key : Nat
  idx : Nat
  mem : Nat
  pos : Nat
  deriving DecidableEq, Repr

def encPairs : List MPair → List Nat
  | [] => []
  | p :: t => p.key :: p.idx :: p.mem :: p.pos :: encPairs t

def decPairs : List Nat → List MPair
  | a :: b :: c :: d :: t => ⟨a, b, c, d⟩ :: decPairs t
  | _ => []

/-- What a SORT.MERGE asks for, as its register operands stand (R232). -/
structure MergeReq where
  sa : Nat
  kt : Nat
  desc : Bool
  deriving DecidableEq, Repr

def mergeReq (t : Sett) (f : LayT) : MergeReq := ⟨(t.sreg f.sa).toNat % 2 ^ 24, modKt f, modDesc f⟩
def MergeReq.keep (r : MergeReq) : Nat := field r.sa 23 12 + 1
def MergeReq.back (r : MergeReq) : Bool := bit r.sa 11
def MergeReq.tree (r : MergeReq) (s : State) (i : Nat) : Tree :=
  treeOf s i (field r.sa 4 0) (field r.sa 9 5 + 1) (bit r.sa 10)

/-- Level at which a member other than 0 sends: one more than its lowest set bit. -/
def sendLevel : Nat → Nat → Nat
  | 0, _ => 0
  | n + 1, j => if j % 2 = 1 then 1 else 1 + sendLevel n (j / 2)

/-- Upward phases count levels; a sender that has been heard waits in phase 1000, and has its
boundary in phase 2000. -/
def phaseSent : Nat := 1000
def phaseBack : Nat := 2000

/-- Does the member's instruction name a descriptor that holds no pairs (R228)? -/
def mergeMute (t : Sett) (f : LayT) : Bool := !isWordFmt (descFormat t f.aa) || !isWordFmt (descFormat t f.ad)

/-- Final write of a member: the pairs of its list, or where the spec leaves the result open (R233, R235) a function of
the runs, which `runs` gives with every pair's member and position. A member that names no pairs writes nothing. SD counts
the member's share of G, even where AD holds no room for it (R233). -/
def mergeFinish (i self : Nat) (f : LayT) (runs : Option (List Nat)) (ps : List (Nat × Nat)) (s : State) : Res Unit :=
  let ad := scrTens (s.sett i) f.ad
  if mergeMute (s.sett i) f then .ok () (setSd i f.sd 0 s)
  else match runs with
    | some l =>
      let q (k : Nat) : Nat := (Config.mergeOpen l (16384 * self + k)).toNat
      (writePairs i ad ((List.range (min (ad.validCount / 2) 4096)).map fun k => (q (2 * k + 1) % 2 ^ 32, q (2 * k + 2) % 2 ^ 32)) s).bind
        fun _ s => .ok () (setSd i f.sd (q 0) s)
    | none => (writePairs i ad ps s).bind fun _ s => .ok () (setSd i f.sd ps.length s)

/-- Sender's waiting entry at `level`, if it has arrived. -/
def senderEntry (t : Sett) (level : Nat) : Option (QEntry × LayT) :=
  match meshEntry t (fun e => match e.instr with
      | .sortMerge _ _ _ => decide (e.st = .waiting .merge) && decide (e.prog = level - 1)
      | _ => false) with
  | some e => match e.instr with
    | .sortMerge _ _ f => some (e, f)
    | _ => none
  | none => none

/-- Tell the members that a member received from (levels below its own) what they keep: `aux` is 0 and the members' prefix
lengths, or for an open result 1 and the runs. -/
def sendBack (tree : Tree) (levels : Nat) (aux : List Nat) (s : State) : State :=
  (List.range levels).foldl (fun s l =>
    match tree.members[tree.self + 2 ^ l]? with
    | none => s
    | some p => s.setSett p fun t =>
      { t with queue := t.queue.map fun e => match e.instr with
          | .sortMerge _ _ _ => if e.prog = phaseSent ∧ e.unit = .mesh then { e with prog := phaseBack, aux := aux } else e
          | _ => e }) s

/-- Upward climb of a receiver from level `lv` with held pairs `ps`. The model holds every pair up to the top, where the
first K are kept: with runs in order that is what R234 keeps. -/
def climb (i : Nat) (f : LayT) (r : MergeReq) (tree : Tree) :
    Nat → Nat → Bool → List MPair → State → Eff
  | 0, lv, op, ps, s => .wait .merge lv (b2n op :: encPairs ps) s
  | fuel + 1, lv, op, ps, s =>
    let j := tree.self
    if 2 ^ lv < tree.members.length + 0 ∧ j / 2 ^ lv % 2 = 1 then
      .wait .merge lv (b2n op :: encPairs ps) s
    else if tree.members.length ≤ 2 ^ lv then
      -- the top: member 0 holds G
      let g := ps.take r.keep
      let runs := if op then some (encPairs ps) else none
      if !r.back then (mergeFinish i 0 f runs (g.map fun p => (p.key, p.idx)) s).toEff
      else
        let counts := (List.range tree.members.length).map fun m => (g.filter fun p => p.mem == m).length
        let s1 := sendBack tree lv (b2n op :: runs.getD counts) s
        (mergeFinish i 0 f runs ((g.filter fun p => p.mem == 0).map fun p => (p.key, p.idx)) s1).toEff
    else
      match tree.members[j + 2 ^ lv]? with
      | none => climb i f r tree fuel (lv + 1) op ps s
      | some p =>
        match senderEntry (s.sett p) (lv + 1) with
        | none => .wait .merge lv (b2n op :: encPairs ps) s
        | some (e, g) =>
          let op' := op || decide (e.aux.headD 0 = 1) || decide (mergeReq (s.sett p) g ≠ r)
          let q := stableMerge (fun a b : MPair => keyBefore r.kt r.desc a.key b.key) ps (decPairs e.aux.tail)
          let s1 := s.setSett p fun t =>
            if r.back then t.setEntry e.seq fun e => { e with prog := phaseSent }
            else (t.setEntry e.seq fun e => { e with st := .done }).setS g.sd 0
          climb i f r tree fuel (lv + 1) op' q s1

/-- SORT.MERGE (R232–R235). The held pairs and the phase are the progress record. -/
def effSortMerge (i : Nat) (f : LayT) (prog : Nat) (aux : List Nat) (s : State) : Eff :=
  let t := s.sett i
  let r := mergeReq t f
  let tree := r.tree s i
  let aa := scrTens t f.aa
  if prog = phaseSent then .wait .merge prog aux s
  else if prog = phaseBack then
    let n := aux.getD (1 + tree.self) 0
    let s1 := sendBack tree (sendLevel 6 tree.self - 1) aux s
    ((readPairs i aa s1).bind fun ps s =>
      mergeFinish i tree.self f (if aux.headD 0 = 1 then some aux.tail else none) (ps.take n) s).toEff
  else if aux.isEmpty then
    let s1 := flagEmptyOps i [f.aa, f.ad] s
    let s2 := if mergeMute t f then s1.flag i flEmpty else s1
    match (if isWordFmt (descFormat t f.aa) then readPairs i aa s2 else .ok [] s2) with
    | .ok ps s2 =>
      let s3 := if anyNanKey r.kt ps then s2.flag i flInvalid else s2
      let op := !inOrder (fun a b : Nat × Nat => keyBefore r.kt r.desc a.1 b.1) ps
      climb i f r tree 8 0 op ((List.range ps.length).map fun k =>
        let p := ps.getD k (0, 0)
        (⟨p.1, p.2, tree.self, k⟩ : MPair)) s3
    | .fault c va k s' => .fault 0 [] c va k s'
    | .bad x s' => .bad x s'
  else climb i f r tree 8 prog (decide (aux.headD 0 = 1)) (decPairs aux.tail) s

end Sys2Proof.Machine
end

