-- ==== Sys2Proof/Machine/CairnOps.lean ====
section
/-! DEFINITION. The Cairn tables and their opcodes (R110, R238–R246). -/

namespace Sys2Proof.Machine

/-- Queue entries of every sett that satisfy `p` (accepted and not complete). -/
def State.entries (s : State) (p : Nat → QEntry → Bool) : Nat :=
  (s.setts.map fun e => (e.2.queue.filter fun q => p e.1 q).length).foldl (· + ·) 0

/-- Table that SA names, as the sett's register stands. -/
def cairnTable (t : Sett) (f : LayT) : Nat := (t.sreg f.sa).toNat % 2

/-- Lookups of table `tb` bound to epoch `e` that are in flight or paused (R244). -/
def lookupsBound (s : State) (tb e : Nat) : Nat :=
  s.entries fun _ q => match q.instr with
    | .cairnLookup _ _ _ => decide (q.aux.take 2 = [tb, e])
    | _ => false

/-- Fills of table `tb` bound to epoch `e`, accepted and not complete (R243). -/
def fillsBound (s : State) (tb e : Nat) : Nat :=
  s.entries fun _ q => match q.instr with
    | .cairnFill _ _ _ => decide (q.aux = [tb, e])
    | _ => false

def cairnKey (epoch page : Nat) : Nat := 65536 * (epoch % 2) + page

/-- The bank that is idle has a clear due or in progress. -/
def Cairn.clearDue (c : Cairn) : Bool := c.clearing || c.clearNeeded

/-- The numbers `k` of words of group `g`, of those below `n`: a 256-byte granule holds 32 words (R241, R242). DEDUCED: the
granules count from the operand's first word. -/
def granuleWords (n g : Nat) : List Nat := iota (32 * g) (min 32 (n - 32 * g))

/-- The page number in word `k` of AA; one beyond every table when AA holds no integer words. -/
def lookupPage (i : Nat) (aa : Tens) (k : Nat) (s : State) : Res Nat :=
  (aa.readElem i (aa.validAt k) s).bind fun r s =>
    .ok (match r with
      | some (some c, _) => if aa.fmt = .u32 ∨ aa.fmt = .i32 then c else 65536
      | _ => 65536) s

/-- The location word of a page in a bank; unset beyond the table and on a table that no run declares (R239, R240). -/
def Cairn.word (c : Cairn) (epoch page : Nat) : Nat :=
  if page < 65536 ∧ c.owned then (SMap.get 0 c.entries (cairnKey epoch page)).toNat else 0

/-- Look up pages and store their location words from word `k` on, then count them (R240, R248). -/
def lookupStore (i tb epoch : Nat) (ad : Tens) (k : Nat) (pages : List Nat) (s : State) : Res Unit :=
  let ws := pages.map ((s.cairnT tb).word epoch)
  (Res.mapM (fun (e : Nat × Nat) s =>
    (ad.writeWide i (ad.validAt (2 * e.1)) (e.2 % 2 ^ 32) s).bind fun _ s =>
      ad.writeWide i (ad.validAt (2 * e.1 + 1)) (e.2 / 2 ^ 32) s) ((iota k ws.length).zip ws) s).bind fun _ s =>
    .ok () (s.setCairn tb fun c => { c with lookupCnt := satAdd c.lookupCnt ws.length
                                            unsetCnt := satAdd c.unsetCnt (ws.filter (· == 0)).length })

/-- CAIRN.LOOKUP: bound to the epoch at acceptance, kept in its progress record (`aux`), which counts granules of AD; in
place (R94) every page number is read before the first location is stored. -/
def effCairnLookup (i : Nat) (f : LayT) (prog : Nat) (aux : List Nat) (s : State) : Eff :=
  let t := s.sett i
  let tb := aux.getD 0 (cairnTable t f)
  let epoch := aux.getD 1 (s.cairnT tb).epoch.toNat
  let aa := tens t f.aa
  let ad := tens t f.ad
  if ad.fmt ≠ .u32 then .done (setSd i f.sd epoch (s.flag i flEmpty))
  else
    let n := min aa.validCount (ad.validCount / 2)
    let marks (s : State) : Res Unit :=
      markStores i ((List.range (if ad.mem then 2 * n else 0)).map fun k => (ad.elemAddr (ad.validAt k), 4)) s
    let place (keep : List Nat) (pages : List Nat → State → Res (List Nat)) (s : State) : Eff :=
      match stepsFrom i (fun g s =>
          if g < ceilDiv n 32 then
            (pages (granuleWords n g) s).bind fun ps s => lookupStore i tb epoch ad (32 * g) ps s
          else marks s) (ceilDiv n 32 + 1) prog s with
      | .done s' => .done (setSd i f.sd epoch s')
      | .fault p _ c va k s' => .fault p (tb :: epoch :: keep) c va k s'
      | e => e
    if ad.sameExtent aa then
      if aux.length ≤ 2 then
        match Res.mapM (lookupPage i aa) (List.range n) s with
        | .ok ps s' => place ps (fun ks s => .ok (ks.map fun k => ps.getD k 65536) s) (clearTrace i s')
        | .fault c va k s' => .fault 0 [tb, epoch] c va k s'
        | .bad x s' => .bad x s'
      else
        let ps := aux.drop 2
        place ps (fun ks s => .ok (ks.map fun k => ps.getD k 65536) s) s
    else place [] (Res.mapM (lookupPage i aa)) s

/-- One word of a fill: reserved bits cleared, VALID at most 64 (R242). -/
def fillWord (lo hi : Nat) : W64 :=
  let w := lo % 2 ^ 32 + 2 ^ 32 * (hi % 2 ^ 32)
  BitVec.ofNat 64 (field w 47 0 + 2 ^ 48 * min (field w 54 48) 64)

/-- Word `k` of a fill's operand, as a pair of elements. -/
def fillRead (i : Nat) (aa : Tens) (k : Nat) (s : State) : Res W64 :=
  let half (j : Nat) (s : State) : Res Nat :=
    (aa.readElem i (aa.validAt j) s).bind fun r s =>
      .ok (match r with
        | some (some c, _) => c
        | _ => 0) s
  (half (2 * k) s).bind fun lo s => (half (2 * k + 1) s).bind fun hi s => .ok (fillWord lo hi) s

/-- Put a word at entry `e` of the bank that is idle in an epoch, or drop it (R239, R242). -/
def Cairn.fill (epoch : Nat) (c : Cairn) (e : Nat × W64) : Cairn :=
  if c.owned ∧ e.1 < 65536 then
    { c with entries := SMap.set 0 c.entries (cairnKey (epoch + 1) e.1) e.2, fillCnt := satAdd c.fillCnt 1 }
  else { c with dropCnt := satAdd c.dropCnt 1 }

/-- One granule of a fill. -/
def fillStep (i tb epoch base : Nat) (aa : Tens) (n g : Nat) (s : State) : Res Unit :=
  (Res.mapM (fillRead i aa) (granuleWords n g) s).bind fun ws s =>
    .ok () (s.setCairn tb fun c => ((iota (base + 32 * g) ws.length).zip ws).foldl (Cairn.fill epoch) c)

/-- CAIRN.FILL: waits until the target bank has no lookup of the epoch before its own and no clear; bound to the epoch at
acceptance (`aux`). -/
def effCairnFill (i : Nat) (f : LayT) (prog : Nat) (aux : List Nat) (s : State) : Eff :=
  let t := s.sett i
  let tb := aux.getD 0 (cairnTable t f)
  let c := s.cairnT tb
  let epoch := aux.getD 1 c.epoch.toNat
  let aa := tensAs t f.aa .u32
  let n := aa.validCount / 2
  let blocked := c.owned && prog == 0 &&
    (c.clearDue || (decide (0 < epoch) && decide (lookupsBound s tb (epoch - 1) ≠ 0)))
  if blocked then .wait .cairnFill 0 [tb, epoch] s
  else match stepsFrom i (fillStep i tb epoch (t.sreg f.sb).toNat aa n) (ceilDiv n 32) prog s with
    | .fault p _ c va k s' => .fault p [tb, epoch] c va k s'
    | e => e

/-- Epoch binding of a Cairn opcode when its table accepts it (R240, R242): its table and epoch. DEDUCED: the table accepts
it when its unit has come to it and its interlocks are clear. -/
def boundAux (s : State) (i : Nat) : Instr → List Nat
  | .cairnLookup _ _ f =>
    let tb := cairnTable (s.sett i) f
    [tb, (s.cairnT tb).epoch.toNat]
  | .cairnFill _ _ f =>
    let tb := cairnTable (s.sett i) f
    [tb, (s.cairnT tb).epoch.toNat]
  | _ => []

/-- CAIRN.FLIP (R243). -/
def effCairnFlip (i : Nat) (f : LayT) (s : State) : Eff :=
  let t := s.sett i
  let tb := cairnTable t f
  let c := s.cairnT tb
  if !c.owned then .done (setSd i f.sd 0 s)
  else if c.epoch ≠ t.sreg f.sb then .done (setSd i f.sd c.epoch.toNat s)
  else if c.clearDue || decide (fillsBound s tb c.epoch.toNat ≠ 0) then .wait .cairnFlip 0 [] s
  else
    let e := c.epoch + 1
    .done (setSd i f.sd e.toNat (s.setCairn tb fun c =>
      { c with epoch := e, clearNeeded := true, retired := c.epoch.toNat }))

/-- Clear starts once no lookup of the retired epoch remains (R244). -/
def cairnClearStart (tb : Nat) (s : State) : State :=
  let c := s.cairnT tb
  if c.clearNeeded ∧ lookupsBound s tb c.retired = 0 then
    s.setCairn tb fun c => { c with clearNeeded := false, clearing := true }
  else s

/-- The retired bank is clear. -/
def cairnClearDone (tb : Nat) (s : State) : State :=
  s.setCairn tb fun c =>
    if c.clearing then
      { c with clearing := false, entries := SMap.clear c.entries (cairnKey c.retired 0) 65536 }
    else c

end Sys2Proof.Machine
end

