-- ==== Sys2Proof/Machine/Attn.lean ====
section
/-! DEFINITION. Attention across setts and the paged KV cache (R200–R227), with the Lintel word
operations they share with class 0xB (R70, R112, R208, R352, R354). -/

namespace Sys2Proof.Machine

/-! Lintel words -/

/-- The 64-bit word at `va`, its low three bits ignored (R112). -/
def lintelRead (i va : Nat) (kind : AccKind) (s : State) : Res Nat :=
  (readMem i (va / 8 * 8) 8 kind s).bind fun bs s => .ok (leNat bs) s

/-- One atomic on a word: answers the old value (R352). -/
def lintelAtomic (i va : Nat) (f : Nat → Nat) (s : State) : Res Nat :=
  (lintelRead i va .atomic s).bind fun w s => (writeMem i (va / 8 * 8) (leBytes (f w) 8) s).bind fun _ s => .ok w s

/-- Canonical address of a word that a wait names. -/
def wordAddr (s : State) (i va : Nat) : Nat :=
  match translate s (settAg s i) .waitOp (va / 8 * 8) with
  | .ok (.dev ca) => ca
  | _ => 0

/-- The words on which Lintel slices hold waits: those of setts, and the counters of codec streams (R468). -/
def State.waitAddrs (s : State) : List Nat :=
  s.mem.waits.map (·.addr) ++ s.codec.streams.filterMap fun e => e.2.bind (·.wait)

/-- Waits held by the slice that serves a canonical address. -/
def sliceWaits (s : State) (ca : Nat) : Nat :=
  (s.waitAddrs.filter fun a => decide (homeDie a = homeDie ca) &&
    decide (Config.lintelSlice (a / 256) = Config.lintelSlice (ca / 256))).length

/-- Register a wait with its slice; a full table returns it, counted (R354). -/
def registerWait (w : LintelWait) (s : State) : State :=
  if s.mem.waits.contains w then s
  else if 1024 ≤ sliceWaits s w.addr then
    s.setDie (homeDie w.addr) fun d => { d with lWaitOvfCnt := satAdd d.lWaitOvfCnt 1 }
  else { s with mem := { s.mem with waits := s.mem.waits ++ [w] } }

/-- Drop a wait. -/
def dropWait (w : LintelWait) (s : State) : State :=
  { s with mem := { s.mem with waits := s.mem.waits.filter (· ≠ w) } }

/-- Is a wait satisfied by the word's value? -/
def LintelWait.met (w : LintelWait) (v : Nat) : Bool := if w.pop then v != 0 else decide (w.value ≤ v)

/-- Wait for a word: its value once it satisfies the wait, none while it does not. -/
def lintelWait (i va : Nat) (pop : Bool) (value : Nat) (s : State) : Res (Option Nat) :=
  (lintelRead i va .waitOp s).bind fun v s =>
    let w : LintelWait := ⟨wordAddr s i va, pop, value, i⟩
    if w.met v then .ok (some v) (dropWait w s) else .ok none (registerWait w s)

/-! Pools and sequences (R200–R205) -/

/-- The fields of a pool block that the opcodes use; `hd` is D, 0 for the reserved DIM. -/
structure Pool where
  ring : Nat
  ringSize : Nat
  bf16 : Bool
  heads : Nat
  hd : Nat
  pages : Nat
  pageBytes : Nat
  deriving DecidableEq, Repr

def poolOf (b : List Byte) : Pool :=
  let g := recField b 28 4
  { ring := recField b 16 8, ringSize := recField b 24 4, bf16 := decide (field g 3 0 = 1)
    heads := field g 11 4
    hd := match field g 13 12 with
      | 0 => 64
      | 1 => 128
      | 2 => 192
      | _ => 0
    pages := recField b 32 8, pageBytes := recField b 40 4 }

def Pool.fmt (p : Pool) : Fmt := if p.bf16 then .bf16 else .fp8a
/-- Element bytes of one part of a head block, EB (R200). -/
def Pool.eb (p : Pool) : Nat := if p.bf16 then 128 * p.hd else 64 * p.hd
/-- Scale bytes of one part of a head block, SBy (R212). -/
def Pool.sb (p : Pool) : Nat := if p.bf16 then 0 else 2 * p.hd
def Pool.hb (p : Pool) : Nat := 2 * (p.eb + p.sb)
/-- Bytes of one token's elements in a part, and of its scales. -/
def Pool.tokE (p : Pool) : Nat := p.eb / 64
def Pool.tokS (p : Pool) : Nat := p.sb / 64

/-- A location word (R201): address and VALID, at most 64. -/
def locVa (w : Nat) : Nat := field w 47 0
def locValid (w : Nat) : Nat := min (field w 54 48) 64

/-! KV.LOAD (R212–R214) -/

/-- The location words that AA holds of `n` pages, read before the first of them can be overwritten in place (R94). -/
def kvWords (i : Nat) (aa : Tens) (n : Nat) (s : State) : Res (List Nat) :=
  let half (e : Nat) (s : State) : Res Nat :=
    (aa.readElem i (e, 0, 0, 0) s).bind fun r s =>
      .ok (match r with
        | some (some c, _) => c
        | _ => 0) s
  Res.mapM (fun k s => (half (2 * k) s).bind fun lo s => (half (2 * k + 1) s).bind fun hi s => .ok (lo + 2 ^ 32 * hi) s)
    (List.range n) s

/-- Part `j % 4` (K elements, K scales, V elements, V scales) of the block of page `j / 4` of those that location words name:
where its valid tokens lie, their bytes, where they go and the bytes of the whole part. -/
def kvPart (p : Pool) (head : Nat) (words : List Nat) (ad : Tens) (j : Nat) : Nat × Nat × Nat × Nat :=
  let k := j / 4
  let n := words.length
  let b := locVa (words.getD k 0) + head * p.hb
  let v := locValid (words.getD k 0)
  match j % 4 with
  | 0 => (b, p.tokE * v, ad.base + k * p.eb, p.eb)
  | 1 => (b + p.eb, p.tokS * v, ad.base + n * p.eb + k * p.sb, p.sb)
  | 2 => (b + p.eb + p.sb, p.tokE * v, ad.base + n * (p.eb + p.sb) + k * p.eb, p.eb)
  | _ => (b + 2 * p.eb + p.sb, p.tokS * v, ad.base + n * (2 * p.eb + p.sb) + k * p.sb, p.sb)

/-- Copy one part from its granule `g` on, then zeros beyond the valid tokens. -/
def kvLoadPart (i : Nat) (p : Pool) (head : Nat) (words : List Nat) (ad : Tens) (j g : Nat) (s : State) : Eff :=
  let q := kvPart p head words ad j
  let gs := granules q.1 q.2.1
  stepsFrom i (fun g s => match gs[g]? with
    | some x => (readMem i x.1 x.2 .read s).bind fun bs s => ad.writeBytes i (q.2.2.1 + (x.1 - q.1)) bs s
    | none => ad.writeBytes i (q.2.2.1 + q.2.1) (leBytes 0 (q.2.2.2 - q.2.1)) s) (gs.length + 1) g s

/-- Parts from number `j` on; progress counts 128 for a part and 1 for a granule. -/
def kvLoadGo (i : Nat) (p : Pool) (head : Nat) (words : List Nat) (ad : Tens) : Nat → Nat → Nat → State → Eff
  | 0, _, _, s => .done s
  | fuel + 1, j, g, s =>
    match kvLoadPart i p head words ad j g s with
    | .done s' => kvLoadGo i p head words ad fuel (j + 1) 0 s'
    | .fault g' _ c va k s' => .fault (128 * j + g') words c va k s'
    | e => e

/-- KV.LOAD (R212–R214); its progress record holds the location words. -/
def effKvLoad (i : Nat) (f : LayT) (prog : Nat) (aux : List Nat) (s0 : State) : Eff :=
  let s := flagEmptyOps i [f.aa, f.ad] s0
  let t := s.sett i
  let aa := scrTensAs t f.aa .u32
  let ad := scrTens t f.ad
  match readMem i (t.sreg f.sa).toNat 64 .read s with
  | .fault c v k s => .fault prog aux c v k s
  | .bad x s => .bad x s
  | .ok b s =>
    let p := poolOf b
    let head := (t.sreg f.sb).toNat
    if p.heads ≤ head ∨ p.hb = 0 then .done (s.flag i flEmpty)
    else
      let cap := if ad.d = 0 then 0 else descSpan ad.d ad.fmt.bits
      let n := min (aa.valid 0 / 2) (cap / p.hb)
      match if aux.isEmpty then kvWords i aa n s else .ok aux s with
      | .ok words s => kvLoadGo i p head words ad (4 * n - prog / 128) (prog / 128) (prog % 128) s
      | .fault c v k s => .fault prog aux c v k s
      | .bad x s => .bad x s

/-! KV.SUMM (R215) -/

def valSum (vs : List Val) : Val := vs.foldl Val.add (.fin 0)

/-- Head `k % heads` of page `k / heads`. DESIGN CHOICE: of a VALID1 above 64, which R215 excludes without saying what it
does, every token enters the mean. -/
def kvSummStep (i : Nat) (aa ad : Tens) (k : Nat) (s : State) : Res Unit :=
  let hd := k % aa.valid 2
  let pg := k / aa.valid 2
  (Res.mapM (fun tok s => aa.readRow i (tok, hd, pg) s) (List.range (aa.valid 1)) s).bind fun rows s =>
    let n := aa.valid 1
    let means := (List.range (aa.valid 0)).map fun j =>
      if n = 0 then Val.fin 0 else (valSum (rows.map fun r => r.getD j (.fin 0))).div (.fin n)
    (Res.mapM (fun b s =>
      let p : BlockAt := ⟨hd, pg, 0, b⟩
      let m := ad.blockValid p
      if m = 0 then .ok () s
      else
        let w := ad.fmt.narrowBlock ((padVals (means.drop (32 * b)) m).map some)
        (ad.writeBlock i p w.codes w.scale s).bind fun _ s => .ok () (s.flag i w.flags))
      (List.range (ceilDiv (ad.valid 0) 32)) s).bind fun _ s => .ok () s

def effKvSumm (i : Nat) (f : LayT) (prog : Nat) (s : State) : Eff :=
  let t := s.sett i
  let aa := scrTens t f.aa
  stepsFrom i (kvSummStep i aa (scrTensAs t f.ad .fp8a)) (aa.valid 2 * aa.valid 3) prog
    (flagEmptyOps i [f.aa, f.ad] s)

/-! KV.SCATTER (R205–R211) -/

/-- Progress record of a row (R211): its index, the stage reached, position, ticket, page and the granules of the token
stored; `waited` is set once WAITS has counted. -/
structure Scat where
  row : Nat
  stage : Nat
  pos : Nat
  ticket : Nat
  page : Nat
  waited : Bool
  stored : Nat
  deriving DecidableEq, Repr

def Scat.enc (c : Scat) : List Nat := [c.row, c.stage, c.pos, c.ticket, c.page, b2n c.waited, c.stored]
def Scat.dec (l : List Nat) : Scat :=
  ⟨l.getD 0 0, l.getD 1 0, l.getD 2 0, l.getD 3 0, l.getD 4 0, decide (l.getD 5 0 = 1), l.getD 6 0⟩

/-- The record with which the next row starts. -/
def Scat.nextRow (c : Scat) : Scat := ⟨c.row + 1, 0, 0, 0, 0, false, 0⟩

/-- How one stage of a row ends. -/
inductive ScatOut where
  | next (c : Scat)
  | wait (c : Scat)

/-- A row's blocks in the pool format: K of every head, then V (R206). -/
def scatBlocks (i : Nat) (p : Pool) (aa : Tens) (c : Nat × Nat × Nat) (s : State) : Res (List Narrowed) :=
  Res.mapM (fun b s =>
    (aa.readBlock i ⟨c.1, c.2.1, c.2.2, b⟩ s).bind fun r s =>
      if aa.fmt = p.fmt then
        .ok { scale := r.2, codes := ((r.1.map fun x : Option Nat => x.getD 0) ++ List.replicate 32 0).take 32
              flags := flNone, clips := 0, qsheds := 0, ratio := 0 } s
      else .ok (convertBlock aa.fmt p.fmt (padVals (blockVals aa.fmt r) 32)) s)
    (List.range (2 * p.heads * p.hd / 32)) s

/-- Largest scale byte, or BF16 exponent field, of blocks, 0xFF excluded (R205). -/
def blocksMax (p : Pool) (bs : List Narrowed) : Nat :=
  let xs := if p.bf16 then (bs.map fun b => b.codes.map fun c => field c 14 7).flatten else bs.map (·.scale)
  (xs.filter (· ≠ 0xFF)).foldl max 0

/-- What a token's blocks store into slot `t` of its page, granule by granule: K, then V, of every head. -/
def scatPieces (p : Pool) (pageVa t : Nat) (bs : List Narrowed) : List (Nat × List Byte) :=
  let per := p.hd / 32
  let split (va : Nat) (l : List Byte) : List (Nat × List Byte) :=
    (granules va l.length).map fun g => (g.1, (l.drop (g.1 - va)).take g.2)
  ((List.range (2 * p.heads)).map fun k =>
    let va := pageVa + k % p.heads * p.hb + k / p.heads * (p.eb + p.sb)
    let mine := (bs.drop (k * per)).take per
    split (va + t * p.tokE) (mine.map fun b => pack p.fmt.bits b.codes).flatten
      ++ split (va + p.eb + t * p.tokS) (if p.bf16 then [] else mine.map fun b => BitVec.ofNat 8 b.scale)).flatten

/-- What a row works with: entry of its sequence, list space in words, and the VA of its list word. -/
structure ScatRow where
  e : Nat
  cap : Nat
  listVa : Nat

def scatRow (i table : Nat) (ab : Tens) (c : Scat) (s : State) : Res ScatRow :=
  (ab.readElem i (ab.validAt c.row) s).bind fun r s =>
    let id := match r with
      | some (some x, _) => if c.row < ab.validCount then x else 0
      | _ => 0
    let e := table + 64 * id
    (readMem i (e + 16) 12 .read s).bind fun lb s =>
      .ok ⟨e, recField lb 8 4, recField lb 0 8 + 8 * (c.pos / 64)⟩ s

/-- One stage of a row before its token: 0 take a position, 1 list space and ticket, 2 pop, 3 list entry, 4 wait for the
list entry, 6 a full list. -/
def scatStage (i pool : Nat) (p : Pool) (r : ScatRow) (c : Scat) (s : State) : Res ScatOut :=
  match c.stage with
  | 0 => (lintelAtomic i (r.e + 8) (fun w => w + 1) s).bind fun pos s => .ok (.next { c with stage := 1, pos := pos }) s
  | 1 =>
    if r.cap ≤ c.pos / 64 then
      (lintelAtomic i (r.e + 40) (fun w => w + 1) s).bind fun _ s => .ok (.next { c with stage := 6 }) s
    else if c.pos % 64 = 0 then
      (lintelAtomic i pool (fun w => w + 1) s).bind fun h s => .ok (.next { c with stage := 2, ticket := h }) s
    else .ok (.next { c with stage := 4 }) s
  | 2 =>
    let slot := p.ring + 8 * (c.ticket % p.ringSize)
    (lintelWait i slot true 0 s).bind fun v s =>
      match v with
      | none =>
        if c.waited then .ok (.wait c) s
        else (lintelAtomic i (pool + 48) (fun w => w + 1) s).bind fun _ s => .ok (.wait { c with waited := true }) s
      | some _ =>
        (lintelAtomic i slot (fun _ => 0) s).bind fun v s =>
          .ok (.next { c with stage := 3, page := v - 1 }) s
  | 3 =>
    (writeMem i r.listVa (leBytes ((p.pages + c.page * p.pageBytes) % 2 ^ 48) 8) s).bind fun _ s =>
      .ok (.next { c with stage := 5 }) s
  | 4 =>
    (lintelWait i r.listVa true 0 s).bind fun v s =>
      match v with
      | none => .ok (.wait c) s
      | some _ => .ok (.next { c with stage := 5 }) s
  | _ =>
    (lintelAtomic i (r.e + 24) (fun w => w / 2 ^ 33 * 2 ^ 33 + 2 ^ 32 + w % 2 ^ 32) s).bind fun _ s => .ok (.next c.nextRow) s

/-- Publish a token whose bytes are visible. -/
def scatPublish (i : Nat) (p : Pool) (r : ScatRow) (c : Scat) (bs : List Narrowed) (s : State) : Res Unit :=
  let half := p.heads * p.hd / 32
  (lintelAtomic i r.listVa (fun w =>
    w % 2 ^ 48 + 2 ^ 48 * max (field w 54 48) (c.pos % 64 + 1) + w / 2 ^ 55 * 2 ^ 55) s).bind fun _ s =>
  (lintelAtomic i (r.e + 32) (fun w =>
    max (w % 256) (blocksMax p (bs.take half)) + 256 * max (field w 15 8) (blocksMax p (bs.drop half))
      + w / 65536 * 65536) s).bind fun _ s =>
  (lintelAtomic i r.e (fun w => max w (c.pos + 1)) s).bind fun _ s => .ok () s

/-- Stage 5: the token's bytes from granule `stored` on, the marks on tiles that they touch, and their publication. -/
def scatToken (i : Nat) (p : Pool) (aa : Tens) (r : ScatRow) (c : Scat) (s : State) : Eff :=
  match (lintelRead i r.listVa .read s).bind fun w s =>
      (scatBlocks i p aa (rowCoords (aa.valid 1) (aa.valid 2) c.row) s).bind fun bs s => .ok (w, bs) s with
  | .fault cl v k s => .fault c.stored [] cl v k s
  | .bad x s => .bad x s
  | .ok (w, bs) s =>
    let ps := scatPieces p (locVa w) (c.pos % 64) bs
    stepsFrom i (fun k s => match ps[k]? with
      | some x => writeMem i x.1 x.2 s
      | none => (markStores i (ps.map fun x => (x.1, x.2.length)) s).bind fun _ s => scatPublish i p r c bs s)
      (ps.length + 1) c.stored (s.flag i (bs.foldl (fun f b => f ||| b.flags) flNone))

/-- Stages until every row is appended. -/
def scatRun (i pool table n : Nat) (p : Pool) (aa ab : Tens) : Nat → Scat → State → Eff
  | 0, _, s => .done s
  | fuel + 1, c, s =>
    if n ≤ c.row then .done s
    else match scatRow i table ab c s with
      | .fault cl v k s' => .fault 0 c.enc cl v k s'
      | .bad x s' => .bad x s'
      | .ok r s' =>
        if c.stage = 5 then
          match scatToken i p aa r c s' with
          | .done s2 => scatRun i pool table n p aa ab fuel c.nextRow s2
          | .fault k _ cl v kd s2 => .fault 0 ({ c with stored := k }).enc cl v kd s2
          | e => e
        else match scatStage i pool p r c s' with
          | .ok (.next c') s2 => scatRun i pool table n p aa ab fuel c' s2
          | .ok (.wait c') s2 => .wait .lintel 0 c'.enc s2
          | .fault cl v k s2 => .fault 0 c.enc cl v k s2
          | .bad x s2 => .bad x s2

def effKvScatter (i : Nat) (f : LayT) (aux : List Nat) (s0 : State) : Eff :=
  let s := flagEmptyOps i [f.aa, f.ab] s0
  let t := s.sett i
  let aa := scrTens t f.aa
  let ab := scrTensAs t f.ab .u32
  let pool := (t.sreg f.sb).toNat
  let n := if aa.valid 0 = 0 then 0 else aa.valid 1 * aa.valid 2 * aa.valid 3
  if n = 0 then .done s
  else match readMem i pool 64 .read s with
    | .fault c v k s => .fault 0 aux c v k s
    | .bad x s => .bad x s
    | .ok b s => scatRun i pool (t.sreg f.sa).toNat n (poolOf b) aa ab (6 * n + 6) (Scat.dec aux) s

/-! ATTN.STEP (R216, R217) -/

/-- A partial row's record as it stands: KREF (none), HOLD, SUM. -/
structure PRow where
  kref : Option Int
  ctrl : Nat
  sum : Nat
  deriving DecidableEq, Repr

/-- 32-bit word `e` of row `r` of the partial rows; 0 outside the valid region. -/
def pWord (i : Nat) (ad : Tens) (r e : Nat) (s : State) : Res Nat :=
  (ad.readElem i (e, r, 0, 0) s).bind fun x s =>
    .ok (match x with
      | some (some c, _) => c
      | _ => 0) s

def kNone : Nat := 0x80000000
def kDecode (w : Nat) : Option Int := if w = kNone then none else some (signed 32 w)
def kEncode : Option Int → Nat
  | none => kNone
  | some k => (k % (2 ^ 32 : Nat)).toNat

def readPRow (i : Nat) (ad : Tens) (r : Nat) (s : State) : Res PRow :=
  (Res.mapM (fun e s => pWord i ad r e s) (List.range 8) s).bind fun ws s =>
    .ok ⟨kDecode (ws.getD 0 0), ws.getD 1 0,
      ws.getD 4 0 + 2 ^ 32 * ws.getD 5 0 + 2 ^ 64 * ws.getD 6 0 + 2 ^ 96 * ws.getD 7 0⟩ s

/-- Write KREF and SUM of a record. -/
def writeKS (i : Nat) (ad : Tens) (r : Nat) (k : Option Int) (sum : Nat) (s : State) : Res Unit :=
  (ad.writeWide i (0, r, 0, 0) (kEncode k) s).bind fun _ s =>
    (Res.mapM (fun j s => ad.writeWide i (4 + j, r, 0, 0) (sum / 2 ^ (32 * j) % 2 ^ 32) s) (List.range 4) s).bind
      fun _ s => .ok () s

def kMax : Option Int → Option Int → Option Int
  | none, b => b
  | a, none => a
  | some a, some b => some (max a b)

/-- SUM plus the stored values × 2^88, each truncated; true when it saturates. -/
def sumStored (sum : Nat) (vs : List Val) : Nat × Bool :=
  let tot : Option Nat := vs.foldl (fun a v => match a, v with
    | some n, .fin q => some (n + (truncInt (q * pow2 88)).toNat)
    | _, _ => none) (some sum)
  match tot with
  | some n => if n < 2 ^ 128 then (n, false) else (2 ^ 128 - 1, true)
  | none => (2 ^ 128 - 1, true)

/-- Store a row of probabilities in AB and answer the values stored. -/
def storeProbs (i : Nat) (ab : Tens) (r : Nat) (ps : List Val) (s : State) : Res (List Val) :=
  (Res.mapM (fun b s =>
    let p : BlockAt := ⟨r, 0, 0, b⟩
    let n := ab.blockValid p
    if n = 0 then .ok [] s
    else
      let w := convertBlock .fp32 ab.fmt (padVals (ps.drop (32 * b)) n)
      (ab.writeBlock i p w.codes w.scale s).bind fun _ s =>
        .ok (w.codes.map fun c => ab.fmt.value w.scale c) (s.flag i w.flags))
    (List.range (ceilDiv (ab.valid 0) 32)) s).bind fun l s => .ok l.flatten s

/-- One row of ATTN.STEP; the count of risen rows is in `SD`'s running value, kept in the state's
register only at the end, so the step answers whether its row rose. DESIGN CHOICE: under the compatibility flags the score stays
RN(s × x), as R188 has it; R197 names RZ for the row opcodes alone. -/
def attnRow (i : Nat) (compat : Bool) (sc : Val) (aa ab ad : Tens) (r : Nat) (s : State) : Res Bool :=
  (aa.readRow i (r, 0, 0) s).bind fun xs s =>
  (readPRow i ad r s).bind fun pr s =>
    let zs := xs.map fun x => limitScore (rn (sc.mul x))
    let ok := zs.map fun z => z.getD (none, flNone)
    let fl := ok.foldl (fun f z => f ||| z.2) flNone
    let s := s.flag i fl
    let ts := ok.map fun z => expTerm compat z.1
    let kt := ts.foldl (fun m t => kMax m (t.map (·.1))) none
    let rose := match kt, pr.kref with
      | some _, none => true
      | some a, some b => decide (b < a)
      | none, _ => false
    let hold := bit pr.ctrl 0
    if zs.any (·.isNone) then
      (if hold then storeProbs i ab r (nanRow (ab.valid 0)) (s.flag i flInvalid) else .ok [] (s.flag i flInvalid)).bind
        fun _ s => .ok rose s
    else if !hold then (writeKS i ad r (kMax pr.kref kt) pr.sum s).bind fun _ s => .ok rose s
    else
      let kr := match pr.kref with
        | none => kt
        | k => k
      let ps := ts.map fun t => match t with
        | some t => Val.fin (t.2 * pow2 (t.1 - kr.getD 0))
        | none => .fin 0
      (storeProbs i ab r ps s).bind fun vs s =>
        let q := sumStored pr.sum vs
        (writeKS i ad r kr q.1 (if q.2 then s.flag i flSaturate else s)).bind fun _ s => .ok rose s

/-- Rows from `k` on with the count so far; the record holds the completed rows (R194) and the count. -/
def attnRows (i : Nat) (f : LayT) (compat : Bool) (sc : Val) (aa ab ad : Tens) : Nat → Nat → Nat → State → Eff
  | 0, _, cnt, s => .done (setSd i f.sd cnt s)
  | n + 1, k, cnt, s =>
    match attnRow i compat sc aa ab ad k s with
    | .ok b s' => attnRows i f compat sc aa ab ad n (k + 1) (cnt + b2n b) s'
    | .fault c v kd s' => .fault k [cnt] c v kd s'
    | .bad x s' => .bad x s'

def effAttnStep (i : Nat) (f : LayT) (prog : Nat) (aux : List Nat) (s : State) : Eff :=
  let t := s.sett i
  let aa := scrTens t f.aa
  attnRows i f t.compat (fp32Val ((t.sreg f.sa).toNat % 2 ^ 32)) aa
    (scrTensAs t f.ab ((Fmt.ofCode (modFmt f)).getD .bf16)) (scrTensAs t f.ad .fp32) (aa.valid 1 - prog) prog (aux.headD 0)
    (flagEmptyOps i [f.aa, f.ab, f.ad] s)

/-! ATTN.MERGE (R221–R224) -/

/-- A row in a merge: KREF, SUM and the FP32 codes of O. -/
structure MRow where
  kref : Option Int
  sum : Nat
  o : List Nat
  deriving DecidableEq, Repr

def encRow (r : MRow) : List Nat := kEncode r.kref :: r.sum :: r.o

def encRows (rs : List MRow) : List Nat := (rs.map encRow).flatten

def decRows (w : Nat) : Nat → List Nat → List MRow
  | 0, _ => []
  | n + 1, l => ⟨kDecode (l.getD 0 kNone), l.getD 1 0, (l.drop 2).take w⟩ :: decRows w n (l.drop (w + 2))

/-- Combine two rows (R223); `free` stands for a SUM beyond 128 bits, which the spec does not state. -/
def combineRow (free : Nat) (a b : MRow) : MRow :=
  match a.kref, b.kref with
  | none, none => ⟨none, 0, a.o.map fun _ => 0⟩
  | none, some _ => b
  | some _, none => a
  | some ka, some kb =>
    let k := max ka kb
    let sh (q : Rat) (d : Int) : Rat := q * pow2 d
    let sum := (truncInt (sh a.sum (ka - k) + sh b.sum (kb - k))).toNat
    { kref := some k
      sum := if sum < 2 ^ 128 then sum else free
      o := (a.o.zip b.o).map fun x => fp32Code .nearest
        (((fp32Val x.1).mul (.fin (pow2 (ka - k)))).add ((fp32Val x.2).mul (.fin (pow2 (kb - k))))) }

def readMRow (i : Nat) (ad : Tens) (w r : Nat) (s : State) : Res MRow :=
  (readPRow i ad r s).bind fun p s =>
    (Res.mapM (fun j s => pWord i ad r (8 + j) s) (List.range w) s).bind fun o s => .ok ⟨p.kref, p.sum, o⟩ s

/-- The final row of member 0: y_j, DONE, KREF and SUM. -/
def writeMRow (i : Nat) (ad : Tens) (r : Nat) (m : MRow) (s : State) : Res Unit :=
  let den := Val.fin (mkRat m.sum (2 ^ 88))
  let ys := m.o.map fun c =>
    let v := fp32Val c
    if v.isNan then Val.nan else if m.sum = 0 then .fin 0 else rn (v.div den)
  let s := if ys.any Val.isNan then s.flag i flInvalid else s
  (Res.mapM (fun j s => ad.writeWide i (8 + j, r, 0, 0) (fp32Code .nearest (ys.getD j (.fin 0))) s)
    (List.range ys.length) s).bind fun _ s =>
  (pWord i ad r 1 s).bind fun c s =>
  (ad.writeWide i (1, r, 0, 0) (if bit c 1 then c else c + 2) s).bind fun _ s =>
    writeKS i ad r m.kref m.sum s

def attnTree (s : State) (i sa : Nat) : Tree := treeOf s i (field sa 4 0) (field sa 9 5 + 1) (bit sa 10)

/-- A sender's waiting ATTN.MERGE at `level`. -/
def attnSender (t : Sett) (level : Nat) : Option (QEntry × LayT) :=
  match meshEntry t (fun e => match e.instr with
      | .attnMerge _ _ _ => decide (e.st = .waiting .merge) && decide (e.prog = level)
      | _ => false) with
  | some e => match e.instr with
    | .attnMerge _ _ f => some (e, f)
    | _ => none
  | none => none

def freeNat128 (s : State) : Nat :=
  (Config.freeWord s.fresh).toNat + 2 ^ 64 * (Config.freeWord (s.fresh + 1)).toNat

/-- Rows whose members disagree on SA or on their count: contents the spec does not state. -/
def freeRows (s : State) (rs : List MRow) : List MRow :=
  (List.range rs.length).map fun k =>
    let m := rs.getD k ⟨none, 0, []⟩
    let b := s.fresh + 2 + k * (m.o.length + 3)
    { kref := kDecode ((Config.freeWord b).toNat % 2 ^ 32)
      sum := (Config.freeWord (b + 1)).toNat + 2 ^ 64 * (Config.freeWord (b + 2)).toNat
      o := (List.range m.o.length).map fun j => (Config.freeWord (b + 3 + j)).toNat % 2 ^ 32 }

/-- Levels of the tree from `lv` on, with the rows held. -/
def attnClimb (i sa w : Nat) (ad : Tens) (tree : Tree) : Nat → Nat → List MRow → State → Eff
  | 0, lv, rs, s => .wait .merge lv (1 :: encRows rs) s
  | fuel + 1, lv, rs, s =>
    if tree.members.length ≤ 2 ^ lv then
      ((Res.mapM (fun r s => writeMRow i ad r (rs.getD r ⟨none, 0, []⟩) s) (List.range rs.length) s).bind
        fun _ s => .ok () s).toEff
    else if tree.self / 2 ^ lv % 2 = 1 then .wait .merge lv (1 :: encRows rs) s
    else match tree.members[tree.self + 2 ^ lv]? with
      | none => attnClimb i sa w ad tree fuel (lv + 1) rs s
      | some p =>
        match attnSender (s.sett p) lv with
        | none => .wait .merge lv (1 :: encRows rs) s
        | some (e, g) =>
          let same := decide (((s.sett p).sreg g.sa).toNat % 2048 = sa % 2048) &&
            decide (e.aux.length = (encRows rs).length + 1)
          let other := decRows w rs.length e.aux.tail
          let free := freeNat128 s
          let out := if same then (rs.zip other).map fun x => combineRow free x.1 x.2 else freeRows s rs
          let s1 := { s with fresh := s.fresh + 2 + (if same then 0 else rs.length * (w + 3)) }
          attnClimb i sa w ad tree fuel (lv + 1) out
            (s1.setSett p fun t => t.setEntry e.seq fun e => { e with st := .done, aux := [] })

/-- ATTN.MERGE; the level and the combined rows (behind a 1) are the progress record, from which it resumes (R224). -/
def effAttnMerge (i : Nat) (f : LayT) (prog : Nat) (aux : List Nat) (s : State) : Eff :=
  let t := s.sett i
  let sa := (t.sreg f.sa).toNat
  let ad := scrTensAs t f.ad .fp32
  let w := ad.ext 0 - 8
  let n := ad.valid 1
  let tree := attnTree s i sa
  if !aux.isEmpty then attnClimb i sa w ad tree 8 prog (decRows w n aux.tail) s
  else match Res.mapM (fun r s => readMRow i ad w r s) (List.range n) (flagEmptyOps i [f.ad] s) with
    | .ok rs s => attnClimb i sa w ad tree 8 0 rs s
    | .fault c v k s => .fault 0 [] c v k s
    | .bad x s => .bad x s

end Sys2Proof.Machine
end

