-- ==== Sys2Proof/Machine/Halo.lean ====
section
/-! DEFINITION. Halo ports: class 0xA (R68, R111, R276–R284, R577). -/

namespace Sys2Proof.Machine

/-- DIR of MOD: 0 N, 1 E, 2 S, 3 W. -/
def modDir (f : LayT) : Nat := field f.md.toNat 17 16
def oppDir (d : Nat) : Nat := (d + 2) % 4

def Sett.port (t : Sett) (d : Nat) : HaloPort := t.ports.get HaloPort.reset d
def Sett.setPort (t : Sett) (d : Nat) (f : HaloPort → HaloPort) : Sett :=
  { t with ports := SMap.modify HaloPort.reset t.ports d f }

/-- Physical index of the logical neighbour, within the run's grid (R68). -/
def neighbour (s : State) (i d : Nat) : Option Nat :=
  match s.logicalOf i, s.stile.cur with
  | some (r, c), some run =>
    match d with
    | 0 => if 0 < r then some (s.physOf (r - 1) c) else none
    | 1 => if c + 1 < run.manifest.cols then some (s.physOf r (c + 1)) else none
    | 2 => if r + 1 < run.manifest.rows then some (s.physOf (r + 1) c) else none
    | _ => if 0 < c then some (s.physOf r (c - 1)) else none
  | _, _ => none

/-- Ring index of the oldest filled slot. -/
def HaloPort.oldest (p : HaloPort) : Nat := (p.nextSlot + p.depth - p.slots.length) % p.depth

def truncBit : Nat := 2 ^ 63
/-- A tag with TRUNC set or cleared (R280). -/
def tagWith (tag : Nat) (trunc : Bool) : W64 := BitVec.ofNat 64 (tag % truncBit + (if trunc then truncBit else 0))

/-- Fill the next slot of ring `d` of sett `j`: the payload is cut at the slot size (R278). -/
def fillSlot (j d tag elen : Nat) (trunc : Bool) (bs : List Byte) (s : State) : Res Unit :=
  let p := (s.sett j).port d
  let cut := decide (p.slotBytes < bs.length)
  let pay := bs.take p.slotBytes
  (writeScratch j (p.base + p.nextSlot * p.slotBytes) pay s).bind fun _ s =>
    .ok () (s.setSett j fun t => t.setPort d fun p =>
      { p with slots := p.slots ++ [⟨tagWith tag (trunc || cut), min elen pay.length, pay.length⟩]
               nextSlot := (p.nextSlot + 1) % p.depth })

/-- Empty the oldest slot of ring `d` and send its credit back. -/
def freeSlot (i d : Nat) (s : State) : State :=
  let s1 := s.setSett i fun t => t.setPort d fun p => { p with slots := p.slots.drop 1 }
  match neighbour s i d with
  | some j => s1.setSett j fun t => t.setPort (oppDir d) fun p => { p with returning := p.returning + 1 }
  | none => s1

/-- Bytes of a row with the bits beyond `bits` cleared: invalid elements of a narrow format's last byte are zero codes
(R269). -/
def rowMasked (bits : Nat) (row : List Byte) : List Byte := leBytes (leNat row % 2 ^ bits) row.length

/-- The payload of AA: element bytes, then scale bytes (R278). -/
def haloPayload (i : Nat) (aa : Tens) (s : State) : Res (List Byte × List Byte) :=
  (tileRows i aa (fun a b c => aa.base + aa.rowOff a b c) aa.valid s).bind fun es s =>
    (tileScales i aa (fun a b c => aa.scaleAddr ⟨a, b, c, 0⟩) aa.valid s).bind fun ss s =>
      .ok ((es.map (rowMasked (aa.valid 0 * aa.fmt.bits))).flatten, ss) s

/-- HALO.PUT: waits for a credit, then fills the neighbour's slot (R278). -/
def effHaloPut (i : Nat) (f : LayT) (s : State) : Eff :=
  let t := s.sett i
  let d := modDir f
  match neighbour s i d with
  | none => .wait .haloCredit 0 [] s
  | some j =>
    if (t.port d).credits = 0 then .wait .haloCredit 0 [] s
    else
      Res.toEff ((haloPayload i (scrTens t f.aa) (flagEmptyOps i [f.aa] s)).bind fun (r : List Byte × List Byte) s =>
        (fillSlot j (oppDir d) (t.sreg f.sa).toNat r.1.length false (r.1 ++ r.2) s).bind fun _ s =>
          .ok () (s.setSett i fun t => t.setPort d fun p => { p with credits := p.credits - 1 }))

/-- Element bytes of the payload into AD's valid rows; missing bytes are zero codes (R279). -/
def takeRows (i : Nat) (ad : Tens) (es : List Byte) (s : State) : Res Unit :=
  let n := ceilDiv (ad.valid 0 * ad.fmt.bits) 8
  let rows := if ad.valid 0 = 0 then 0 else ad.valid 1 * ad.valid 2 * ad.valid 3
  (Res.mapM (fun k s =>
    let c := rowCoords (ad.valid 1) (ad.valid 2) k
    let x := leNat ((es.drop (k * n)).take n) % 2 ^ (ad.valid 0 * ad.fmt.bits)
    ad.writeBytes i (ad.base + ad.rowOff c.1 c.2.1 c.2.2) (leBytes x n) s) (List.range rows) s).bind
    fun _ s => .ok () s

/-- Scale bytes of the payload into AD's blocks; blocks that receive none get 0x00 (R279). -/
def takeScales (i : Nat) (ad : Tens) (ss : List Byte) (s : State) : Res Unit :=
  if !ad.fmt.narrow then .ok () s
  else (Res.mapM (fun k s =>
    ad.writeBytes i (ad.scaleAddr (ad.blockAt k)) [ss.getD k 0] s) (List.range ad.blockCount) s).bind
    fun _ s => .ok () s

/-- HALO.TAKE (R279). -/
def effHaloTake (i : Nat) (f : LayT) (s : State) : Eff :=
  let t := s.sett i
  let d := modDir f
  let p := t.port d
  match p.slots with
  | [] => .wait .haloSlot 0 [] s
  | h :: _ =>
    let ad := scrTens t f.ad
    let s1 := flagEmptyOps i [f.ad] s
    Res.toEff ((readScratch i (p.base + p.oldest * p.slotBytes) h.len s1).bind fun bs s =>
      let es := bs.take h.elen
      let ss := bs.drop h.elen
      let rows := if ad.valid 0 = 0 then 0 else ad.valid 1 * ad.valid 2 * ad.valid 3
      let capE := rows * ceilDiv (ad.valid 0 * ad.fmt.bits) 8
      let capS := if ad.fmt.narrow then ad.blockCount else 0
      let trunc := bit h.tag.toNat 63 || decide (capE < es.length) || decide (capS < ss.length)
        || isMemOp t f.ad
      (takeRows i ad es s).bind fun _ s => (takeScales i ad ss s).bind fun _ s =>
        .ok () (freeSlot i d (s.setSett i fun t => t.setS f.sd (tagWith h.tag.toNat trunc))))

/-- The record of a slot: head, payload, and padding to 64 bytes, whose contents the spec does not state beyond R275: a
function of the record. -/
def spillRecord (h : HaloSlot) (bs : List Byte) : List Byte :=
  let head := leBytes h.tag.toNat 8 ++ leBytes h.len 4 ++ leBytes h.elen 4
  head ++ bs ++ (List.range (ceilDiv h.len 64 * 64 - h.len)).map (Config.spillPad (head ++ bs))

/-- Spill records from byte `off` of the extent on, `n` already written, and `g` granules of the next (R282). -/
def spillGo (i d : Nat) (ad : Tens) (limit : Nat) : Nat → Nat → Nat → Nat → State → Eff ⊕ (Nat × Nat × State)
  | 0, n, off, _, s => .inr (n, off, s)
  | fuel + 1, n, off, g, s =>
    let p := (s.sett i).port d
    match p.slots with
    | [] => .inr (n, off, s)
    | h :: _ =>
      let next := off + 16 + ceilDiv h.len 64 * 64
      if limit < next then .inr (n, off, s)
      else match readScratch i (p.base + p.oldest * p.slotBytes) h.len s with
        | .ok bs s1 => match writeSteps i (ad.base + off) (spillRecord h bs) g s1 with
          | .done s2 => spillGo i d ad limit fuel (n + 1) next 0 (freeSlot i d s2)
          | .fault g' _ c v k s2 => .inl (.fault 0 [n, off, g'] c v k s2)
          | e => .inl e
        | .fault c v k s1 => .inl (.fault 0 [n, off, g] c v k s1)
        | .bad x s1 => .inl (.bad x s1)

/-- HALO.SPILL (R282). `aux`: records written, their bytes, granules of the next record, and 1 once only the headers of
the tiles that the records touched remain (R273). -/
def effHaloSpill (i : Nat) (f : LayT) (aux : List Nat) (s : State) : Eff :=
  let t := s.sett i
  let d := modDir f
  let ad := tens t f.ad
  if !ad.mem ∨ (t.port d).depth = 0 then .done (setSd i f.sd 0 (s.flag i flEmpty))
  else match spillGo i d ad ad.extent (if aux.getD 3 0 = 1 then 0 else (t.port d).slots.length)
      (aux.getD 0 0) (aux.getD 1 0) (aux.getD 2 0) s with
    | .inl e => e
    | .inr (n, off, s1) =>
      if n = 0 then .done (setSd i f.sd 0 s1)
      else match storeHeaders i true ad [(ad.base, off)] ad.valid s1 with
        | .ok _ s2 => .done (setSd i f.sd n s2)
        | .fault c v k s2 => .fault 0 [n, off, 0, 1] c v k s2
        | .bad x s2 => .bad x s2

/-- Fill records: `n` filled so far, next record at `off`, `got` its bytes read so far (R282). -/
def fillGo (i d : Nat) (aa : Tens) (limit total : Nat) : Nat → Nat → Nat → List Byte → State → Eff ⊕ (Nat × State)
  | 0, n, _, _, s => .inr (n, s)
  | fuel + 1, n, off, got, s =>
    let keep (l : List Byte) : List Nat := n :: off :: l.map (·.toNat)
    if total ≤ n ∨ limit < off + 16 then .inr (n, s)
    else match readRest i (aa.base + off) (max 16 got.length) got s with
      | (b, .fault c v k s') => .inl (.fault 0 (keep b) c v k s')
      | (_, .bad x s') => .inl (.bad x s')
      | (h, .ok _ s1) =>
        let len := recField h 8 4
        if limit < off + 16 + len then .inr (n, s1)
        else match neighbour s1 i d with
          | none => .inl (.wait .haloCredit 0 (keep h) s1)
          | some j =>
            let q := (s1.sett j).port (oppDir d)
            if q.credits = 0 then
              let putWaits := (s1.sett j).queue.any fun e => match e.instr with
                | .haloPut _ _ g => decide (modDir g = oppDir d) && decide (e.st = .waiting .haloCredit)
                | _ => false
              .inl (.wait .haloCredit 0 (keep h) (s1.setSett j fun t =>
                t.setPort (oppDir d) fun q => { q with fillFirst := q.fillFirst || !putWaits }))
            else match readRest i (aa.base + off) (16 + len) h s1 with
              | (b, .fault c v k s') => .inl (.fault 0 (keep b) c v k s')
              | (_, .bad x s') => .inl (.bad x s')
              | (b, .ok _ s2) =>
                match fillSlot i d (recField h 0 8) (recField h 12 4) (bit (recField h 0 8) 63) (b.drop 16) s2 with
                | .ok _ s3 => fillGo i d aa limit total fuel (n + 1) (off + 16 + ceilDiv len 64 * 64) []
                    (s3.setSett j fun t => t.setPort (oppDir d) fun q =>
                      { q with credits := q.credits - 1, fillFirst := false })
                | .fault c v k s3 => .inl (.fault 0 (keep b) c v k s3)
                | .bad x s3 => .inl (.bad x s3)

def effHaloFill (i : Nat) (f : LayT) (aux : List Nat) (s : State) : Eff :=
  let t := s.sett i
  let d := modDir f
  let aa := tens t f.aa
  if !aa.mem ∨ (t.port d).depth = 0 then .done (setSd i f.sd 0 (s.flag i flEmpty))
  else
    match fillGo i d aa aa.extent (t.sreg f.sb).toNat (aa.extent / 16 + 1) (aux.getD 0 0) (aux.getD 1 0)
        ((aux.drop 2).map (BitVec.ofNat 8)) s with
    | .inl e => e
    | .inr (n, s1) => .done (setSd i f.sd n s1)

/-- A credit reaches the sender (R277). -/
def creditArrives (i d : Nat) (s : State) : State :=
  s.setSett i fun t => t.setPort d fun p =>
    if p.returning = 0 then p else { p with returning := p.returning - 1, credits := p.credits + 1 }

end Sys2Proof.Machine
end

