-- ==== Sys2Proof/Machine/Sync.lean ====
section
/-! DEFINITION. Class 0xB beyond SYNC.WAIT and SYNC.FENCE: Lintel waits, atomics, reductions
(R70, R112, R113, R286, R352, R354). -/

namespace Sys2Proof.Machine

/-- SYNC.WAITGE: a Lintel wait for the word at SA (R70); `prog` is 1 once its slice has answered it. -/
def effWaitge (i : Nat) (f : LayB) (prog : Nat) (s : State) : Eff :=
  let t := s.sett i
  if prog = 1 then .done s
  else match lintelWait i (t.sreg f.sa).toNat false (t.opB f).toNat s with
  | .ok (some _) s' => .done s'
  | .ok none s' => .wait .lintel 0 [] s'
  | .fault c v k s' => .fault 0 [] c v k s'
  | .bad x s' => .bad x s'

/-- SD := word; word := `g word operand`, in one step (R112). -/
def effAtom (g : Nat → Nat → Nat) (i : Nat) (f : LayB) (s : State) : Eff :=
  let t := s.sett i
  Res.toEff ((lintelAtomic i (t.sreg f.sa).toNat (fun w => g w (t.opB f).toNat) s).bind fun w s =>
    .ok () (setSd i f.sd w s))

def effWcTake (i : Nat) (f : LayB) (s : State) : Eff := effAtom (fun w x => (w + x) % 2 ^ 64) i f s
def effAtomMax (i : Nat) (f : LayB) (s : State) : Eff := effAtom max i f s
def effAtomMin (i : Nat) (f : LayB) (s : State) : Eff := effAtom min i f s
def effAtomXchg (i : Nat) (f : LayB) (s : State) : Eff := effAtom (fun _ x => x) i f s
def effAtomCas (i : Nat) (f : LayB) (ext : W64) (s : State) : Eff :=
  effAtom (fun w x => if w = ext.toNat then x else w) i f s

/-- Saturating I32 sum of two codes: code and whether it saturated (R113). -/
def redAdd32 (a b : Nat) : Nat × Fl :=
  let x := signed 32 a + signed 32 b
  let y := clampInt (-(2 ^ 31)) (2 ^ 31 - 1) x
  ((y % (2 ^ 32 : Nat)).toNat, if y = x then flNone else flSaturate)

/-- FP32 maximum of memory `a` and an element (R113); a zero is written +0 (R126). -/
def redMax32 (a b : Nat) : Nat × Fl :=
  let x := fp32Val a
  let y := fp32Val b
  if x.isNan || y.isNan then (0x7FC00000, flInvalid) else (fp32Code .nearest (if x.lt y then y else x), flNone)

/-- Element `k`: memory AD := op (AD, AA). -/
def redStep (i : Nat) (op : Nat → Nat → Nat × Fl) (aa ad : Tens) (k : Nat) (s : State) : Res Unit :=
  (aa.readElem i (aa.validAt k) s).bind fun r s =>
    let x := match r with
      | some (some c, _) => c
      | _ => 0
    let va := ad.elemAddr (ad.validAt k)
    (readMem i va 4 .atomic s).bind fun bs s =>
      let y := op (leNat bs) x
      (writeMem i va (leBytes y.1 4) s).bind fun _ s => .ok () (s.flag i y.2)

/-- RED.ADD and RED.MAX in their own format, then the marks on tiles that they touched (R113, R273). -/
def effRed (op : Nat → Nat → Nat × Fl) (fmt : Fmt) (i : Nat) (f : LayB) (prog : Nat) (s : State) : Eff :=
  let t := s.sett i
  let aa := scrTensAs t f.aa fmt
  let ad := tensAs t f.ad fmt
  let s1 := flagEmptyOps i [f.aa] s
  let n := min aa.validCount ad.validCount
  if !ad.mem then .done (s1.flag i flEmpty)
  else stepsFrom i (fun k s => if k < n then redStep i op aa ad k s
    else markStores i ((List.range n).map fun k => (ad.elemAddr (ad.validAt k), 4)) s) (n + 1) prog s1

def effRedAdd (i : Nat) (f : LayB) (prog : Nat) (s : State) : Eff := effRed redAdd32 .i32 i f prog s
def effRedMax (i : Nat) (f : LayB) (prog : Nat) (s : State) : Eff := effRed redMax32 .fp32 i f prog s

end Sys2Proof.Machine
end

