-- ==== Sys2Proof/Machine/Update.lean ====
section
/-! DEFINITION. The update engine: UPD.SWEEP (R115, R303, R305–R313). -/

namespace Sys2Proof.Machine

def modRule (f : LayT) : Nat := field f.md.toNat 17 16

/-- Moments that a rule keeps: 0 SIGNMOM, 1 ADAMC, 2 SGDM, 3 PLAIN (R306). -/
def ruleMoments : Nat → Nat
  | 0 => 1
  | 1 => 2
  | 2 => 1
  | _ => 0

def updWFmt (c : Nat) : Option Fmt :=
  match Fmt.ofCode c with
  | some f => if f = .fp32 ∨ f = .bf16 ∨ f = .fp8a ∨ f = .fp8b ∨ f = .fp6a ∨ f = .fp6b ∨ f = .fp4 then some f else none
  | none => none

def updMFmt (c : Nat) : Option Fmt :=
  match Fmt.ofCode c with
  | some f => if f = .fp32 ∨ f = .bf16 ∨ f = .fp8a ∨ f = .fp8b then some f else none
  | none => none

/-- Record size (R306). -/
def recordBytes (rule : Nat) (w m : Fmt) : Nat :=
  let n := max 64 (16 + 4 * w.bits + ruleMoments rule * 4 * m.bits)
  if n ≤ 64 then 64 else if n ≤ 128 then 128 else if n ≤ 256 then 256 else 512

/-- Hyperparameters as values. -/
structure Hyper where
  eta : Val
  b1 : Val
  b2 : Val
  eps : Val
  decay : Val
  gmul : Val
  gclip : Val
  deriving DecidableEq, Repr

/-- The block from its words. -/
def hyperOf (w : List Val) : Hyper :=
  let w (k : Nat) : Val := w.getD k (.fin 0)
  ⟨w 0, w 1, w 2, w 3, w 4, w 5, w 6⟩

/-- Words of the hyperparameter block: elements of AD in linear index order, 0 outside its valid region (R92, R307). -/
def hyperWords (i : Nat) (ad : Tens) (s : State) : Res (List Val) :=
  Res.mapM (fun k s => ad.readVal i (ad.elemCoords k) s) (List.range 7) s

/-- β ^ n, exactly. -/
def Val.pow (n : Nat) : Val → Val
  | .fin q => .fin (mkRat (q.num ^ n) (q.den ^ n))
  | _ => .nan

def Val.sign : Val → Val
  | .fin q => .fin (if q = 0 then 0 else if q < 0 then -1 else 1)
  | .inf n => .fin (if n then -1 else 1)
  | .nan => .nan

/-- Clamp to ±GCLIP when it is above zero (R308). -/
def clampG (clip g : Val) : Val :=
  if (Val.fin 0).lt clip then (if clip.lt g then clip else if g.lt clip.neg then clip.neg else g) else g

/-- √ of a value; a negative one has no real root (R308). -/
def rootOf (v : Val) : Val := if (Val.fin 0).lt v.neg then .nan else sqrtR .nearest v

/-- New weight and moments of one element (R308); `n` is NSTEP + 1. -/
def ruleElem (rule : Nat) (h : Hyper) (n : Nat) (w m1 m2 raw : Val) : Val × Val × Val :=
  let g := clampG h.gclip (rn (h.gmul.mul raw))
  let one := Val.fin 1
  let avg (b m x : Val) : Val := rn ((b.mul m).add ((one.sub b).mul x))
  let upd (d : Val) : Val := rn (w.sub (h.eta.mul (d.add (h.decay.mul w))))
  match rule with
  | 0 =>
    let a := avg h.b1 m1 g
    (upd a.sign, a, m2)
  | 1 =>
    let a := avg h.b1 m1 g
    let b := avg h.b2 m2 (g.mul g)
    let c1 := rn (one.sub (h.b1.pow n))
    let c2 := rn (one.sub (h.b2.pow n))
    let d := rn ((rn (a.div c1)).div (rn ((rootOf (rn (b.div c2))).add h.eps)))
    (upd d, a, b)
  | 2 =>
    let a := rn ((h.b1.mul m1).add g)
    (upd a, a, m2)
  | _ => (upd g, m1, m2)

/-- A block of 32 codes of a record: its values. -/
def recVals (f : Fmt) (scale : Nat) (bs : List Byte) : List Val :=
  (unpack f.bits (bs.map some) 32).map fun c => f.value (if f.narrow then scale else 0x7F) (c.getD 0)

/-- What a record's turn comes to. -/
inductive RecOut where
  | skipped
  | refused (overflow : Bool)
  | applied (bytes : List Byte) (overflow : Bool)

/-- The record after one update, from its bytes and its gradient (R310). -/
def updRecord (rule size step : Nat) (h : Hyper) (b : List Byte) (raw : List Val) : RecOut :=
  match updWFmt (recField b 4 1 % 16), updMFmt (recField b 5 1 % 16) with
  | some wf, some mf =>
    if recField b 6 1 ≠ rule ∨ recordBytes rule wf mf ≠ size then .refused false
    else
      let k := ruleMoments rule
      let wb := 4 * wf.bits
      let mb := 4 * mf.bits
      let ws := recVals wf (recField b 8 1) ((b.drop 16).take wb)
      let zeros := List.replicate 32 (Val.fin 0)
      let m1 := if 1 ≤ k then recVals mf (recField b 9 1) ((b.drop (16 + wb)).take mb) else zeros
      let m2 := if 2 ≤ k then recVals mf (recField b 10 1) ((b.drop (16 + wb + mb)).take mb) else zeros
      if (raw ++ ws ++ m1 ++ m2).any fun v => !v.isFin then .refused false
      else
        let ns := recField b 12 4
        let out := (List.range 32).map fun j =>
          ruleElem rule h (ns + 1) (ws.getD j (.fin 0)) (m1.getD j (.fin 0)) (m2.getD j (.fin 0)) (raw.getD j (.fin 0))
        let cw := convertBlock .fp32 wf (out.map (·.1))
        let c1 := convertBlock .fp32 mf (out.map (·.2.1))
        let c2 := convertBlock .fp32 mf (out.map (·.2.2))
        let vals (f : Fmt) (c : Narrowed) : List Val := c.codes.map fun x => f.value c.scale x
        let news := out.map (·.1) ++ vals wf cw ++ (if 1 ≤ k then out.map (·.2.1) ++ vals mf c1 else [])
          ++ (if 2 ≤ k then out.map (·.2.2) ++ vals mf c2 else [])
        if news.any fun v => !v.isFin then .refused true
        else
          let put (f : Fmt) (c : Narrowed) (off sc : Nat) (r : List Byte) : List Byte :=
            patch (patch r off (pack f.bits c.codes)) sc [BitVec.ofNat 8 (if f.narrow then c.scale else 0x7F)]
          let r1 := put wf cw 16 8 (patch (patch b 0 (leBytes step 4)) 12 (leBytes (min (ns + 1) (2 ^ 32 - 1)) 4))
          let r2 := if 1 ≤ k then put mf c1 (16 + wb) 9 r1 else r1
          let r3 := if 2 ≤ k then put mf c2 (16 + wb + mb) 10 r2 else r2
          let fl := cw.flags ||| (if 1 ≤ k then c1.flags else 0) ||| (if 2 ≤ k then c2.flags else 0)
          .applied r3 (decide (fl &&& flOverflow ≠ 0))
  | _, _ => .refused false

/-- Record `k`: the outcome, its write made (R310, R312), the tiles that it touches marked (R273). -/
def sweepRecord (i rule step : Nat) (h : Hyper) (aa ab : Tens) (k : Nat) (s : State) : Res RecOut :=
  let size := aa.ext 0
  let va := aa.base + size * k
  (readMem i va 16 .read s).bind fun hd s =>
    if bit (recField hd 7 1) 0 ∨ recField hd 0 4 = step then .ok .skipped s
    else (readMem i va size .read s).bind fun b s =>
      (Res.mapM (fun j s =>
        if 32 * k + j < ab.validCount then ab.readVal i (ab.validAt (32 * k + j)) s else .ok (.fin 0) s)
        (List.range 32) s).bind fun raw s =>
        match updRecord rule size step h b raw with
        | .applied r ov =>
          -- every granule must translate for writing before the record is written as one unit
          (readMem i va size .write s).bind fun _ s => (markStores i [(va, size)] s).bind fun _ s => (writeMem i va r s).bind fun _ s =>
            .ok (.applied r ov) (if ov then s.flag i flOverflow else s)
        | .refused ov => .ok (.refused ov) (if ov then s.flag i flOverflow else s)
        | .skipped => .ok .skipped s

def sweepGo (i rule step : Nat) (f : LayT) (h : Hyper) (aa ab : Tens) :
    Nat → Nat → Nat → Nat → State → Eff
  | 0, _, ap, re, s => .done (setSd i f.sd (min ap (2 ^ 32 - 1) + 2 ^ 32 * min re (2 ^ 32 - 1)) s)
  | n + 1, k, ap, re, s =>
    match sweepRecord i rule step h aa ab k s with
    | .ok .skipped s' => sweepGo i rule step f h aa ab n (k + 1) ap re (clearTrace i s')
    | .ok (.refused _) s' => sweepGo i rule step f h aa ab n (k + 1) ap (re + 1) (clearTrace i s')
    | .ok (.applied _ _) s' => sweepGo i rule step f h aa ab n (k + 1) (ap + 1) re (clearTrace i s')
    | .fault c v kd s' => .fault k [ap, re] c v kd s'
    | .bad x s' => .bad x s'

/-- The operand conditions of R307. DEDUCED: AD holds the block when its extents hold the block's 16 words. -/
def sweepOk (aa ab ad : Tens) : Bool :=
  let rb := aa.ext 0
  let st (k : Nat) : Nat := descStride aa.d k
  let rank := descRank aa.d
  aa.mem && decide (aa.fmt = .u8) && (rb == 64 || rb == 128 || rb == 256 || rb == 512)
    && decide (aa.base % rb = 0) && (decide (rank ≤ 1) || decide (st 1 = rb))
    && (decide (rank ≤ 2) || decide (st 2 = aa.ext 1 * st 1)) && (decide (rank ≤ 3) || decide (st 3 = aa.ext 2 * st 2))
    && ab.mem && (ab.fmt == .fp32 || ab.fmt == .bf16 || ab.fmt == .fp8a)
    && !ad.mem && decide (ad.fmt = .fp32) && decide (16 ≤ ad.ext 0 * ad.ext 1 * ad.ext 2 * ad.ext 3)

/-- UPD.SWEEP (R310, R311); applied and refused counts are in the progress record. -/
def effUpdSweep (i : Nat) (f : LayT) (prog : Nat) (aux : List Nat) (s : State) : Eff :=
  let t := s.sett i
  let aa := tens t f.aa
  let ab := tens t f.ab
  let ad := tens t f.ad
  let n := aa.valid 1 * aa.valid 2 * aa.valid 3
  let step := (t.sreg f.sa).toNat % 2 ^ 32
  if !sweepOk aa ab ad then .done (setSd i f.sd (2 ^ 32 * min n (2 ^ 32 - 1)) s)
  else if step = 0 then .done (setSd i f.sd 0 s)
  else match hyperWords i ad s with
    | .ok ws s => sweepGo i (modRule f) step f (hyperOf ws) aa ab (n - prog) prog
        (aux.getD 0 0) (aux.getD 1 0) s
    | .fault c v k s => .fault prog aux c v k s
    | .bad x s => .bad x s

end Sys2Proof.Machine
end

