-- ==== Sys2Proof/Machine/Units.lean ====
section
/-! DEFINITION. Issue, unit queues, interlocks, completion and the rows that release what waits
(R42, R53–R66, R71, R83–R85, R94, R102, R158). -/

namespace Sys2Proof.Machine

/-! What an instruction uses -/

/-- The unit of an instruction (none: the issue unit), whether it carries an extension word, whether
PRED masks lanes instead of the whole (R83), and the registers and banks that it reads and writes. -/
structure Use where
  st : Nat
  h : Hdr
  unit : Option UnitId
  ext : Bool
  lanes : Bool
  rd : List Nat
  wr : List Nat
  deriving DecidableEq, Repr

/-! Numbers of the interlocked resources: scalars, predicates, descriptors, vectors, banks, statistics. -/
def uS (r : BitVec 5) : List Nat := if r = 0 then [] else [r.toNat]
def uP (r : BitVec 3) : List Nat := if r = 0 then [] else [32 + r.toNat]
def uA (r : BitVec 4) : List Nat := [40 + r.toNat]
def uV (r : BitVec 5) : List Nat := [64 + r.toNat]
def uBank (b : Nat) : List Nat := [96 + b]
def uStats : List Nat := [98]
def uOp2 (f : LayS) : List Nat := if f.i then [] else uS f.sb
def uOpB (f : LayB) : List Nat := if f.i then [] else uS f.sb
def uAff (f : LayT) : List Nat := if modAff f then uA f.ab else []
def fnReads (op : FnOp) (f : LayF) : List Nat :=
  if f.m then uA (f.a.setWidth 4) ++ uA (f.d.setWidth 4) ++ (if op.usesB then uA (f.b.setWidth 4) else [])
  else uV f.a ++ uV f.d ++ (if op.usesB then uV f.b else [])
def fnWrites (f : LayF) : List Nat := if f.m then [] else uV f.d

def haloUnit : Nat → UnitId
  | 0 => .haloN
  | 1 => .haloE
  | 2 => .haloS
  | _ => .haloW

/-- Queue depths (R42). -/
def unitDepth : UnitId → Nat
  | .stream => 16 | .matrix => 4 | .conv => 2 | .vector => 8 | .row => 4 | .func => 4 | .window => 4 | .sort => 2
  | .haloN => 4 | .haloE => 4 | .haloS => 4 | .haloW => 4 | .mesh => 8

/-- The sett instructions; none for any other command. -/
def useOf : Instr → Option Use
  | .ctlBr st h _ => some ⟨st, h, none, false, false, [], []⟩
  | .ctlLoop st h f => some ⟨st, h, none, false, false, uS f.sa, uS f.sa⟩
  | .ctlEnd st h _ => some ⟨st, h, none, false, false, [], []⟩
  | .sclAdd st h f => some ⟨st, h, none, false, false, uS f.sa ++ uOp2 f, uS f.sd⟩
  | .sclSub st h f => some ⟨st, h, none, false, false, uS f.sa ++ uOp2 f, uS f.sd⟩
  | .sclMul st h f => some ⟨st, h, none, false, false, uS f.sa ++ uOp2 f, uS f.sd⟩
  | .sclDivu st h f => some ⟨st, h, none, false, false, uS f.sa ++ uOp2 f, uS f.sd⟩
  | .sclRemu st h f => some ⟨st, h, none, false, false, uS f.sa ++ uOp2 f, uS f.sd⟩
  | .sclAnd st h f => some ⟨st, h, none, false, false, uS f.sa ++ uOp2 f, uS f.sd⟩
  | .sclOr st h f => some ⟨st, h, none, false, false, uS f.sa ++ uOp2 f, uS f.sd⟩
  | .sclXor st h f => some ⟨st, h, none, false, false, uS f.sa ++ uOp2 f, uS f.sd⟩
  | .sclShl st h f => some ⟨st, h, none, false, false, uS f.sa ++ uOp2 f, uS f.sd⟩
  | .sclShr st h f => some ⟨st, h, none, false, false, uS f.sa ++ uOp2 f, uS f.sd⟩
  | .sclSra st h f => some ⟨st, h, none, false, false, uS f.sa ++ uOp2 f, uS f.sd⟩
  | .sclMin st h f => some ⟨st, h, none, false, false, uS f.sa ++ uOp2 f, uS f.sd⟩
  | .sclMax st h f => some ⟨st, h, none, false, false, uS f.sa ++ uOp2 f, uS f.sd⟩
  | .sclMinu st h f => some ⟨st, h, none, false, false, uS f.sa ++ uOp2 f, uS f.sd⟩
  | .sclMaxu st h f => some ⟨st, h, none, false, false, uS f.sa ++ uOp2 f, uS f.sd⟩
  | .sclLi st h f _ => some ⟨st, h, none, true, false, [], uS f.sd⟩
  | .sclCmpEq st h f => some ⟨st, h, none, false, false, uS f.sa ++ uOp2 f, uP (f.sd.setWidth 3)⟩
  | .sclCmpNe st h f => some ⟨st, h, none, false, false, uS f.sa ++ uOp2 f, uP (f.sd.setWidth 3)⟩
  | .sclCmpLt st h f => some ⟨st, h, none, false, false, uS f.sa ++ uOp2 f, uP (f.sd.setWidth 3)⟩
  | .sclCmpLe st h f => some ⟨st, h, none, false, false, uS f.sa ++ uOp2 f, uP (f.sd.setWidth 3)⟩
  | .sclCmpLtu st h f => some ⟨st, h, none, false, false, uS f.sa ++ uOp2 f, uP (f.sd.setWidth 3)⟩
  | .sclCmpLeu st h f => some ⟨st, h, none, false, false, uS f.sa ++ uOp2 f, uP (f.sd.setWidth 3)⟩
  | .descSet st h f => some ⟨st, h, none, false, false, uS f.sa ++ uS (f.sa + 1) ++ uS (f.sa + 2) ++ uS (f.sa + 3), uA (f.sd.setWidth 4)⟩
  | .descAdj st h f => some ⟨st, h, none, false, false, uOp2 f ++ uA (f.sd.setWidth 4), uA (f.sd.setWidth 4)⟩
  | .descValid st h f => some ⟨st, h, none, false, false, uOp2 f ++ uA (f.sd.setWidth 4), uA (f.sd.setWidth 4)⟩
  | .descGet st h f => some ⟨st, h, none, false, false, uA (f.sa.setWidth 4), uS f.sd⟩
  | .strLoad st h f => some ⟨st, h, some .stream, false, false, uA f.aa ++ uA f.ad, []⟩
  | .strStore st h f => some ⟨st, h, some .stream, false, false, uA f.aa ++ uA f.ad, []⟩
  | .strGather st h f => some ⟨st, h, some .stream, false, false, uA f.aa ++ uA f.ab ++ uA f.ad, []⟩
  | .strScan st h f => some ⟨st, h, some .stream, false, false, uA f.aa ++ uA f.ab, uS f.sd⟩
  | .strPref st h f => some ⟨st, h, some .stream, false, false, uA f.aa, []⟩
  | .strCopy st h f => some ⟨st, h, some .stream, false, false, uA f.aa ++ uA f.ad, []⟩
  | .mmaWld st h f => some ⟨st, h, some .matrix, false, false, uA f.ab, []⟩
  | .mma st h f => some ⟨st, h, some .matrix, false, false, uA f.aa, uBank (modLb f)⟩
  | .ldgAnchor st h f => some ⟨st, h, some .matrix, false, false, uS f.sa, uBank (modLb f)⟩
  | .ldgCvt st h f => some ⟨st, h, some .conv, false, false, uA f.ad ++ uBank (modLb f), if modAcc f then uBank (modLb f) else []⟩
  | .vecAdd st h f => some ⟨st, h, some .vector, false, true, uV f.va ++ uV f.vb ++ uV f.vd, uV f.vd⟩
  | .vecSub st h f => some ⟨st, h, some .vector, false, true, uV f.va ++ uV f.vb ++ uV f.vd, uV f.vd⟩
  | .vecMul st h f => some ⟨st, h, some .vector, false, true, uV f.va ++ uV f.vb ++ uV f.vd, uV f.vd⟩
  | .vecFma st h f => some ⟨st, h, some .vector, false, true, uV f.va ++ uV f.vb ++ uV f.vc ++ uV f.vd, uV f.vd⟩
  | .vecMax st h f => some ⟨st, h, some .vector, false, true, uV f.va ++ uV f.vb ++ uV f.vd, uV f.vd⟩
  | .vecMin st h f => some ⟨st, h, some .vector, false, true, uV f.va ++ uV f.vb ++ uV f.vd, uV f.vd⟩
  | .vecAbs st h f => some ⟨st, h, some .vector, false, true, uV f.va ++ uV f.vd, uV f.vd⟩
  | .vecCmp st h f => some ⟨st, h, some .vector, false, true, uV f.va ++ uV f.vb ++ uP f.pd, uP f.pd⟩
  | .vecSel st h f => some ⟨st, h, some .vector, false, true, uV f.va ++ uV f.vb ++ uP f.pd ++ uV f.vd, uV f.vd⟩
  | .vecBcast st h f => some ⟨st, h, some .vector, false, true, uS f.sa ++ uV f.vd, uV f.vd⟩
  | .vecLd st h f => some ⟨st, h, some .vector, false, true, uA f.aa ++ uS f.sa ++ uV f.vd, uV f.vd⟩
  | .vecSt st h f => some ⟨st, h, some .vector, false, true, uA f.aa ++ uS f.sa ++ uV f.vd, []⟩
  | .vecIadd st h f => some ⟨st, h, some .vector, false, true, uV f.va ++ uV f.vb ++ uV f.vd, uV f.vd⟩
  | .vecPerm st h f => some ⟨st, h, some .vector, false, true, uV f.va ++ uV f.vb ++ uV f.vd, uV f.vd⟩
  | .vecRsum st h f => some ⟨st, h, some .vector, false, true, uV f.va ++ uV f.vd, uV f.vd⟩
  | .fnTanh st h f => some ⟨st, h, some .func, false, !f.m, fnReads .tanh f, fnWrites f⟩
  | .fnSig st h f => some ⟨st, h, some .func, false, !f.m, fnReads .sig f, fnWrites f⟩
  | .gateSig st h f => some ⟨st, h, some .func, false, !f.m, fnReads .gateSig f, fnWrites f⟩
  | .gateTanh st h f => some ⟨st, h, some .func, false, !f.m, fnReads .gateTanh f, fnWrites f⟩
  | .gateSilu st h f => some ⟨st, h, some .func, false, !f.m, fnReads .gateSilu f, fnWrites f⟩
  | .gateGelu st h f => some ⟨st, h, some .func, false, !f.m, fnReads .gateGelu f, fnWrites f⟩
  | .rowNorm st h f => some ⟨st, h, some .row, false, false, uA f.aa ++ uA f.ad ++ uAff f ++ uS f.sa, uStats⟩
  | .rowRms st h f => some ⟨st, h, some .row, false, false, uA f.aa ++ uA f.ad ++ uAff f ++ uS f.sa, uStats⟩
  | .rowSmax st h f => some ⟨st, h, some .row, false, false, uA f.aa ++ uA f.ad ++ uS f.sa, uStats⟩
  | .rowStat st h f => some ⟨st, h, some .row, false, false, uA f.aa ++ uA f.ad, uStats⟩
  | .winConv st h f _ => some ⟨st, h, some .window, true, false, uA f.aa, uBank (b2n f.lb)⟩
  | .winPool st h f _ => some ⟨st, h, some .window, true, false, uA f.aa ++ uA f.ad, []⟩
  | .fftR4 st h f => some ⟨st, h, some .vector, false, false, uA f.aa ++ uA f.ab ++ uA f.ad ++ uS f.sa, []⟩
  | .fftR8 st h f => some ⟨st, h, some .vector, false, false, uA f.aa ++ uA f.ab ++ uA f.ad ++ uS f.sa, []⟩
  | .fftCmul st h f => some ⟨st, h, some .vector, false, false, uA f.aa ++ uA f.ab ++ uA f.ad, []⟩
  | .sortPairs st h f => some ⟨st, h, some .sort, false, false, uA f.aa ++ uA f.ad, uS f.sd⟩
  | .sortTopk st h f => some ⟨st, h, some .sort, false, false, uA f.aa ++ uA f.ad ++ uS f.sa, uS f.sd⟩
  | .sortMerge st h f => some ⟨st, h, some .mesh, false, false, uA f.aa ++ uA f.ad ++ uS f.sa, uS f.sd⟩
  | .attnStep st h f => some ⟨st, h, some .row, false, false, uA f.aa ++ uA f.ab ++ uA f.ad ++ uS f.sa, uS f.sd⟩
  | .attnMerge st h f => some ⟨st, h, some .mesh, false, false, uA f.ad ++ uS f.sa, []⟩
  | .kvScatter st h f => some ⟨st, h, some .stream, false, false, uA f.aa ++ uA f.ab ++ uS f.sa ++ uS f.sb, []⟩
  | .kvLoad st h f => some ⟨st, h, some .stream, false, false, uA f.aa ++ uA f.ad ++ uS f.sa ++ uS f.sb, []⟩
  | .kvSumm st h f => some ⟨st, h, some .row, false, false, uA f.aa ++ uA f.ad, []⟩
  | .cairnLookup st h f => some ⟨st, h, some .mesh, false, false, uA f.aa ++ uA f.ad ++ uS f.sa, uS f.sd⟩
  | .cairnFill st h f => some ⟨st, h, some .stream, false, false, uA f.aa ++ uS f.sa ++ uS f.sb, []⟩
  | .cairnFlip st h f => some ⟨st, h, some .mesh, false, false, uS f.sa ++ uS f.sb, uS f.sd⟩
  | .haloPut st h f => some ⟨st, h, some (haloUnit (modDir f)), false, false, uA f.aa ++ uS f.sa, []⟩
  | .haloTake st h f => some ⟨st, h, some (haloUnit (modDir f)), false, false, uA f.ad, uS f.sd⟩
  | .haloSpill st h f => some ⟨st, h, some .stream, false, false, uA f.ad, uS f.sd⟩
  | .haloFill st h f => some ⟨st, h, some .stream, false, false, uA f.aa ++ uS f.sb, uS f.sd⟩
  | .syncWait st h f => some ⟨st, h, none, false, false, uOpB f, []⟩
  | .syncFence st h _ => some ⟨st, h, none, false, false, [], []⟩
  | .syncWaitge st h f => some ⟨st, h, some .mesh, false, false, uS f.sa ++ uOpB f, []⟩
  | .wcTake st h f => some ⟨st, h, some .mesh, false, false, uS f.sa ++ uOpB f, uS f.sd⟩
  | .atomMax st h f => some ⟨st, h, some .mesh, false, false, uS f.sa ++ uOpB f, uS f.sd⟩
  | .atomMin st h f => some ⟨st, h, some .mesh, false, false, uS f.sa ++ uOpB f, uS f.sd⟩
  | .atomXchg st h f => some ⟨st, h, some .mesh, false, false, uS f.sa ++ uOpB f, uS f.sd⟩
  | .atomCas st h f _ => some ⟨st, h, some .mesh, true, false, uS f.sa ++ uOpB f, uS f.sd⟩
  | .redAdd st h f => some ⟨st, h, some .mesh, false, false, uA f.aa ++ uA f.ad, []⟩
  | .redMax st h f => some ⟨st, h, some .mesh, false, false, uA f.aa ++ uA f.ad, []⟩
  | .collPost st h f => some ⟨st, h, some .mesh, false, false, uA f.aa ++ uS f.sa, []⟩
  | .updSweep st h f => some ⟨st, h, some .stream, false, false, uA f.aa ++ uA f.ab ++ uA f.ad ++ uS f.sa, uS f.sd⟩
  | .qntCvt st h f => some ⟨st, h, some .stream, false, false, uA f.aa ++ uA f.ad, []⟩
  | .escCheck st h f => some ⟨st, h, some .stream, false, false, uA f.ab, uP (modPd f) ++ uS f.sd⟩
  | .escMark st h f => some ⟨st, h, some .stream, false, false, [], uS f.sd⟩
  | .escPin st h _ => some ⟨st, h, some .stream, false, false, [], []⟩
  | .escClr st h _ => some ⟨st, h, some .stream, false, false, [], []⟩
  | .sysNop st h _ => some ⟨st, h, none, false, false, [], []⟩
  | .sysCaps st h f => some ⟨st, h, none, false, false, [], uS f.sd⟩
  | .sysFlags st h f => some ⟨st, h, none, false, false, [], uS f.sd⟩
  | _ => none

/-- Effect of a class 0x4 instruction on the sett alone. -/
def vecEff (i : Nat) (g : Sett → Sett) (s : State) : Eff := .done (s.setSett i g)

/-- What a unit does with an instruction, from its progress record on. -/
def unitEffect (i seq : Nat) (prog : Nat) (aux : List Nat) (ins : Instr) (s : State) : Eff :=
  match ins with
  | .strLoad _ _ f => effStrLoad i f prog s
  | .strStore _ _ f => effStrStore i f prog s
  | .strGather _ _ f => effStrGather i f prog aux s
  | .strScan _ _ f => effStrScan i f prog aux s
  | .strPref _ _ f => effStrPref i f s
  | .strCopy _ _ f => effStrCopy i f prog s
  | .mmaWld _ _ f => effMmaWld i f s
  | .mma _ _ f => effMma i seq f s
  | .ldgAnchor _ _ f => effLdgAnchor i f s
  | .ldgCvt _ _ f => effLdgCvt i f s
  | .vecAdd _ h f => vecEff i (effVecAdd h f) s
  | .vecSub _ h f => vecEff i (effVecSub h f) s
  | .vecMul _ h f => vecEff i (effVecMul h f) s
  | .vecFma _ h f => vecEff i (effVecFma h f) s
  | .vecMax _ h f => vecEff i (effVecMax h f) s
  | .vecMin _ h f => vecEff i (effVecMin h f) s
  | .vecAbs _ h f => vecEff i (effVecAbs h f) s
  | .vecCmp _ h f => vecEff i (effVecCmp h f) s
  | .vecSel _ h f => vecEff i (effVecSel h f) s
  | .vecBcast _ h f => vecEff i (effVecBcast h f) s
  | .vecLd _ h f => effVecLd i h f s
  | .vecSt _ h f => effVecSt i h f s
  | .vecIadd _ h f => vecEff i (effVecIadd h f) s
  | .vecPerm _ h f => vecEff i (effVecPerm h f) s
  | .vecRsum _ h f => vecEff i (effVecRsum h f) s
  | .fnTanh _ h f => effFn .tanh i h f prog s
  | .fnSig _ h f => effFn .sig i h f prog s
  | .gateSig _ h f => effFn .gateSig i h f prog s
  | .gateTanh _ h f => effFn .gateTanh i h f prog s
  | .gateSilu _ h f => effFn .gateSilu i h f prog s
  | .gateGelu _ h f => effFn .gateGelu i h f prog s
  | .rowNorm _ _ f => effRow .norm i f prog s
  | .rowRms _ _ f => effRow .rms i f prog s
  | .rowSmax _ _ f => effRow .smax i f prog s
  | .rowStat _ _ f => effRow .stat i f prog s
  | .winConv _ _ f ext => effWinConv i seq f ext prog s
  | .winPool _ _ f ext => effWinPool i f ext s
  | .fftR4 _ _ f => effFft 2 i f s
  | .fftR8 _ _ f => effFft 3 i f s
  | .fftCmul _ _ f => effFftCmul i f s
  | .sortPairs _ _ f => effSortPairs i f s
  | .sortTopk _ _ f => effSortTopk i f s
  | .sortMerge _ _ f => effSortMerge i f prog aux s
  | .attnStep _ _ f => effAttnStep i f prog aux s
  | .attnMerge _ _ f => effAttnMerge i f prog aux s
  | .kvScatter _ _ f => effKvScatter i f aux s
  | .kvLoad _ _ f => effKvLoad i f prog aux s
  | .kvSumm _ _ f => effKvSumm i f prog s
  | .cairnLookup _ _ f => effCairnLookup i f prog aux s
  | .cairnFill _ _ f => effCairnFill i f prog aux s
  | .cairnFlip _ _ f => effCairnFlip i f s
  | .haloPut _ _ f => effHaloPut i f s
  | .haloTake _ _ f => effHaloTake i f s
  | .haloSpill _ _ f => effHaloSpill i f aux s
  | .haloFill _ _ f => effHaloFill i f aux s
  | .syncWaitge _ _ f => effWaitge i f prog s
  | .wcTake _ _ f => effWcTake i f s
  | .atomMax _ _ f => effAtomMax i f s
  | .atomMin _ _ f => effAtomMin i f s
  | .atomXchg _ _ f => effAtomXchg i f s
  | .atomCas _ _ f ext => effAtomCas i f ext s
  | .redAdd _ _ f => effRedAdd i f prog s
  | .redMax _ _ f => effRedMax i f prog s
  | .collPost _ _ f => effCollPost i f s
  | .updSweep _ _ f => effUpdSweep i f prog aux s
  | .qntCvt _ _ f => effQntCvt i f prog s
  | .escCheck _ _ f => effEscCheck i seq f s
  | .escMark _ _ f => effEscMark i seq f s
  | .escPin _ _ f => effEscPin i f s
  | .escClr _ _ f => effEscClr i seq f s
  | _ => .done s

/-! Overlapping extents (R94) -/

/-- Destinations of an instruction, each with the sources it may overlap; none where a rule says that it writes nothing
(R228, R240, R252, R261, R307, R310). -/
def destsOf (t : Sett) (ins : Instr) : List (Tens × List Tens) :=
  match ins with
  | .strLoad _ _ f => [(tens t f.ad, [tens t f.aa])]
  | .strStore _ _ f => [(tens t f.ad, [tens t f.aa])]
  | .strCopy _ _ f => [(tensAs t f.ad (descFormat t f.aa), [tens t f.aa])]
  | .strGather _ _ f => [(tens t f.ad, [tens t f.aa, tens t f.ab])]
  | .fnTanh _ _ f => fnDest f false
  | .fnSig _ _ f => fnDest f false
  | .gateSig _ _ f => fnDest f true
  | .gateTanh _ _ f => fnDest f true
  | .gateSilu _ _ f => fnDest f false
  | .gateGelu _ _ f => fnDest f false
  | .rowNorm _ _ f => [(scrTens t f.ad, scrTens t f.aa :: (if modAff f then [scrTens t f.ab] else []))]
  | .rowRms _ _ f => [(scrTens t f.ad, scrTens t f.aa :: (if modAff f then [scrTens t f.ab] else []))]
  | .rowSmax _ _ f => [(scrTens t f.ad, [scrTens t f.aa])]
  | .rowStat _ _ f => [(scrTens t f.ad, [scrTens t f.aa])]
  | .winPool _ _ f ext =>
    let fm := (Fmt.ofCode f.fmt.toNat).getD .fp32
    if (winGeo t f ext).positions = 0 then [] else [(scrTensAs t f.ad fm, [scrTensAs t f.aa fm])]
  | .fftR4 _ _ f => if fftWorks 2 t f then [(scrTens t f.ad, [scrTens t f.aa, scrTens t f.ab])] else []
  | .fftR8 _ _ f => if fftWorks 3 t f then [(scrTens t f.ad, [scrTens t f.aa, scrTens t f.ab])] else []
  | .fftCmul _ _ f => [(scrTens t f.ad, [scrTens t f.aa, scrTens t f.ab])]
  | .sortPairs _ _ f => sortDest f
  | .sortTopk _ _ f => if (t.sreg f.sa).toNat = 0 then [] else sortDest f
  | .sortMerge _ _ f => sortDest f
  | .attnStep _ _ f =>
    let fm := (Fmt.ofCode (modFmt f)).getD .bf16
    let aa := scrTens t f.aa
    [(scrTensAs t f.ab fm, [aa]), (scrTensAs t f.ad .fp32, [aa, scrTensAs t f.ab fm])]
  | .kvLoad _ _ f => [(scrTens t f.ad, [scrTens t f.aa])]
  | .kvSumm _ _ f => [(scrTens t f.ad, [scrTens t f.aa])]
  | .cairnLookup _ _ f => if descFormat t f.ad = .u32 then [(tens t f.ad, [tens t f.aa])] else []
  | .updSweep _ _ f =>
    if sweepOk (tens t f.aa) (tens t f.ab) (tens t f.ad) ∧ (t.sreg f.sa).toNat % 2 ^ 32 ≠ 0 then
      [(tens t f.aa, [tens t f.ab])] else []
  | .qntCvt _ _ f => [(scrTens t f.ad, [scrTens t f.aa])]
  | _ => []
where
  fnDest (f : LayF) (b : Bool) : List (Tens × List Tens) :=
    if f.m then
      [(scrTens t (f.d.setWidth 4), scrTens t (f.a.setWidth 4) :: (if b then [scrTens t (f.b.setWidth 4)] else []))]
    else []
  -- class 0x8 takes its operands as 32-bit words (R228)
  sortDest (f : LayT) : List (Tens × List Tens) :=
    if mergeMute t f then [] else [(scrTensAs t f.ad .u32, [scrTensAs t f.aa .u32])]

/-- Give every byte of a range a free value; a granule that cannot be written keeps its bytes. -/
def freeRange (i : Nat) (t : Tens) (r : Nat × Nat) (s : State) : State :=
  (granules r.1 r.2).foldl (fun s g =>
    match t.writeBytes i g.1 ((iota s.fresh g.2).map Config.freeByte) { s with fresh := s.fresh + g.2 } with
    | .ok _ s' => s'
    | .fault _ _ _ _ => s
    | .bad _ _ => s) s

/-- Contents of destinations that overlap a source otherwise than in place are unspecified. -/
def clobber (i : Nat) (ds : List (Tens × List Tens)) (s : State) : State :=
  ds.foldl (fun s d => if d.2.any d.1.clashes then d.1.ranges.foldl (fun s r => freeRange i d.1 r s) s else s) s

/-! The queue of a sett -/

def Sett.setEntryOf (t : Sett) (seq : Nat) (f : QEntry → QEntry) : Sett :=
  { t with queue := t.queue.map fun e => if e.seq = seq then f e else e }

/-- Entries issued before `seq`. -/
def Sett.before (t : Sett) (seq : Nat) : List QEntry := t.queue.filter fun e => decide (e.seq < seq)

def writesOf (e : QEntry) : List Nat := ((useOf e.instr).map (·.wr)).getD []
def readsOf (e : QEntry) : List Nat := ((useOf e.instr).map fun u => u.rd ++ uP u.h.pred).getD []

/-- Does an earlier entry hold up the resources `rd` (read) and `wr` (written)? An earlier writer until it
has completed, an earlier reader until it has executed (R56). -/
def hazard (es : List QEntry) (rd wr : List Nat) : Bool :=
  es.any fun e =>
    ((writesOf e).any fun r => rd.contains r || wr.contains r)
      || (decide (e.st ≠ .done) && (readsOf e).any wr.contains)

def isWld : Instr → Bool
  | .mmaWld _ _ _ => true
  | _ => false

def hasSwap : Instr → Bool
  | .mma _ _ f => modSwap f
  | .winConv _ _ f _ => f.swap
  | _ => false

/-- MMA and WIN.CONV, which take the matrix unit with its active plane (R102, R256). -/
def usesPlane : Instr → Bool
  | .mma _ _ _ => true
  | .winConv _ _ _ _ => true
  | _ => false

/-- Is `x` an instruction whose sheds the ESC.CHECK counts: of its slot's span (R158)? -/
def checkAwaits (t : Sett) (ins : Instr) (x : QEntry) : Bool :=
  match ins with
  | .escCheck _ _ f => usesPlane x.instr && decide ((t.slot (modSlot14 f)).spanSeq ≤ x.seq)
  | _ => false

/-- Must the entry wait until `x` has begun: the planes serve WIN.CONV, MMA and MMA.WLD in issue order (R102, R267)? -/
def planeOrder (e x : QEntry) : Bool :=
  decide (x.st ≠ .done) && ((usesPlane e.instr && usesPlane x.instr) || (isWld e.instr && usesPlane x.instr))

/-- What keeps entry `e` from starting: the interlock on PRED, then for one that is not suppressed the
interlock on the rest, the order of the plane users, the plane load of R102 and the completions of R158. -/
def holdOf (t : Sett) (e : QEntry) (u : Use) : Option WaitKind :=
  let es := t.before e.seq
  if hazard es (uP u.h.pred) [] then some .interlock
  else if !u.lanes && !t.lane0 u.h.pred then none
  else if hazard es u.rd u.wr || es.any (planeOrder e) then some .interlock
  else if hasSwap e.instr && es.any fun x => isWld x.instr then some .swap
  else if es.any (checkAwaits t e.instr) then some .escCheck
  else none

/-- COLL.POST, whose context may meet a fatal fault at once. -/
def isPost : Instr → Bool
  | .collPost _ _ _ => true
  | _ => false

/-- Instructions that a fault stops in mid-step and that go on from the faulting granule (R65, R371); the others keep their
progress record alone, or start again. -/
def resumes : Instr → Bool
  | .strLoad _ _ _ | .strStore _ _ _ | .strGather _ _ _ | .strScan _ _ _ | .strCopy _ _ _ => true
  | .cairnLookup _ _ _ | .cairnFill _ _ _ | .haloSpill _ _ _ | .updSweep _ _ _ => true
  | _ => false

/-- Sett `i` before its unit runs entry `e`: what the entry's step under way had before a fault is to hand. -/
def withTrace (i : Nat) (e : QEntry) (s : State) : State :=
  if resumes e.instr then s.setSett i fun t => { t with trace := some ⟨e.kept, []⟩ } else s

/-- And after it has run. -/
def endTrace (i : Nat) (s : State) : State :=
  if (s.sett i).trace.isNone then s else s.setSett i fun t => { t with trace := none }

/-- What the step under way has accessed so far. -/
def Sett.accessed (t : Sett) : List (List Byte) :=
  match t.trace with
  | some x => x.made
  | none => []

/-- Execute entry `seq` of sett `i` as far as it goes; `fin` ends the run where it fails. -/
def runEntry (fin : Ender) (i seq : Nat) (s : State) : State :=
  let t := s.sett i
  match t.queue.find? fun e => e.seq == seq with
  | none => s
  | some e =>
    match useOf e.instr with
    | none => s
    | some u =>
      let mark (st : EntrySt) (prog : Nat) (aux : List Nat) (kept : List (List Byte)) (s : State) : State :=
        (endTrace i s).setSett i fun x => x.setEntryOf seq fun e => { e with st := st, prog := prog, aux := aux, kept := kept }
      match holdOf t e u with
      | some k => s.setSett i fun t => t.setEntryOf seq fun e => { e with st := .waiting k }
      | none =>
        if !u.lanes && !t.lane0 u.h.pred then mark .done 0 [] [] s
        else
          let ds := destsOf t e.instr
          let aux0 := if e.aux.isEmpty then boundAux s i e.instr else e.aux
          match unitEffect i seq e.prog aux0 e.instr (withTrace i e s) with
          | .done s1 =>
            let s2 := mark .done 0 aux0 [] (clobber i ds s1)
            if isPost e.instr then settleDoomBy fin s2 else s2
          | .wait k prog aux s1 => mark (.waiting k) prog aux (s1.sett i).accessed s1
          | .fault prog aux cls va kind s1 =>
            match s1.stile.cur with
            | none => endTrace i s1
            | some r =>
              settFault fin (mark (.paused (faultId s1 r.client va cls (.sett i e.unit))) prog aux (s1.sett i).accessed s1) i e.unit va cls kind
          | .bad st s1 => fin i st (endTrace i s1)

/-- May an attempt on entry `e` be made: it is the first of its unit not yet executed? -/
def Sett.ahead (t : Sett) (e : QEntry) : Bool :=
  !((t.before e.seq).any fun x => x.unit == e.unit && x.st != .done)

/-- Attempt entry `seq` if `p` holds of it and its unit has come to it. -/
def tryEntry (fin : Ender) (i : Nat) (p : QEntry → Bool) (s : State) (seq : Nat) : State :=
  match (s.sett i).queue.find? fun e => e.seq == seq with
  | none => s
  | some e => if p e && (s.sett i).ahead e then runEntry fin i seq s else s

def entryFree (e : QEntry) : Bool := e.st == .queued || e.st == .waiting .interlock

/-- Every unit goes on with what it can, in issue order. -/
def advanceBy (fin : Ender) (i : Nat) (s : State) : State :=
  ((s.sett i).queue.map (·.seq)).foldl (tryEntry fin i entryFree) s

/-! Completion, and the stop of a run (R55, R58, R66, R71, R85) -/

/-- The unit's oldest instruction, once executed, leaves its queue and advances its event counter; nothing if it has not
executed. -/
def popHead (i : Nat) (q : UnitId) (s : State) : State :=
  match (s.sett i).queue.find? fun e => e.unit == q with
  | none => s
  | some e =>
    if e.st ≠ .done then s
    else s.setSett i fun t =>
      let t1 := { t with queue := t.queue.filter fun x => x.seq != e.seq }
      match useOf e.instr with
      | some u => if u.h.ev then t1.bumpE u.h.evt else t1
      | none => t1

/-- Complete what the units of a sett have executed, letting what follows execute, until nothing moves (R66). -/
def drainSett (fin : Ender) (i : Nat) : Nat → State → State
  | 0, s => s
  | n + 1, s =>
    match (s.sett i).queue.find? fun e => e.st == .done with
    | none => s
    | some e => drainSett fin i n (advanceBy fin i (popHead i e.unit s))

/-- The running run's physical setts. -/
def runSetts (s : State) : List Nat := ((s.stile.cur.map (·.placement)).getD []).map (·.2)

/-- The setts of the running run but `i` stop under the rules of pre-emption; an error that one meets then is lost with
its state. -/
def stopOthers (i : Nat) (s : State) : State :=
  ((runSetts s).filter (· ≠ i)).foldl (fun s j =>
    drainSett (fun _ _ s => s) j ((s.sett j).queue.length + 1)
      (s.setSett j fun t => { t with phase := if t.phase = .running then .draining else t.phase })) s

/-- Sett `i` (none: Stile) ends the run with a status: the others stop, then the run ends (R71). A sequence outside any run
ends alone. -/
def failRun : Ender := fun i status s =>
  if s.stile.cur.isNone ∨ s.settMode i ≠ 0 then endSequence i status s else endRun (stopOthers i s) status

/-- Every unit of a sett goes on with what it can. -/
def advance (i : Nat) (s : State) : State := advanceBy failRun i s

/-- What has been met that ends the run ends it. -/
def settleDoom (s : State) : State := settleDoomBy failRun s

/-- Retry the entries that `p` picks, then let the units go on. -/
def retry (i : Nat) (p : QEntry → Bool) (s : State) : State :=
  advance i (((s.sett i).queue.map (·.seq)).foldl (tryEntry failRun i p) s)

def waitsFor (k : WaitKind) (e : QEntry) : Bool := e.st == .waiting k

/-! Issue (R53, R54, R59, R60, R83, R84) -/

/-- Next state of the sett for an instruction of classes 0x0, 0x1 and 0xF; none for 0x0202. DESIGN CHOICE: on a sett without
logical coordinates SYS.CAPS 0x03 and 0x04 give 0 (R119). -/
def issueEffect (i : Nat) (ins : Instr) (s : State) (t : Sett) : Option Sett :=
  match ins with
  | .ctlBr _ h f => some (effCtlBr h f t)
  | .ctlLoop _ _ f => some (effCtlLoop f t)
  | .ctlEnd _ _ _ => some (effCtlEnd t)
  | .sclAdd _ _ f => some (effSclAdd f t)
  | .sclSub _ _ f => some (effSclSub f t)
  | .sclMul _ _ f => some (effSclMul f t)
  | .sclDivu _ _ f => some (effSclDivu f t)
  | .sclRemu _ _ f => some (effSclRemu f t)
  | .sclAnd _ _ f => some (effSclAnd f t)
  | .sclOr _ _ f => some (effSclOr f t)
  | .sclXor _ _ f => some (effSclXor f t)
  | .sclShl _ _ f => some (effSclShl f t)
  | .sclShr _ _ f => some (effSclShr f t)
  | .sclSra _ _ f => some (effSclSra f t)
  | .sclMin _ _ f => some (effSclMin f t)
  | .sclMax _ _ f => some (effSclMax f t)
  | .sclMinu _ _ f => some (effSclMinu f t)
  | .sclMaxu _ _ f => some (effSclMaxu f t)
  | .sclLi _ _ f ext => some (effSclLi f ext t)
  | .sclCmpEq _ _ f => some (effCmpEq f t)
  | .sclCmpNe _ _ f => some (effCmpNe f t)
  | .sclCmpLt _ _ f => some (effCmpLt f t)
  | .sclCmpLe _ _ f => some (effCmpLe f t)
  | .sclCmpLtu _ _ f => some (effCmpLtu f t)
  | .sclCmpLeu _ _ f => some (effCmpLeu f t)
  | .descValid _ _ f => some (effDescValid f t)
  | .descGet _ _ f => some (effDescGet f t)
  | .sysNop _ _ _ => some (t)
  | .sysFlags _ _ f => some (effSysFlags f t)
  | .descSet _ _ f => effDescSet f t
  | .descAdj _ _ f => effDescAdj f t
  | .sysCaps _ _ f => some (effSysCaps f ((s.logicalOf i).getD (0, 0)) t)
  | _ => some t

def isCtl : Instr → Bool
  | .ctlBr _ _ _ => true
  | .ctlLoop _ _ _ => true
  | .ctlEnd _ _ _ => true
  | _ => false

def isBranch : Instr → Bool
  | .ctlBr _ _ _ => true
  | _ => false

/-- Does SYNC.FENCE wait for this entry: a stream, store, scatter or atomic (R60)? DESIGN CHOICE: among them are KV.LOAD,
HALO.SPILL, HALO.FILL, UPD.SWEEP, STR.PREF and the RED opcodes, and not CAIRN.FILL, which the stream unit also carries. -/
def fenced (e : QEntry) : Bool :=
  match e.instr with
  | .strLoad _ _ _ => true | .strStore _ _ _ => true | .strGather _ _ _ => true | .strScan _ _ _ => true
  | .strPref _ _ _ => true | .strCopy _ _ _ => true | .kvScatter _ _ _ => true | .kvLoad _ _ _ => true
  | .haloSpill _ _ _ => true | .haloFill _ _ _ => true | .updSweep _ _ _ => true | .wcTake _ _ _ => true
  | .atomMax _ _ _ => true | .atomMin _ _ _ => true | .atomXchg _ _ _ => true | .atomCas _ _ _ _ => true
  | .redAdd _ _ _ => true | .redMax _ _ _ => true
  | _ => false

/-- SYS.FLAGS, which never waits (R118). -/
def isSysFlags : Instr → Bool
  | .sysFlags _ _ _ => true
  | _ => false

/-- Stall cause of an instruction that the issue unit executes, if it must wait (R74). DEDUCED: the interlock of R56 (CAUSE 8)
holds control and system instructions too, though R62's table gives these classes no such stall; only SYS.FLAGS never waits
(R118). -/
def issueStall (t : Sett) (ins : Instr) (u : Use) : Option Nat :=
  if isSysFlags ins then none
  else if hazard t.queue (uP u.h.pred) [] then some 8
  else if !t.lane0 u.h.pred && !isBranch ins then none
  else if hazard t.queue u.rd u.wr then some 8
  else match ins with
    | .syncWait _ _ f => if syncMet f t then none else some 1
    | .syncFence _ _ _ => if t.queue.any fenced then some 8 else none
    | _ => none

def step8 (u : Use) : W64 := if u.ext then 16 else 8

/-- The phase of a sett that issues: in Recovery mode a diagnostic sequence sets the sett running (R72, R74). -/
def issuePhase (mode : Nat) (p : SettPhase) : SettPhase :=
  if mode = 2 ∧ (p = .gated ∨ p = .idle ∨ p = .saved ∨ p = .completed) then .running else p

/-- Sett `i` has issued an instruction: from its first on the time of the running run runs (R403, R405). -/
def markIssued (i : Nat) (s : State) : State :=
  let s1 : State := { s with stile := { s.stile with
    array := if s.stile.array = .admitting ∨ s.stile.array = .restoring then .running else s.stile.array
    cur := s.stile.cur.map fun r => if r.issued then r else { r with issued := true, start := s.now } } }
  s1.setSett i fun t => { t with phase := issuePhase (s.settMode i) t.phase }

/-- Issue an instruction of a sett whose issue stands free. -/
def issueFree (ins : Instr) (u : Use) (s : State) : State :=
  let i := u.st
  let t := s.sett i
  match u.unit with
  | none =>
    match issueStall t ins u with
    | some c => s.setSett i fun t => { t with stall := some (ins, c) }
    | none =>
      let s1 := markIssued i s
      if !t.lane0 u.h.pred && !isBranch ins then s1.setSett i fun t => { t with pc := t.pc + step8 u }
      else match issueEffect i ins s1 (s1.sett i) with
        | none => failRun i 0x0202 s1
        | some t' => s1.setSett i fun _ => if isCtl ins then t' else { t' with pc := t'.pc + step8 u }
  | some q =>
    if unitDepth q ≤ (t.queue.filter fun e => e.unit == q).length then
      s.setSett i fun t => { t with stall := some (ins, 7) }
    else
      advance i ((markIssued i s).setSett i fun t =>
        { t with pc := t.pc + step8 u, nextSeq := t.nextSeq + 1
                 queue := t.queue ++ [{ seq := t.nextSeq, unit := q, instr := ins, st := .queued, prog := 0, aux := [], kept := [] }] })

/-- The sett issues: it runs, or executes a self-test or diagnostic sequence (R72), is awake, holds no stalled instruction
and has its words. -/
def State.settIssues (s : State) (i : Nat) : Bool :=
  let t := s.sett i
  (t.phase == .running || t.phase == .selfTest || s.settMode i == 2) && t.stall.isNone && !t.fetchMiss && !t.ended && !t.asleep && t.stage.isEmpty

/-- A sett instruction arrives at the issue unit of its sett. -/
def settIssue (ins : Instr) (s : State) : State :=
  match useOf ins with
  | none => s
  | some u => if s.settIssues u.st && s.arrayRuns then issueFree ins u s else s

/-- Issue a stalled instruction again if its cause is among `cs`. -/
def retryStall (i : Nat) (cs : List Nat) (s : State) : State :=
  match (s.sett i).stall with
  | none => s
  | some (ins, c) => if cs.contains c then settIssue ins (s.setSett i fun t => { t with stall := none }) else s

/-! Completion and releases -/

/-- INSTRUCTION_COMPLETE: the unit's oldest instruction, once executed, completes (R55, R58, R85). -/
def completeHead (i : Nat) (q : UnitId) (s : State) : State :=
  match (s.sett i).queue.find? fun e => e.unit == q with
  | none => s
  | some e => if e.st ≠ .done then s else retryStall i [8] (advance i (popHead i q s))

/-- Is it a WC.TAKE whose grant has not come back (R74 CAUSE 4)? -/
def grantOut (e : QEntry) : Bool :=
  e.st == .done && match e.instr with
    | .wcTake _ _ _ => true
    | _ => false

/-- The stall cause that SETT_STATE shows (R74). DESIGN CHOICE: where several stand at once, a staged copy that waits on a
fault comes first, then a fetch miss, then the issue unit's stall, then a paused transfer, then the first waiting instruction
in issue order; a sett whose unit waits counts as stalled, its issue unit free or not. -/
def Sett.cause (t : Sett) : Nat :=
  if t.phase ≠ .running ∧ t.phase ≠ .draining ∧ t.phase ≠ .selfTest then 0
  else if t.stagePaused.isSome then 10
  else if t.fetchMiss then 9
  else match t.stall with
    | some (_, c) => if c = 8 ∧ t.queue.any grantOut then 4 else c
    | none =>
      if t.queue.any fun e => match e.st with
          | .paused _ => true
          | _ => false then 10
      else match t.queue.findSome? fun e => match e.st with
          | .waiting k => some k.cause
          | _ => if grantOut e then some 4 else none with
        | some c => c
        | none => 0

/-- SETT_COMPLETE: CTL.END has issued and every unit has drained; the last sett completes the run (R71). A self-test or
diagnostic sequence ends with it, and the sett can take the next one (R72). -/
def settDone (i : Nat) (s : State) : State :=
  let t := s.sett i
  if s.settMode i ≠ 0 then
    if t.ended ∧ t.queue.isEmpty then
      s.setSett i fun t => { t with phase := if t.phase = .draining then .completed else t.phase, ended := false, status := 0 }
    else s
  else if t.phase = .draining ∧ t.ended ∧ t.queue.isEmpty then
    let s1 := s.setSett i fun t => { t with phase := .completed, status := 0 }
    match s1.stile.cur with
    | none => s1
    | some r => if r.placement.all fun p => (s1.sett p.2).phase == .completed then endRun s1 0 else s1
  else s

/-- A returned credit reaches the sender of port `d`: a waiting HALO.FILL that asked first, else the waiting
HALO.PUT, goes on (R277, R282). -/
def haloCredit (i d : Nat) (s : State) : State :=
  let s1 := creditArrives i d s
  let isPut (e : QEntry) : Bool := waitsFor .haloCredit e && match e.instr with
    | .haloPut _ _ f => decide (modDir f = d)
    | _ => false
  let isFill (e : QEntry) : Bool := waitsFor .haloCredit e && match e.instr with
    | .haloFill _ _ f => decide (modDir f = oppDir d)
    | _ => false
  match neighbour s1 i d with
  | none => s1
  | some j =>
    if ((s1.sett i).port d).fillFirst then retry i isPut (retry j isFill s1)
    else retry j isFill (retry i isPut s1)

/-- A filled slot lets a waiting HALO.TAKE of port `d` go on. -/
def haloSlot (i d : Nat) (s : State) : State :=
  retry i (fun e => waitsFor .haloSlot e && match e.instr with
    | .haloTake _ _ f => decide (modDir f = d)
    | _ => false) s

/-- What an entry becomes when its slice answers its wait: a SYNC.WAITGE completes, a KV.SCATTER that waits for its list
word goes on (R354). -/
def granted (pop : Bool) (e : QEntry) : QEntry :=
  if !waitsFor .lintel e then e
  else match e.instr with
    | .syncWaitge _ _ _ => if pop then e else { e with prog := 1 }
    | .kvScatter _ _ _ => if pop ∧ (Scat.dec e.aux).stage = 4 then { e with aux := Scat.enc { Scat.dec e.aux with stage := 5 } } else e
    | _ => e

/-- The slice answers a wait. -/
def grantWait (w : LintelWait) (s : State) : State :=
  dropWait w (s.setSett w.sett fun t => { t with queue := t.queue.map (granted w.pop) })

/-- A word has changed: its slice answers every wait that the value satisfies, then their setts go on (R354); a word that
the slice finds bad ends the run that waits on it (R340). -/
def lintelRelease (addr : Nat) (s : State) : State :=
  let ca := addr / 8 * 8
  if !(s.mem.waits.any fun w => decide (w.addr = ca)) then s
  else
    let r := devRead s ca 8
    if r.2.1 ≠ 0 then settleDoom r.1
    else
      let ready := s.mem.waits.filter fun w => decide (w.addr = ca) && w.met (leNat r.2.2)
      let s1 := ready.foldl (fun s w => grantWait w s) r.1
      ready.foldl (fun s w => retry w.sett (waitsFor .lintel) s) s1

/-- RESUME of a sett's fault: the transfer translates again from its resume point (R375). -/
def resumeSett (i id : Nat) (s : State) : State :=
  retry i (fun e => e.st == .queued) (s.setSett i fun t =>
    { t with queue := t.queue.map fun e => if e.st = .paused id then { e with st := .queued } else e })

end Sys2Proof.Machine
end

