-- ==== Sys2Proof/Machine/Admit.lean ====
section
/-! DEFINITION. Admission: the checks of the manifest in section order, the stream checks and the warnings
(R36–R39, R48, R63, R165, R202, R253, R276, R290–R293, R317, R318, R325, R329, R331, R335, R431, R548). -/

namespace Sys2Proof.Machine

/-- A rejection: code and locus (R290). -/
structure Reject where
  code : Nat
  locus : Nat
  deriving DecidableEq, Repr

/-- The locus of entry `idx` of section `sec`. -/
def locus (sec idx : Nat) : Nat := sec * 2 ^ 56 + idx % 2 ^ 32
/-- The locus of an entry that belongs to logical sett (r, c). -/
def settLocus (sec r c idx : Nat) : Nat := sec * 2 ^ 56 + r * 2 ^ 40 + c * 2 ^ 35 + idx % 2 ^ 32

/-- A list with its indices. -/
def withIdx {α : Type} (l : List α) : List (Nat × α) := (List.range l.length).zip l

/-- First failing entry of a section: a check that gives a code. -/
def firstBad {α : Type} (sec : Nat) (l : List α) (check : Nat → α → Option Nat) : Option Reject :=
  (withIdx l).findSome? fun e => (check e.1 e.2).map fun code => ⟨code, locus sec e.1⟩

/-- First failing entry of a per-sett section: entries of logical (r, c) in row-major order. -/
def firstSettBad {α : Type} (m : Manifest) (sec : Nat) (entries : SettDecl → List α)
    (check : Nat → Nat → SettDecl → Nat → α → Option Nat) : Option Reject :=
  (withIdx m.setts).findSome? fun e =>
    let r := e.1 / m.cols
    let c := e.1 % m.cols
    (withIdx (entries e.2)).findSome? fun x => (check r c e.2 x.1 x.2).map fun code => ⟨code, settLocus sec r c x.1⟩

/-- Does a range overlap one of the list? -/
def overlapsAny (base size : Nat) (l : List (Nat × Nat)) : Bool :=
  l.any fun e => decide (base < e.1 + e.2) && decide (e.1 < base + size)

/-! Section 1 -/

/-- Columns of the grid on a die. -/
def gridCols (m : Manifest) (d : Nat) : Nat := if d = 0 then min m.cols 16 else m.cols - 16

/-- Can the grid be placed on the setts in service (R548)? -/
def placeable (s : State) (m : Manifest) : Bool :=
  decide (gridCols m 0 ≤ (s.inService 0).length) && decide (gridCols m 1 ≤ (s.inService 1).length)

def checkHeader (s : State) (m : Manifest) : Option Reject :=
  let code :=
    if !Config.manifestVersionKnown m.version ∨ m.level < 2 then some 0x0110
    else if 3 < m.level then some 0x0111
    else if m.rows = 0 ∨ 12 < m.rows ∨ m.cols = 0 ∨ 32 < m.cols then some 0x0110
    else if !placeable s m then some 0x0125 else none
  code.map fun c => ⟨c, locus 1 0⟩

/-! Section 2 -/

/-- Tiling fields consistent with the object's size (R272, R317). -/
def tilingFault (o : BitVec 512) : Option Nat :=
  if !objTiled o then (if objField o 32 32 = 0 then none else some 0x0110)
  else match Fmt.ofCode (objFmt o) with
    | none => some 0x0110
    | some f =>
      if objField o 34 2 ≠ 0 ∨ objField o 62 2 ≠ 0 then some 0x0110
      else if objRank o = 0 ∨ 4 < objRank o then some 0x0119
      else if [0, 1, 2, 3].any (fun k => objTE o k == 0 || (decide (objRank o ≤ k) && objTE o k != 1)) then some 0x0119
      else if [1, 2, 3].any (fun k => objTC o k == 0 || (decide (objRank o ≤ k) && objTC o k != 1)) then some 0x0119
      else
        let n := tileCount o
        if objBytes o < n * tileElemBytes o then some 0x0119
        else if f.narrow ∧ objBytes o < objScaleOff o + n * tileScaleBytes o then some 0x0119
        else if objBytes o < objHdrOff o + 32 * n then some 0x0119
        else none

/-- Slices of a scratch-staged object whose region does not take them (R318, R319). -/
def stageFault (m : Manifest) (o : BitVec 512) : Bool :=
  decide (objTier o = 4) && (withIdx m.setts).any fun e =>
    let i := 32 * (e.1 / m.cols) + e.1 % m.cols
    decide (i * objSlice o < objBytes o) && decide (0 < objSlice o) &&
      match e.2.carving[objRegion o]? with
      | some r => r.kind != 0 || decide (r.size < objSlice o)
      | none => true

/-- Reserved values and excluded combinations of R317 and R318. -/
def objReserved (m : Manifest) (idx : Nat) (o : BitVec 512) : Bool :=
  let t := objTier o
  let k := objKind o
  decide (4 < t) || bit (objAttr o) 7 || objPin o == 3 || objSclass o == 3 || decide (3 < k)
    || field (objField o 19 1) 7 4 != 0 || (t != 4 && objRegion o != 0)
    || (if t = 4 then objSlice o % 64 != 0 else if t = 3 then decide (8192 ≤ objSlice o) else objSlice o != 0)
    || (t != 0 && t != 4 && field (objAttr o) 1 0 != 0)
    || (objPin o == 2 && (objSpread o || t != 0))
    || (k != 0 && t != 0) || ((k == 1 || k == 2) && objPin o != 1)
    || (k == 3 && objPin o == 0)
    || ((k == 2 || k == 3) && (m.objects.take idx).any fun p => objKind p == k)

/-- FP6b and T2, first defined at level 3 (R38, R120). -/
def level3Fmt (c : Nat) : Bool := c == 5 || c == 7

/-- An entry of section 2. DESIGN CHOICE: 0x0112, for a tiled object of a level-2 image in a format of level 3, comes last. -/
def checkObject (m : Manifest) (idx : Nat) (o : BitVec 512) : Option Nat :=
  if objVa o % 65536 ≠ 0 ∨ objBytes o % 65536 ≠ 0 then some 0x0118
  else if 2 ^ 48 < objVa o + objBytes o
      ∨ overlapsAny (objVa o) (objBytes o) ((m.objects.take idx).map fun p => (objVa p, objBytes p)) then some 0x0119
  else if tilingFault o = some 0x0119 then some 0x0119
  else if stageFault m o then some 0x0114
  else if tilingFault o = some 0x0110 ∨ objReserved m idx o then some 0x0110
  else if m.level = 2 ∧ objTiled o ∧ level3Fmt (objFmt o) then some 0x0112
  else none

def checkObjects (m : Manifest) : Option Reject :=
  if 4096 < m.objects.length then some ⟨0x0110, locus 2 4096⟩ else firstBad 2 m.objects (checkObject m)

/-- Does `[va, va + len)` lie inside one object that satisfies `p`? -/
def insideObject (m : Manifest) (p : BitVec 512 → Bool) (va len : Nat) : Bool :=
  m.objects.any fun o => p o && decide (objVa o ≤ va) && decide (va + len ≤ objVa o + objBytes o)

def pinned (o : BitVec 512) : Bool := objPin o != 0

/-! Sections 3 to 8 -/

def checkStreams (m : Manifest) : Option Reject :=
  if m.streams.length ≠ m.rows * m.cols then some ⟨0x0113, locus 3 m.streams.length⟩
  else (withIdx m.streams).findSome? fun e =>
    if insideObject m pinned e.2.va (8 * e.2.words) then none
    else some ⟨0x0113, settLocus 3 (e.1 / m.cols) (e.1 % m.cols) 0⟩

/-- R48, region by region. -/
def checkRegion (d : SettDecl) (idx : Nat) (r : Region) : Option Nat :=
  if 16 ≤ idx ∨ r.base % 4096 ≠ 0 ∨ r.size % 4096 ≠ 0 ∨ 2 ^ 22 < r.base + r.size
      ∨ overlapsAny r.base r.size ((d.carving.take idx).map fun p => (p.base, p.size))
      ∨ 2 ^ 22 < ((d.carving.take (idx + 1)).map (·.size)).foldl (· + ·) 0 then some 0x0114
  else if 4 < r.kind then some 0x0110 else none

def checkCarving (m : Manifest) : Option Reject :=
  if m.setts.length ≠ m.rows * m.cols then some ⟨0x0110, locus 4 m.setts.length⟩
  else firstSettBad m 4 (·.carving) fun _ _ d idx r => checkRegion d idx r

/-- A preloaded descriptor (R90, R91, R121): 0x0124 for FP6b or T2 of a level-2 image. -/
def checkPreload (m : Manifest) (d : SettDecl) (x : BitVec 256) : Option Nat :=
  if m.level = 2 ∧ (descFmt x = 5 ∨ descFmt x = 7) then some 0x0124
  else if !descCheck d.carving (decide (m.level = 2)) x then some 0x0115
  else if descKind1 x && (findObject m.objects (descVa x)).isNone then some 0x0115
  else none

/-- Section 5: at most 16 descriptors and 31 scalars of a sett. DEDUCED: a register listed twice is malformed. -/
def checkPreloads (m : Manifest) : Option Reject :=
  match firstSettBad m 5 (·.descs) fun _ _ d idx e =>
      if 16 ≤ idx ∨ 16 ≤ e.1 ∨ (d.descs.take idx).any (fun x => x.1 == e.1) then some 0x0110 else checkPreload m d e.2 with
  | some r => some r
  | none => firstSettBad m 5 (·.scalars) fun _ _ d idx e =>
      if 31 ≤ idx ∨ e.1 = 0 ∨ 32 ≤ e.1 ∨ (d.scalars.take idx).any (fun x => x.1 == e.1) then some 0x0110 else none

/-- Code words of a stream with what each sett puts and takes, by logical index. -/
abbrev Streams := List (List Nat)

/-- The stream of logical (r, c), if it lies in the grid. -/
def streamAt (m : Manifest) (code : Streams) (r c : Int) : List Nat :=
  if r < 0 ∨ c < 0 ∨ (m.rows : Int) ≤ r ∨ (m.cols : Int) ≤ c then [] else code.getD (r.toNat * m.cols + c.toNat) []

/-- The stream of the neighbour that sends to port `d` of logical (r, c). -/
def senderCode (m : Manifest) (code : Streams) (r c d : Nat) : List Nat :=
  match d with
  | 0 => streamAt m code ((r : Int) - 1) c
  | 1 => streamAt m code r ((c : Int) + 1)
  | 2 => streamAt m code ((r : Int) + 1) c
  | _ => streamAt m code r ((c : Int) - 1)

/-- A ring declaration: one beyond the section's form is malformed, another must meet R276 (R291, R292). -/
def checkRing (d : SettDecl) (idx : Nat) (h : HaloDecl) : Option Nat :=
  if 4 ≤ idx ∨ 4 ≤ h.port ∨ (d.halo.take idx).any (fun x => x.port == h.port) then some 0x0110
  else match d.carving[h.region]? with
    | none => some 0x0116
    | some r =>
      if r.kind ≠ 2 ∨ h.depth = 0 ∨ 64 < h.depth ∨ r.size % (64 * h.depth) ≠ 0 ∨ 2 ^ 18 < r.size / h.depth then some 0x0116
      else none

/-- A port without a ring that needs one: a neighbour puts toward it or its own stream takes from it. -/
def ringMissing (m : Manifest) (code : Streams) (r c : Nat) (d : SettDecl) : Option Nat :=
  [0, 1, 2, 3].find? fun p =>
    !(d.halo.any fun h => h.port == p) &&
      ((streamHalo (streamAt m code r c)).2.contains p || (streamHalo (senderCode m code r c p)).1.contains ((p + 2) % 4))

def checkHalo (m : Manifest) (code : Streams) : Option Reject :=
  match firstSettBad m 6 (·.halo) fun _ _ d idx h => checkRing d idx h with
  | some r => some r
  | none => (withIdx m.setts).findSome? fun e =>
      let r := e.1 / m.cols
      let c := e.1 % m.cols
      (ringMissing m code r c e.2).map fun p => ⟨0x0116, settLocus 6 r c p⟩

def checkCounter (m : Manifest) (idx : Nat) (k : CounterDecl) : Option Nat :=
  if 1024 ≤ idx then some 0x0110
  else if k.va % 8 ≠ 0 ∨ !insideObject m (fun o => objPin o == 2) k.va 8 ∨ k.limit.toNat < k.start.toNat then some 0x0117
  else none

/-- Width rank of a source format on the ladder's scale (R164); none for a format that is not on it. -/
def ladderRank : Nat → Option Nat
  | 7 => some 0
  | 6 => some 1
  | 4 => some 2
  | 2 => some 3
  | 1 => some 4
  | 0 => some 5
  | _ => none

/-- Ranks of a step's weight and activation formats (R163). -/
def stepRanks : Nat → Nat × Nat
  | 0 => (0, 1)
  | 1 => (1, 1)
  | 2 => (2, 2)
  | 3 => (3, 3)
  | _ => (4, 4)

/-- Do the sources serve step `k` at rank `need`? DESIGN CHOICE: a source names its format itself, for a tiled object too, since
R164's declaration and R317's entry hold none for an object that is not tiled (R165). -/
def served (m : Manifest) (l : List LadderSource) (k need : Nat) : Bool :=
  l.any fun e => e.step == k && decide (e.object < m.objects.length) && match ladderRank e.fmt with
    | some w => decide (need ≤ w)
    | none => false

/-- R164 and R165. -/
def checkLadder (m : Manifest) (d : SettDecl) (idx : Nat) (l : LadderDecl) : Option Nat :=
  let steps := (List.range 8).filter fun k => bit l.steps.toNat k
  if 16 ≤ idx then some 0x0110
  else if 16 ≤ l.slot ∨ 5 ≤ l.base ∨ !steps.contains l.base ∨ steps.any (fun k => decide (5 ≤ k))
      ∨ (d.ladders.take idx).any (fun x => x.slot == l.slot)
      ∨ (l.weights ++ l.activations).any (fun e => (ladderRank e.fmt).isNone)
      ∨ !(steps.all fun k => served m l.weights k (stepRanks k).1 && served m l.activations k (stepRanks k).2) then
    some 0x011A
  else if m.level = 2 ∧ (steps.contains 0 ∨ (l.weights ++ l.activations).any fun e => level3Fmt e.fmt) then some 0x0112
  else match d.carving[l.reserve]? with
    | some r => if r.kind = 3 ∧ l.bytes ≤ r.size then none else some 0x011A
    | none => some 0x011A

/-! Sections 9 to 12 -/

/-- The conditions of R202 and R323 on a pool block's bytes. -/
def poolOk (m : Manifest) (b : List Byte) : Bool :=
  let ringSize := recField b 24 4
  let g := recField b 28 4
  let pages := recField b 44 4
  let fp8 := decide (field g 3 0 = 2)
  let hb := if fp8 then 132 else 256
  let dim := [64, 128, 192].getD (field g 13 12) 0
  (field g 3 0 == 1 || fp8) && decide (1 ≤ field g 11 4) && decide (field g 13 12 ≤ 2)
    && decide (1 ≤ pages) && decide (pages ≤ 2 ^ 31) && decide (pages ≤ ringSize)
    && decide (2 ^ ringSize.log2 = ringSize) && decide (recField b 32 8 % 4096 = 0)
    && decide (recField b 40 4 % 4096 = 0) && decide (field g 11 4 * hb * dim ≤ recField b 40 4)
    && insideObject m pinned (recField b 16 8) (8 * ringSize) && insideObject m pinned (recField b 32 8) (pages * recField b 40 4)

/-- Failure to read what admission reads: the status that ends the run (R53, R340, R370). -/
def Acc.status : Acc → Nat
  | .ok _ _ => 0
  | .fault c _ => if fatalClass c then classStatus c else 0x0315
  | .bad x _ => x

def checkPool (s : State) (ag : Agent) (m : Manifest) (idx : Nat) (p : PoolDecl) : Option Nat :=
  if 256 ≤ idx then some 0x0110
  else if p.isSeq then (if insideObject m pinned p.va (64 * p.count) then none else some 0x011B)
  else if !insideObject m pinned p.va 64 then some 0x011B
  else match (readRange s ag .read p.va 64).2 with
    | .ok b _ => if poolOk m b then none else some 0x011B
    | a => some a.status

def checkCairn (m : Manifest) (idx t : Nat) : Option Nat :=
  if 2 ≤ t ∨ (m.cairn.take idx).contains t then some 0x011C else none

/-- CTX of a group declaration, its LGROUP and its staging area. -/
def declCtx (d : BitVec 384) : Nat := declField d.toNat 6 1
def declLgroup (d : BitVec 384) : Nat := declField d.toNat 4 2
def declStage (d : BitVec 384) : Nat := declField d.toNat 32 8

def checkGroup (s : State) (m : Manifest) (idx : Nat) (d : BitVec 384) : Option Nat :=
  let before := m.groups.take idx
  if 4096 ≤ idx then some 0x0110
  else if declOk s false d.toNat (m.members.map (·.toNat)) (fun e => decide (entRow e < m.rows) && decide (entCol e < m.cols))
      && decide (declLgroup d < 4096) && !(before.any fun x => declLgroup x == declLgroup d)
      && !(before.any fun x => declGid x.toNat == declGid d.toNat)
      && insideObject m (fun o => pinned o && objTier o == 0) (declStage d) (2 ^ 21)
      && before.all (fun x => declCtx x != declCtx d || declStage x == declStage d) then none
  else some 0x011D

/-- Distinct CTX values of a manifest, in order of first use. -/
def manifestCtxs (m : Manifest) : List Nat := (m.groups.map declCtx).eraseDups

/-- Contexts free for a run. -/
def freeCtxs (s : State) : List Nat :=
  (List.range 256).filter fun c => (s.ctx c).phase == .free && !bit (s.ctx c).ctrl.toNat 0

def checkGroups (s : State) (m : Manifest) : Option Reject :=
  if 32768 < m.members.length then some ⟨0x0110, locus 11 32768⟩
  else match firstBad 11 m.groups (checkGroup s m) with
    | some r => some r
    | none =>
      let used := (m.groups.map fun d => declN d.toNat).foldl (· + ·) 0
      if 4096 < groupsUsed s + m.groups.length ∨ 32768 < membersUsed s + used
          ∨ (freeCtxs s).length < (manifestCtxs m).length then some ⟨0x011D, locus 11 0⟩ else none

/-- S of R291. -/
def saveBytes (m : Manifest) : Nat :=
  (m.setts.map fun d => 614400 + (d.carving.map (·.size)).foldl (· + ·) 0).foldl (· + ·) 0
    + 8 * m.counters.length + m.cairn.length * (2 ^ 20 + 64) + 65536

def checkSave (m : Manifest) : Option Reject :=
  match m.objects[m.saveObject]? with
  | none => some ⟨0x011E, locus 12 0⟩
  | some o => if objKind o = 2 ∧ pinned o ∧ saveBytes m ≤ objBytes o then none else some ⟨0x011E, locus 12 0⟩

/-! Section 13 (R325, R335) -/

/-- Pinned HBM bytes of a manifest on a die. -/
def pinnedHbm (m : Manifest) (d : Nat) : Nat :=
  (m.objects.map fun o =>
    if pinned o && (objTier o == 0 || objTier o == 4) then
      (if objSpread o then objBytes o / 2 else if objHome o = d then objBytes o else 0) else 0).foldl (· + ·) 0

def pinnedFallow (m : Manifest) : Nat :=
  (m.objects.map fun o => if pinned o && objTier o == 1 then objBytes o else 0).foldl (· + ·) 0

/-- Lintel-pinned bytes of a manifest on a die. -/
def lintelPinned (m : Manifest) (d : Nat) : Nat :=
  (m.objects.map fun o => if objPin o = 2 ∧ objHome o = d then objBytes o else 0).foldl (· + ·) 0

/-- Manifests of the pre-empted runs. -/
def heldManifests (s : State) : List Manifest := (s.stile.runs.filter (·.saved.isSome)).map (·.manifest)

/-- HBM bytes in service on a die; a marked channel counts as gone (R343). -/
def hbmCapacity (s : State) (d : Nat) : Nat :=
  (192 - (s.mappedOut d + b2n (s.die d).mapPending)) * 1207959552

def checkTotals (s : State) (m : Manifest) : Option Reject :=
  let ms := m :: heldManifests s
  let exceeds (d : Nat) : Bool :=
    decide (hbmCapacity s d < (ms.map fun x => pinnedHbm x d).foldl (· + ·) 0 + s.poolBytes d)
      || decide (2 ^ 25 < lintelPinned m d)
  if exceeds 0 then some ⟨0x011F, locus 13 0⟩
  else if exceeds 1 then some ⟨0x011F, locus 13 1⟩
  else if fallowBytes < (ms.map pinnedFallow).foldl (· + ·) 0 then some ⟨0x011F, locus 13 2⟩
  else none

/-! The layer-order table (R329–R331) -/

/-- An entry of the layer-order table: object number, layer, offset and length. -/
structure LayerEntry where
  obj : Nat
  layer : Nat
  off : Nat
  len : Nat
  deriving DecidableEq, Repr

def layerEntries (b : List Byte) (n : Nat) : List LayerEntry :=
  (List.range n).map fun k =>
    let e := b.drop (32 * k)
    ⟨recField e 0 4, recField e 4 4, recField e 8 8, recField e 16 8⟩

def layerEntryOk (m : Manifest) (e : LayerEntry) : Bool :=
  match m.objects[e.obj]? with
  | none => false
  | some o => objKind o == 0 && (objTier o == 0 || objTier o == 1) && decide (e.off % 64 = 0) && decide (1 ≤ e.len)
      && decide (e.off + e.len ≤ objBytes o)

def rising : List LayerEntry → Bool
  | a :: b :: t => decide (a.layer ≤ b.layer) && rising (b :: t)
  | _ => true

/-- The table of a manifest, if it declares one: its object number, WINDOW and entries; or a status. -/
def layerTable (s : State) (ag : Agent) (m : Manifest) : Option (Nat × (Nat ⊕ (Nat × List LayerEntry))) :=
  (withIdx m.objects).findSome? fun e =>
    if objKind e.2 ≠ 3 then none
    else some (e.1, match (readRange s ag .read (objVa e.2) 16).2 with
      | .ok h _ =>
        let n := recField h 0 4
        if n = 0 ∨ 65536 < n ∨ recField h 4 4 = 0 ∨ 64 < recField h 4 4 ∨ recField h 8 8 ≠ 0
            ∨ objBytes e.2 < 16 + 32 * n then .inl 0x0110
        else match (readRange s ag .read (objVa e.2 + 16) (32 * n)).2 with
          | .ok b _ =>
            let es := layerEntries b n
            if es.all (layerEntryOk m) && rising es
                && (List.range n).all (fun k => decide (recField b (32 * k + 24) 8 = 0)) then .inr (recField h 4 4, es)
            else .inl 0x0110
          | a => .inl a.status
      | a => .inl a.status)

def checkLayers (s : State) (ag : Agent) (m : Manifest) : Option Reject :=
  match layerTable s ag m with
  | some (i, .inl c) => some ⟨c, locus 2 i⟩
  | _ => none

/-! Streams -/

/-- The words of every stream, or the status with which reading them failed. -/
def readStreams (s : State) (ag : Agent) (m : Manifest) : Streams ⊕ Reject :=
  (withIdx m.streams).foldl (fun acc e =>
    match acc with
    | .inr r => .inr r
    | .inl l => match (readRange s ag .read e.2.va (8 * e.2.words)).2 with
      | .ok b _ => .inl (l ++ [(List.range e.2.words).map fun k => recField b (8 * k) 8])
      | a => .inr ⟨a.status, settLocus 3 (e.1 / m.cols) (e.1 % m.cols) 0⟩) (.inl [])

def checkCode (m : Manifest) (code : Streams) : Option Reject :=
  (withIdx code).findSome? fun e =>
    let r := e.1 / m.cols
    let c := e.1 % m.cols
    (streamFault m.level m.rows m.cols r c e.2).map fun f => ⟨f.1, settLocus 3 r c f.2⟩

/-- First of a list of checks that fails. -/
def firstOf : List (Option Reject) → Option Reject
  | [] => none
  | some r :: _ => some r
  | none :: t => firstOf t

/-- Admission (R290): the code of every stream, or the first failure. -/
def admissionCheck (s : State) (client : Nat) (m : Manifest) : Streams ⊕ Reject :=
  let ag : Agent := { client := client, objs := some m.objects, mortar := false }
  match firstOf [checkHeader s m, checkObjects m, checkLayers s ag m, checkStreams m] with
  | some r => .inr r
  | none => match readStreams s ag m with
    | .inr r => .inr r
    | .inl code =>
      match firstOf [checkCarving m, checkPreloads m, checkHalo m code, firstBad 7 m.counters (checkCounter m)
                     , firstSettBad m 8 (·.ladders) (fun _ _ d i l => checkLadder m d i l)
                     , firstBad 9 m.pools (checkPool s ag m), firstBad 10 m.cairn (checkCairn m), checkGroups s m
                     , checkSave m, checkTotals s m, checkCode m code] with
      | some r => .inr r
      | none => .inl code

/-! Warnings (R253, R293, R331, R549) -/

/-- Is descriptor `a` rewritten by an instruction before word `idx`? -/
def rewritten (cs : List CodeWord) (idx a : Nat) : Bool :=
  cs.any fun k => decide (k.idx < idx) && field k.w 63 60 == 1 && decide (32 ≤ field k.w 59 54)
    && decide (field k.w 59 54 ≤ 34) && decide (field k.w 43 40 = a)

/-- The preloaded value of descriptor `a`, where no earlier instruction can have rewritten it. -/
def staticDesc (d : SettDecl) (cs : List CodeWord) (idx a : Nat) : Option (BitVec 256) :=
  if rewritten cs idx a then none else (d.descs.find? fun e => e.1 == a).map (·.2)

def layWOf (w : Nat) : LayW :=
  { ad := BitVec.ofNat 4 (field w 44 41), aa := BitVec.ofNat 4 (field w 40 37), stride := BitVec.ofNat 12 (field w 32 21)
    dil := BitVec.ofNat 12 (field w 20 9), fmt := BitVec.ofNat 4 (field w 8 5), lb := bit w 4, acc := bit w 3
    swap := bit w 2, pk := BitVec.ofNat 2 (field w 1 0) }

/-- 0x0001: WIN instructions of a stream with a statically zero extent. -/
def warnWin (d : SettDecl) (cs : List CodeWord) : List Nat :=
  (cs.filter fun k => field k.w 63 60 == 7 && decide (field k.w 59 54 ≤ 1) && match staticDesc d cs k.idx (field k.w 40 37) with
    | some x =>
      let f := layWOf k.w
      let g := winGeo { Sett.reset with a := [(f.aa.toNat, descStored x)] } f (BitVec.ofNat 64 (k.ext.getD 0))
      decide (g.positions = 0)
    | none => false).map (·.idx)

/-- Payload bytes of a put of the whole valid region of a descriptor (R278); a kind-1 operand is empty (R577). -/
def staticPayload (x : BitVec 256) : Nat :=
  if descKind1 x then 0
  else match Fmt.ofCode (descFmt x) with
  | none => 0
  | some f =>
    let rows := descValid x 1 * descValid x 2 * descValid x 3
    rows * ceilDiv (descValid x 0 * f.bits) 8 + (if f.narrow then rows * ceilDiv (descValid x 0) 32 else 0)

/-- Largest static payload that a stream puts toward direction `d`. -/
def largestPut (dcl : SettDecl) (cs : List CodeWord) (d : Nat) : Nat :=
  (cs.map fun k =>
    if field k.w 63 60 = 10 ∧ field k.w 59 54 = 0 ∧ field k.w 17 16 = d then
      match staticDesc dcl cs k.idx (field k.w 40 37) with
      | some x => staticPayload (descStored x)
      | none => 0
    else 0).foldl max 0

/-- Index in the manifest of the neighbour that sends to port `d` of logical (r, c). -/
def senderIdx (m : Manifest) (r c d : Nat) : Option Nat :=
  match d with
  | 0 => if r = 0 then none else some ((r - 1) * m.cols + c)
  | 1 => if m.cols ≤ c + 1 then none else some (r * m.cols + c + 1)
  | 2 => if m.rows ≤ r + 1 then none else some ((r + 1) * m.cols + c)
  | _ => if c = 0 then none else some (r * m.cols + c - 1)

/-- 0x0002: rings of a sett that a static payload of the sender overflows. -/
def warnRings (m : Manifest) (css : List (List CodeWord)) (r c : Nat) (d : SettDecl) : List Nat :=
  ((withIdx d.halo).filter fun e =>
    match d.carving[e.2.region]?, senderIdx m r c e.2.port with
    | some reg, some j => match m.setts[j]? with
      | some dj => decide (reg.size / e.2.depth < largestPut dj (css.getD j []) ((e.2.port + 2) % 4))
      | none => false
    | _, _ => false).map (·.1)

/-- Does a sett's preload or stream name an address: a preloaded scalar, or an SCL.LI of it? -/
def namesVa (d : SettDecl) (cs : List CodeWord) (va : Nat) : Bool :=
  d.scalars.any (fun e => e.2.toNat == va) || cs.any fun k => k.ext == some va && field k.w 63 60 == 1

/-- Regions of a sett with the retain attribute that the sett keeps (R51). -/
def keptRegion (t : Sett) (client : Nat) (r : Region) : Bool :=
  r.retain && match t.retained with
    | some k => k.client == client && k.regions.any fun x => x.base == r.base && x.size == r.size && x.kind == r.kind && x.retain
    | none => false

/-- Would WARM read 1 (R51, R333)? -/
def wouldBeWarm (t : Sett) (client : Nat) (carving : List Region) : Bool :=
  carving.any (·.retain) && carving.all fun r => !r.retain || keptRegion t client r

/-- The physical sett that logical (r, c) would take if the run were placed now. -/
def placedAt (s : State) (r c : Nat) : Nat :=
  match (s.inService (c / 16))[c % 16]? with
  | some p => c / 16 * 204 + r * 17 + p
  | none => 408

/-- Does a retain region differ from those that the client's previous run carved on the sett (R293, R549)? A client without
a previous run has none to differ from. -/
def differs (s : State) (client r c : Nat) (x : Region) : Bool :=
  match (s.cl client).prev with
  | none => false
  | some l => !(l.any fun e => e.1 == (32 * r + c, placedAt s r c) &&
      e.2.any fun y => y.base == x.base && y.size == x.size && y.kind == x.kind)

/-- Of the first `x` bytes of an object that alternates between the dies every `h` bytes, those on a die. -/
def evenBytes (h d x : Nat) : Nat :=
  let a := x / (2 * h) * h + min (x % (2 * h)) h
  if d = 0 then a else x - a

/-- Bytes of an entry that lie on a die: granules of a spread object alternate, those of a fallow object in turns of 32
sub-channels (R320, R365). -/
def layerBytesOn (m : Manifest) (d : Nat) (e : LayerEntry) : Nat :=
  match m.objects[e.obj]? with
  | some o =>
    let on := fun h => evenBytes h d (e.off + e.len) - evenBytes h d e.off
    if objTier o = 1 then on 8192 else if objSpread o then on 256 else if objHome o = d then e.len else 0
  | none => 0

/-- 0x0006: windows of the layer-order table too large for a die. -/
def warnLayers (m : Manifest) (w : Nat) (es : List LayerEntry) : List Nat :=
  (List.range (es.length - w + 1)).filter fun k =>
    [0, 1].any fun d => decide (2 ^ 26 - lintelPinned m d
      < (((es.drop k).take w).map (layerBytesOn m d)).foldl (· + ·) 0)

/-- Every warning of an admission: code and locus. -/
def warnings (s : State) (run : Run) (code : Streams) : List (Nat × Nat) :=
  let m := run.manifest
  let css := code.map fun ws => (splitCode (ws.length + 1) 0 ws).1
  let per := (withIdx m.setts).map fun e =>
    let r := e.1 / m.cols
    let c := e.1 % m.cols
    let cs := css.getD e.1 []
    (warnWin e.2 cs).map (fun i => (0x0001, settLocus 3 r c i))
      ++ (warnRings m css r c e.2).map (fun i => (0x0002, settLocus 6 r c i))
      ++ (if 2 ^ 22 < (e.2.ladders.map (·.bytes)).foldl (· + ·) 0 then [(0x0004, settLocus 8 r c 0)] else [])
      ++ (((withIdx e.2.carving).filter fun x => x.2.retain && differs s run.client r c x.2).map
        fun x => (0x0005, settLocus 4 r c x.1))
  let counters := ((withIdx m.counters).filter fun e =>
      !((withIdx m.setts).any fun d => namesVa d.2 (css.getD d.1 []) e.2.va)).map fun e => (0x0003, locus 7 e.1)
  let layers := match layerTable s { client := run.client, objs := some m.objects, mortar := false } m with
    | some (_, .inr (w, es)) => (warnLayers m w es).map fun k => (0x0006, locus 2 k)
    | _ => []
  per.flatten ++ counters ++ layers

/-- The warning list in memory (R293): the count, then up to 64 entries. -/
def warningBytes (ws : List (Nat × Nat)) : List Byte :=
  leBytes ws.length 4 ++ ((ws.take 64).map fun w => leBytes w.1 2 ++ leBytes 0 6 ++ leBytes w.2 8).flatten

end Sys2Proof.Machine
end

