-- ==== Sys2Proof/Machine/Sched.lean ====
section
/-! DEFINITION. Starting, pre-empting, resuming and choosing runs (R47, R51, R66, R75, R166, R171, R277, R285, R319,
R332–R334, R376–R381, R399–R404, R432, R548). -/

namespace Sys2Proof.Machine

/-! Staged slices (R319) -/

/-- A sett after `n` bytes of its staged copy have moved: a slice that is whole fills its region. -/
def stageMoved (e : StageItem) (rest : List StageItem) (n : Nat) (t : Sett) : Sett :=
  if e.len ≤ n then
    { t with stage := rest
             retained := t.retained.map fun k => { k with reskeys := k.reskeys ++ [(e.region, e.reskey)] } }
  else { t with stage := { e with va := e.va + n, len := e.len - n, dst := e.dst + n } :: rest }

/-- One granule of a sett's staged copy: go on, wait on a fault, or end the run. -/
def stageOnce (i : Nat) (s : State) : State :=
  match (s.sett i).stage, (s.sett i).stagePaused with
  | e :: rest, none =>
    let n := min e.len (256 - e.va % 256)
    match readGranule s (settAg s i) .read e.va n with
    | .ok bs s1 =>
      match writeScratch i e.dst bs s1 with
      | .ok _ s2 => s2.setSett i (stageMoved e rest n)
      | .bad x s2 => failRun i x s2
      | .fault _ _ _ s2 => s2
    | .fault c s1 =>
      let id := faultId s1 (runAgent s1).client e.va c (.sett i .stream)
      settFault failRun (s1.setSett i fun t => { t with stagePaused := some id }) i .stream e.va c .read
    | .bad x s1 => failRun i x s1
  | _, _ => s

def stageGo (i : Nat) : Nat → State → State
  | 0, s => s
  | n + 1, s => stageGo i n (stageOnce i s)

/-- Granules that a sett's staged copies span, at most. -/
def stageBound (t : Sett) : Nat := (t.stage.map fun e => e.len / 256 + 2).foldl (· + ·) 0

/-- Copy a sett's staged slices as far as they go. -/
def stageAll (i : Nat) (s : State) : State := stageGo i (stageBound (s.sett i)) s

/-! The start of a run -/

/-- Words of scratch in a region. -/
def regionWords (m : SMap Bool) (r : Region) : SMap Bool := SMap.clear m (r.base / 8) (r.size / 8)

/-- Zero the regions that a list names, with fresh check bits. -/
def zeroRegions (t : Sett) (rs : List Region) : Sett :=
  rs.foldl (fun t r => { t with scratch := SMap.clear t.scratch r.base r.size, badWords := regionWords t.badWords r
                                softWords := regionWords t.softWords r }) t

/-- Staged slices of logical (r, c) (R319). -/
def stagedSlices (m : Manifest) (carving : List Region) (r c : Nat) : List StageItem :=
  m.objects.filterMap fun o =>
    if objTier o ≠ 4 then none
    else
      let lo := (32 * r + c) * objSlice o
      match carving[objRegion o]? with
      | some reg =>
        if lo < objBytes o ∧ 0 < objSlice o then
          some { va := objVa o + lo, len := min (objSlice o) (objBytes o - lo), dst := reg.base, region := reg.base
                 reskey := objReskey o }
        else none
      | none => none

/-- Does the sett hold a slice already: its region is kept, WARM reads 1, and the client's previous run there filled the
region by the same nonzero RESKEY (R319)? DEDUCED: a run that skipped the copy leaves the region as filled. -/
def stageHeld (t : Sett) (client : Nat) (carving : List Region) (e : StageItem) : Bool :=
  wouldBeWarm t client carving && (carving.any fun x => x.base == e.region && keptRegion t client x) &&
    decide (e.reskey ≠ 0) && match t.retained with
      | some k => k.reskeys.contains (e.region, e.reskey)
      | none => false

/-- The receiving rings and the sending credits of logical (r, c) (R276, R277). -/
def startPorts (m : Manifest) (r c : Nat) (d : SettDecl) : SMap HaloPort :=
  [0, 1, 2, 3].foldl (fun acc p =>
    let ring := (d.halo.find? fun h => h.port == p).bind fun h => (d.carving[h.region]?).map fun reg => (h.depth, reg)
    let credits := match senderIdx m r c p with
      | some j => match (m.setts[j]?).bind fun x => x.halo.find? fun h => h.port == (p + 2) % 4 with
        | some h => h.depth
        | none => 0
      | none => 0
    SMap.set HaloPort.reset acc p
      { HaloPort.reset with
        depth := (ring.map (·.1)).getD 0
        slotBytes := (ring.map fun e => e.2.size / e.1).getD 0
        base := (ring.map fun e => e.2.base).getD 0
        credits := credits }) []

/-- Measure slots at the start (R166). -/
def startSlots (d : SettDecl) : SMap Slot :=
  d.ladders.foldl (fun acc l => SMap.set Slot.reset acc l.slot
    { Slot.reset with step := l.base, base := l.base, steps := l.steps, declared := true }) []

/-- A sett at the start of its run (R47, R51, R53, R75). DESIGN CHOICE: SETT_STATUS reads 0 from here until the run ends. -/
def startSett (m : Manifest) (client r c : Nat) (d : SettDecl) (va : Nat) (t : Sett) : Sett :=
  let staged := (stagedSlices m d.carving r c).map fun e => (e, stageHeld t client d.carving e)
  let z := zeroRegions t (d.carving.filter fun x => !keptRegion t client x)
  { Sett.reset with
    phase := .running, asleep := t.phase == .gated, warm := wouldBeWarm t client d.carving, compat := decide (m.level = 2)
    s := d.scalars.foldl (fun acc e => SMap.set 0 acc e.1 e.2) []
    a := d.descs.foldl (fun acc e => SMap.set 0 acc e.1 (descStored e.2)) []
    pc := BitVec.ofNat 64 va, eccCnt := t.eccCnt, scratch := z.scratch, badWords := z.badWords, softWords := z.softWords
    carving := d.carving
    retained := some ⟨client, d.carving.filter (·.retain), (staged.filter (·.2)).map fun e => (e.1.region, e.1.reskey)⟩
    stage := (staged.filter fun e => !e.2).map (·.1)
    fetchMiss := true, slots := startSlots d, ports := startPorts m r c d }

/-- Map the logical columns of both dies onto their columns in service (R548); a sett whose logical column changes
loses what it retained (R334). -/
def mapColumns (s : State) : State :=
  let s1 := { s with test := { s.test with cols := [0, 1].foldl (fun m d =>
      SMap.set (List.range 16) m d ((s.inService d).take 16)) s.test.cols } }
  (s.setts.map (·.1)).foldl (fun t i =>
    if s.logicalOf i = s1.logicalOf i then t else t.setSett i fun x => { x with retained := none }) s1

/-- Logical indices of a grid with their physical setts. -/
def placementOf (s : State) (m : Manifest) : List (Nat × Nat) :=
  ((List.range m.rows).map fun r => (List.range m.cols).map fun c => (32 * r + c, s.physOf r c)).flatten

/-- The Cairn tables at a run's start: counts and epochs are cleared, and what an undeclared table held passes to no
client (R239, R246, R248). -/
def ownCairn (s : State) (m : Manifest) : State :=
  [0, 1].foldl (fun s t => s.setCairn t fun _ => { Cairn.reset with owned := m.cairn.contains t }) s

/-- Lintel-pinned bytes of the run that owns the array (R361). -/
def ownPinned (s : State) (m : Manifest) : State :=
  [0, 1].foldl (fun s d => s.setDie d fun k => { k with lintelPinned := lintelPinned m d }) s

/-- Bind a run's contexts and load its groups (R432). -/
def bindGroups (s : State) (r : Run) : State × List (Nat × Nat) :=
  let cs := (manifestCtxs r.manifest).zip (freeCtxs s)
  let stageOf (k : Nat) : Nat := ((r.manifest.groups.find? fun d => declCtx d == k).map declStage).getD 0
  let s1 := cs.foldl (fun s e => bindCtx e.2 r.client r.seqNo (stageOf e.1) false s) s
  let gs := r.manifest.groups.map fun d =>
    mkGroup s false d.toNat (r.manifest.members.map (·.toNat)) r.client r.seqNo
      (((cs.find? fun e => e.1 == declCtx d).map (·.2)).getD 0) (declLgroup d)
  ({ s1 with mortar := { s1.mortar with groups := s1.mortar.groups ++ gs } }, cs)

/-- Escalation registers at admission (R171, R174). -/
def startEsc (m : Manifest) : Esc :=
  let bases := (m.setts.map fun d => d.ladders.map (·.base)).flatten
  { Esc.reset with budget := m.escBudget, widest := if bases.isEmpty then 15 else bases.foldl max 0 }

/-- The counters whose start values cannot be written: the status that rejects the run. -/
def counterStatus (s : State) (ag : Agent) (m : Manifest) : Option Reject :=
  firstBad 7 m.counters fun _ k => match translate s ag .write k.va with
    | .ok (.dev ca) => if s.inPool ca then some 0x0107 else none
    | .ok _ => none
    | .fault c => some (if fatalClass c then classStatus c else 0x0315)

def writeCounters (ag : Agent) (l : List (Nat × Nat)) (s : State) : State :=
  l.foldl (fun s e => match (writeRange s ag .write e.1 (leBytes e.2 8)).2 with
    | .ok _ s' => s'
    | .fault _ s' => s'
    | .bad _ s' => s') s

def sat32 (x : W32) : W32 := satAdd x 1

/-- Write the warning list (R293); a fault loses it. -/
def writeWarnings (r : Run) (ws : List (Nat × Nat)) (s : State) : State :=
  if r.warnVa = 0 then s
  else match (writeRange s { client := r.client, objs := none, mortar := false } .write r.warnVa (warningBytes ws)).2 with
    | .ok _ s' => s'
    | .fault _ s' => s'
    | .bad _ s' => s'

/-- Admission prefetches the first WINDOW entries of the layer-order table (R330). -/
def prefetchLayers (s : State) (ag : Agent) (m : Manifest) : State :=
  match layerTable s ag m with
  | some (_, .inr (w, es)) => (es.take w).foldl (fun s e => match m.objects[e.obj]? with
    | some o => prefetch ag (objVa o + e.off) e.len s
    | none => s) s
  | _ => s

/-- A run takes the array: its runs wait no longer, and its client's deficit follows (R402). -/
def takeArray (run : Run) (st : ArrayState) (e : Esc) (s : State) : State :=
  settleDeficit run.client { s with stile := { s.stile with
    cur := some run, array := st, held := 0, esc := e
    runs := s.stile.runs.filter fun x => !(x.client == run.client && x.seqNo == run.seqNo) } }

/-- The setts of a placed run start on their logical places, and copy their staged slices. -/
def startSetts (run : Run) (s : State) : State :=
  let m := run.manifest
  let s1 := s.setCl run.client fun k => { k with prev := some (run.placement.zip (m.setts.map (·.carving))) }
  let s2 := (withIdx run.placement).foldl (fun s e => match m.setts[e.1]?, m.streams[e.1]? with
    | some d, some st => s.setSett e.2.2 (startSett m run.client (e.2.1 / 32) (e.2.1 % 32) d st.va)
    | _, _ => s) s1
  run.placement.foldl (fun s e => stageAll e.2 s) s2

/-- Give the array to an admitted run: every sett starts, nothing has issued yet. -/
def startRun (s : State) (r : Run) (code : Streams) : State :=
  let m := r.manifest
  let ag : Agent := { client := r.client, objs := some m.objects, mortar := false }
  let ws := warnings s r code
  let s1 := prefetchLayers (writeWarnings r ws (mapColumns s)) ag m
  let s2 := writeCounters ag (m.counters.map fun k => (k.va, k.start.toNat)) s1
  let b := bindGroups s2 r
  let place := placementOf b.1 m
  let run : Run := { r with admitted := true, placement := place, contexts := b.2, warn := !ws.isEmpty }
  let s3 := takeArray run .admitting (startEsc m) (ownPinned (ownCairn b.1 m) m)
  startSetts run (s3.setCl r.client fun k => { k with acctRuns := sat32 k.acctRuns })

/-- A sett has been fenced before the first issue of the run that admission has placed: the grid is placed again on the setts
in service, which start afresh; without a placement the image is rejected with 0x0125 (R294). -/
def placeAgain (s : State) (r : Run) : State :=
  let idx := r.placement.map (·.2)
  let s1 := idx.foldl (fun s i => s.setSett i fun t =>
    { t with phase := if t.phase = .fenced then .fenced else if t.asleep then .gated else .idle, asleep := false, queue := []
             stall := none, fetchMiss := false, stage := []
             stagePaused := none }) s
  let s2 := s1.setClient r.client fun x => { x with waiting := x.waiting.filter fun f => f.run != r.seqNo }
  if placeable s2 r.manifest then
    let s3 := mapColumns s2
    let run : Run := { r with placement := placementOf s3 r.manifest }
    startSetts run { s3 with stile := { s3.stile with cur := some run } }
  else
    postComp (freeArray (clearRun s2 r 0x0125 true) r) r.client r.queue (some r.desc) r.irq
      { tag := r.tag.toNat, status := 0x0125, type := 1, run := r.seqNo, warn := r.warn, locus := locus 1 0, wait := r.wait
        faults := r.faults, fin := s.now }

/-- Stile reads the manifest that the RUN names (R392): the status with which the read at MANIFEST_VA fails. DEDUCED: it
fails as the other reads of an admission do. -/
def manifestStatus (s : State) (r : Run) : Option Reject :=
  match (readRange s { client := r.client, objs := none, mortar := false } .read r.manifestVa 1).2 with
  | .ok _ _ => none
  | a => some ⟨a.status, locus 1 0⟩

/-- Admit a run on the free array: start it, or complete it with the first failure (R290, R405). -/
def admitRun (s : State) (r : Run) : State :=
  let ag : Agent := { client := r.client, objs := some r.manifest.objects, mortar := false }
  let fail (j : Reject) : State :=
    let s1 := { s with stile := { s.stile with runs := s.stile.runs.filter fun x =>
      !(x.client == r.client && x.seqNo == r.seqNo) } }
    postComp (settleDeficit r.client s1) r.client r.queue (some r.desc) r.irq
      { tag := r.tag.toNat, status := j.code, type := 1, run := r.seqNo, locus := j.locus, wait := r.wait, fin := s.now }
  match manifestStatus s r, admissionCheck s r.client r.manifest with
  | some j, _ => fail j
  | none, .inr j => fail j
  | none, .inl code => match counterStatus s ag r.manifest with
    | some j => fail j
    | none => startRun s r code

/-! Pre-emption (R66, R376–R378) -/

/-- Does a run hold the array that a pre-emption can stop? -/
def ArrayState.held (a : ArrayState) : Bool := a == .admitting || a == .running || a == .restoring

/-- Stop the running run: issue stops and its contexts freeze. -/
def startPreempt (s : State) : State :=
  match s.stile.cur with
  | none => s
  | some r =>
    if !s.stile.array.held then s
    else
      let s1 := freezeContexts r true s
      let s2 := r.placement.foldl (fun s e => s.setSett e.2 fun t =>
        if t.phase = .running then { t with phase := .draining } else t) s1
      { s2 with stile := { s2.stile with array := .saving } }

/-- The pre-emption request of the physical function (R376, R410). -/
def requestPreempt (s : State) : State :=
  if s.stile.cur.isSome && s.stile.array.held then
    startPreempt { s with stile := { s.stile with preempt := true } }
  else s

/-- The phase that a sett resumes in: one that was fenced while its run saved goes on as it stood (R556). -/
def savedPhase (t : Sett) : SettPhase :=
  if t.phase = .fenced ∨ t.phase = .selfTest ∨ t.phase = .draining then
    if !t.ended then .running else if t.phase ≠ .draining ∧ t.queue.isEmpty then .completed else .draining
  else t.phase

/-- A sett as the state block saves it: waits leave the slices, the transfer paused on a fault stays paused. An instruction
that the issue unit holds stalled has not issued: issue goes on with it from the saved pc (R66). -/
def saveSett (t : Sett) : Sett :=
  { t with phase := savedPhase t, asleep := false, mode := 0, stall := none
           queue := t.queue.map fun e => match e.st with
             | .waiting _ => { e with st := .queued }
             | _ => e }

/-- The pre-emption save reads a sett's banks, statistics ledgers and carved regions: bad words and wrong parity end the
run (R45). -/
def saveReads (i : Nat) (s : State) : Res Unit :=
  let t := s.sett i
  if t.banks.any (fun b => !b.2.parity.isEmpty) || t.statsParity then .bad 0x0208 s
  else checkWords i ((t.carving.map fun r => iota (r.base / 8) (r.size / 8)).flatten) s

/-- The work counters' values in memory. -/
def readCounters (s : State) (ag : Agent) (m : Manifest) : List W64 :=
  m.counters.map fun k => match (readRange s ag .read k.va 8).2 with
    | .ok b _ => BitVec.ofNat 64 (leNat b)
    | _ => 0

/-- Write bytes of a save area, which never faults (R378). -/
def writeSaved (ag : Agent) (va : Nat) (bs : List Byte) (s : State) : State :=
  match (writeRange s ag .write va bs).2 with
  | .ok _ s' => s'
  | .fault _ s' => s'
  | .bad _ s' => s'

/-- Write `n` bytes of a part whose layout is not given: each is a free value. -/
def writeFree (ag : Agent) (va n : Nat) (s : State) : State :=
  writeSaved ag va ((iota s.fresh n).map Config.freeByte) { s with fresh := s.fresh + n }

/-- The bank image (R46): visible ledgers, extensions, markers, each in ledger order. DESIGN CHOICE: of a marker byte bit 0 is
NaN, bit 1 +∞ and bit 2 −∞, in the order in which R46 names them. -/
def bankImage (b : Bank) : List Byte :=
  let l := (List.range 16384).map (SMap.get Ledger.zero b.led)
  (l.map fun x => leBytes x.n.toNat 16).flatten ++ l.map (fun x => BitVec.ofNat 8 (x.n.toNat / 2 ^ 128))
    ++ l.map fun x => BitVec.ofNat 8 (b2n x.nan + 2 * b2n x.pinf + 4 * b2n x.ninf)

/-- The bytes of a sett's carved regions. -/
def regionImage (t : Sett) : List Byte := (t.carving.map fun r => SMap.getMany 0 t.scratch r.base r.size).flatten

/-- Paused lookups of bank `b` of table `tb` (R246). -/
def pausedLookups (s : State) (tb b : Nat) : Nat :=
  s.entries fun _ q => match q.instr, q.aux with
    | .cairnLookup _ _ _, t :: e :: _ => decide (t = tb) && decide (e % 2 = b)
    | _, _ => false

/-- The banks, the epoch and the paused lookups of each bank of a Cairn table (R246): 1 MiB and 16 of 64 bytes. DESIGN CHOICE:
the epoch stands in 8 bytes and each count in 4. -/
def cairnImage (c : Cairn) (paused : Nat → Nat) : List Byte :=
  ((List.range 131072).map fun k => leBytes (c.entries.get 0 k).toNat 8).flatten ++ leBytes c.epoch.toNat 8
    ++ leBytes (paused 0) 4 ++ leBytes (paused 1) 4

/-- Write the parts of a save area one behind another from `va`: bytes, or so many bytes without a given layout. -/
def writeParts (ag : Agent) : List (List Byte ⊕ Nat) → Nat → State → State
  | [], _, s => s
  | .inl bs :: t, va, s => writeParts ag t (va + bs.length) (writeSaved ag va bs s)
  | .inr n :: t, va, s => writeParts ag t (va + n) (writeFree ag va n s)

/-- The parts of a save area, of R291's S bytes, in the order of its terms: of each sett the 24 KiB state block, both bank
images and the regions; the counters; the tables; Stile's run record. DESIGN CHOICE: their order. -/
def saveParts (setts : List Sett) (counters : List W64) (tables : List (Cairn × (Nat → Nat))) : List (List Byte ⊕ Nat) :=
  (setts.map fun t => [.inr 24576, .inl (bankImage (t.banks.get Bank.zero 0)), .inl (bankImage (t.banks.get Bank.zero 1))
                       , .inl (regionImage t)]).flatten
    ++ [.inl ((counters.map fun c => leBytes c.toNat 8).flatten)]
    ++ (tables.map fun c => [.inl (cairnImage c.1 c.2), .inr 48]).flatten ++ [.inr 65536]

/-- The save area of a run is written. -/
def writeSaveArea (ag : Agent) (r : Run) (counters : List W64) (s : State) : State :=
  match r.manifest.objects[r.manifest.saveObject]? with
  | none => s
  | some o => writeParts ag (saveParts (r.placement.map fun e => s.sett e.2) counters (r.manifest.cairn.map fun t => (s.cairnT t, pausedLookups s t))) (objVa o) s

/-- A pre-empted run's setts leave the array. -/
def leaveSetts (s : State) (r : Run) : State :=
  let idx := r.placement.map (·.2)
  let s1 := idx.foldl (fun s i => s.setSett i fun t =>
    if t.phase = .fenced ∨ t.phase = .selfTest then { t with queue := [], stall := none }
    else { t with phase := if t.asleep then .gated else .saved, asleep := false, queue := [], stall := none, fetchMiss := false, stage := [], stagePaused := none }) s
  { s1 with mem := { s1.mem with waits := s1.mem.waits.filter fun w => !idx.contains w.sett } }

/-- The Lintel-pinned lines go back to their HBM backing and are unlocked (R324). -/
def writeBackLocked (s : State) : State := unlockLines (s.lockedLines.foldl cleanLine s)

/-- The drained run's state goes to its save area, and the array is free (R377). -/
def saveRun (s : State) (r : Run) : State :=
  let m := r.manifest
  let ag := runAgent s
  let s1 := m.cairn.foldl (fun s t => cairnClearDone t (cairnClearStart t s)) s
  let counters := readCounters s1 ag m
  let saved : Saved :=
    { setts := r.placement.map fun e => (e.1, saveSett (s1.sett e.2))
      counters := counters
      cairn := m.cairn.foldl (fun x t => SMap.set Cairn.reset x t (s1.cairnT t)) []
      esc := s1.stile.esc
      locked := s1.lockedLines }
  let s2 := leaveSetts (writeBackLocked (writeSaveArea ag r counters s1)) r
  let s3 := m.cairn.foldl (fun s t => s.setCairn t fun k => { k with owned := false }) s2
  let s4 := [0, 1].foldl (fun s d => s.setDie d fun k => { k with lintelPinned := 0 }) s3
  let run : Run := { r with saved := some saved, preempts := r.preempts + 1 }
  let s5 := { s4 with stile := { s4.stile with runs := s4.stile.runs ++ [run] } }
  let s6 := s5.setCl r.client fun k => { k with acctPreempts := sat32 k.acctPreempts }
  freeArray (enterResidency s6 r) r

/-- Read what the save of each sett reads; the first error ends the run. -/
def saveChecks : List Nat → State → Res Unit
  | [], s => .ok () s
  | i :: t, s => match saveReads i s with
    | .ok _ s' => saveChecks t s'
    | e => e

/-- The drain and the save end: the run waits with its state saved, and the array is free (R377); what a drain or the save
finds bad ends the run. -/
def saveDone (s : State) : State :=
  if s.stile.array ≠ .saving ∨ !s.arrayRuns then s
  else match s.stile.cur with
  | none => s
  | some r =>
    let s1 := r.placement.foldl (fun s e => drainSett failRun e.2 ((s.sett e.2).queue.length + 1) s) s
    match s1.stile.cur with
    | none => s1
    | some r1 => match saveChecks (r1.placement.map (·.2)) s1 with
      | .ok _ s2 => saveRun s2 r1
      | .bad x s2 => endRun s2 x
      | .fault _ _ _ s2 => s2

/-! Abandoning a pre-empted run (R381, R548) -/

/-- Remove a pre-empted run: its faults no longer wait and its contexts go. -/
def dropRun (s : State) (r : Run) : State :=
  let s1 := { s with stile := { s.stile with runs := s.stile.runs.filter fun x =>
    !(x.client == r.client && x.seqNo == r.seqNo) } }
  let s2 := s1.setClient r.client fun x => { x with waiting := x.waiting.filter fun f => f.run != r.seqNo }
  let s3 := releaseContexts s2 r true
  settleDeficit r.client s3

/-- Abandon a pre-empted run and post its completion. -/
def abandonRun (s : State) (r : Run) (status : Nat) : State :=
  let e := (r.saved.map (·.esc)).getD Esc.reset
  postComp (dropRun s r) r.client r.queue (some r.desc) r.irq (runComp s r status 0 e)

/-! Resuming (R66, R377, R380) -/

/-- A saved sett on the physical sett that it resumes on. -/
def restoreSett (saved t : Sett) : Sett :=
  let z := zeroRegions t saved.carving
  { saved with
    asleep := t.phase == .gated, eccCnt := t.eccCnt
    scratch := saved.scratch.foldl (fun m e =>
      if saved.carving.any fun r => decide (r.base ≤ e.1) && decide (e.1 < r.base + r.size) then SMap.set 0 m e.1 e.2 else m) z.scratch
    badWords := z.badWords, softWords := z.softWords }

/-- The fault of a client with an identifier, if it waits. -/
def waitingFault (s : State) (c id : Nat) : Option FaultRec := (s.client c).waiting.find? fun f => f.id == id

/-- Let a paused transfer translate again after a resume, by `go`: where it fails again at the same granule with the
same class, its fault waits on (R380); else that fault no longer waits. -/
def retranslate (c : Nat) (f : FaultRec) (go : State → State) (s : State) : State :=
  let s1 := go (s.setClient c fun x => { x with again := some f })
  if (s1.client c).again.isNone then s1
  else s1.setClient c fun y => { y with again := none, waiting := y.waiting.filter fun h => h.id != f.id }

/-- Go on with a sett's transfer or staged copy that waits on fault `id`. -/
def goSett (i id : Nat) (s : State) : State :=
  if (s.sett i).stagePaused = some id then stageAll i (s.setSett i fun t => { t with stagePaused := none })
  else resumeSett i id s

/-- Every transfer of a resumed run that waits on a fault translates again. -/
def retranslateRun (r : Run) (s : State) : State :=
  let fs := (s.client r.client).waiting.filter fun f => f.run == r.seqNo
  fs.foldl (fun s f => match f.owner with
    | .sett i _ => retranslate r.client f (goSett i f.id) s
    | .mortar k => retranslate r.client f (resumeCtx k f.id) s
    | _ => s) s

/-- Lock again the Lintel-pinned lines that a run had touched (R324). -/
def relockLines (ks : List Nat) (s : State) : State :=
  ks.foldl (fun s k => ((lineBursts k).foldl (fun s b => (readBurst s b).1) s).setLine k fun l => { l with locked := true }) s

/-- The Cairn tables of a resumed run, and what another run left in an undeclared one passes to no client (R246). -/
def restoreCairn (m : Manifest) (saved : Saved) (s : State) : State :=
  [0, 1].foldl (fun s t => s.setCairn t fun k =>
    let c := if m.cairn.contains t then { saved.cairn.get Cairn.reset t with owned := true } else Cairn.reset
    { c with lookupCnt := k.lookupCnt, unsetCnt := k.unsetCnt, fillCnt := k.fillCnt, dropCnt := k.dropCnt }) s

/-- Faults of a resumed run name the setts that it now runs on. -/
def moveFaults (r : Run) (place : List (Nat × Nat)) (s : State) : State :=
  let dest (i : Nat) : Nat := match r.placement.find? fun e => e.2 == i with
    | some e => ((place.find? fun p => p.1 == e.1).map (·.2)).getD i
    | none => i
  s.setClient r.client fun x => { x with resumed := [], waiting := x.waiting.map fun f =>
    if f.run = r.seqNo then match f.owner with
      | .sett i u => { f with owner := .sett (dest i) u }
      | _ => f
    else f }

/-- Resume a pre-empted run on the free array: its contexts go on, then what waited on a fault translates again (R377,
R380, R548). -/
def resumeRun (s : State) (r : Run) (saved : Saved) : State :=
  let s1 := mapColumns s
  if !placeable s r.manifest then abandonRun s r 0x0125
  else
    let place := placementOf s1 r.manifest
    let run : Run := { r with saved := none, placement := place }
    let s2 := takeArray run .restoring saved.esc s1
    let s3 := place.foldl (fun s e => match saved.setts.find? fun x => x.1 == e.1 with
      | some x => s.setSett e.2 (restoreSett x.2)
      | none => s) s2
    let s4 := ownPinned (restoreCairn r.manifest saved s3) r.manifest
    let s5 := writeCounters (runAgent s4) ((r.manifest.counters.map (·.va)).zip (saved.counters.map (·.toNat))) s4
    let s6 := freezeContexts run false (moveFaults r place (relockLines saved.locked s5))
    let s7 := place.foldl (fun s e => advance e.2 (stageAll e.2 s)) (retranslateRun run s6)
    settleDoom s7

/-! Choosing the next run (R333, R400) -/

/-- RESIDENT with 16 fraction bits; a pre-empted run counts as fully resident. -/
def residentOf (s : State) (r : Run) : Nat :=
  if r.saved.isSome then 65536
  else
    let os := r.manifest.objects
    let all := (os.map objBytes).foldl (· + ·) 0
    let live (o : BitVec 512) : Bool := [0, 1].any fun d => (s.stile.residency.get [] d).any fun e =>
      e.client == r.client && e.reskey == objReskey o && e.tier == objTier o && e.reskey != 0
    let hit := ((os.filter live).map objBytes).foldl (· + ·) 0
    if all = 0 then 0 else hit * 65536 / all

/-- WARM_SETTS (R333), on the columns as an admission would map them. -/
def warmSetts (s : State) (r : Run) : Nat :=
  let s1 := mapColumns s
  ((withIdx r.manifest.setts).filter fun e =>
    wouldBeWarm (s1.sett (s1.physOf (e.1 / r.manifest.cols) (e.1 % r.manifest.cols))) r.client e.2.carving).length

/-- The run that a client offers in a class: its pre-empted run, else that of its lowest queue. -/
def offered (s : State) (cls c : Nat) : Option Run :=
  let rs := s.readyRuns.filter fun r => r.client == c && r.cls == cls
  match rs.find? (·.saved.isSome) with
  | some r => some r
  | none => (List.range 8).findSome? fun q => rs.find? fun r => r.queue == q

/-- Ticks that one round adds to a client's deficit. -/
def increment (s : State) (cls c : Nat) : Nat :=
  let w := (s.cl c).policy.toNat % 256
  let sl := (s.stile.slices.get 0 cls).toNat
  (if w = 0 then 1 else w) * (if sl = 0 then 3125 else sl) / 16

/-- Rounds until some deficit is positive; none where no increment ever makes one so. -/
def rounds (s : State) (cls : Nat) (cs : List Nat) : Option Nat :=
  (cs.filterMap fun c =>
    let d := (s.cl c).deficit
    if 0 < d then some 0
    else if increment s cls c = 0 then none else some ((-d).toNat / increment s cls c + 1)).min?

/-- Best of a list under a strict order, the first among equals. -/
def bestBy {α : Type} (better : α → α → Bool) : List α → Option α
  | [] => none
  | a :: t => some (t.foldl (fun b x => if better x b then x else b) a)

/-- The choice of R400: the run, with the deficits that it leaves. -/
def chooseRun (s : State) : Option (Run × State) :=
  match [0, 1, 2, 3].find? fun cls => s.readyRuns.any fun r => r.cls == cls with
  | none => none
  | some cls =>
    let cs := (List.range 32).filter fun c => s.readyRuns.any fun r => r.client == c && r.cls == cls
    match rounds s cls cs with
    | none => none
    | some n =>
      let s1 := cs.foldl (fun s c => s.setCl c fun k =>
        { k with deficit := satDeficit (k.deficit + (n * increment s cls c : Nat)) }) s
      let best := (cs.map fun c => (s1.cl c).deficit).foldl max (-(2 ^ 63))
      let es := (cs.filter fun c => decide (best - (s.stile.affinity.toNat : Int) ≤ (s1.cl c).deficit)).filterMap fun c =>
        (offered s1 cls c).map fun r => (c, r)
      let better (x y : Nat × Run) : Bool :=
        let a := (residentOf s1 x.2, warmSetts s1 x.2)
        let b := (residentOf s1 y.2, warmSetts s1 y.2)
        decide (b.1 < a.1) || (a.1 == b.1 && (decide (b.2 < a.2) || (a.2 == b.2 &&
          decide ((s1.cl y.1).deficit < (s1.cl x.1).deficit))))
      (bestBy better es).map fun e => (e.2, s1)

/-- A mapping-out copy is due or runs: the driver has named the frames (R343, R360). -/
def State.copyDue (s : State) (d : Nat) : Bool := (s.die d).mapBusy || ((s.die d).mapPending && !(s.die d).frames.isEmpty)

/-- A route names the port. -/
def routeNames (s : State) (p : Nat) : Bool := s.golger.routes.any fun e => bit e.2.toNat 14 && bit e.2.toNat p

/-- The running test or retraining stands at a job boundary: a retraining, or the loopback of a port that a route names (R536). -/
def boundaryJob (s : State) : Bool := s.test.job.any fun j => j.op == 4 || (j.unit == 3 && routeNames s j.index)

/-- Stile holds admission: a mapping-out copy is due at this job boundary or runs, a retraining runs, a test or
retraining waits for this job boundary, the array clock stands (R529), or the module admits no run (R343, R360, R502, R536,
R545). -/
def admissionHeld (s : State) : Bool :=
  !s.hearth.ready || s.hearth.recovery || !s.arrayRuns || s.copyDue 0 || s.copyDue 1 ||
    !s.test.waiting.isEmpty || boundaryJob s

/-- SCHEDULE_RUN: the array is free and a run is ready. -/
def scheduleRun (s : State) : State :=
  if s.stile.array ≠ .free ∨ admissionHeld s then s
  else match chooseRun s with
    | none => s
    | some (r, s1) => match r.saved with
      | some k => resumeRun s1 r k
      | none => admitRun s1 r

/-- A ready run of a higher-ranked class pre-empts the running run (R401). -/
def settleClass (s : State) : State :=
  match s.stile.cur with
  | none => s
  | some r => if s.readyRuns.any fun x => decide (x.cls < r.cls) then startPreempt s else s

/-! Slice, watchdog and stop (R401, R404, R410) -/

/-- SLICE_EXPIRY: the running run has held the array for its slice, and another client has a ready run of its class. -/
def sliceExpiry (s : State) : State :=
  match s.stile.cur with
  | none => s
  | some r =>
    let k := (s.stile.slices.get 0 r.cls).toNat
    if k ≠ 0 ∧ k ≤ s.stile.held ∧ (s.readyRuns.any fun x => x.client != r.client && x.cls == r.cls) then startPreempt s
    else s

/-- STALL of a completion record (R405): the stalled setts and the lowest one's cause and place. -/
def stallField (s : State) (r : Run) : Nat :=
  let l := r.placement.filter fun e => (s.sett e.2).cause != 0
  match l with
  | [] => 0
  | e :: _ => l.length * 2 ^ 32 + (s.sett e.2).cause * 2 ^ 20 + e.1 / 32 * 2 ^ 16 + e.1 % 32 * 2 ^ 11

/-- The watchdog budget in force; 0: none (R404). -/
def wdogBudget (s : State) (r : Run) : Nat :=
  let mx := s.stile.wdogMax.toNat
  let b := r.manifest.wdogBudget.toNat
  if b = 0 then mx else if mx = 0 then b else min b mx

/-- RUN_WATCHDOG_EXPIRY: the run has counted its budget: it ends with 0x0104 and the watchdog alarm rises. -/
def watchdogExpiry (s : State) : State :=
  match s.stile.cur with
  | none => s
  | some r =>
    if s.stile.array = .saving ∨ wdogBudget s r = 0 ∨ r.wdog < wdogBudget s r then s
    else raiseAlarm (endRunWith (stopOthers noSett s) 0x0104 (stallField s r)) 0 0x0104 1

/-- STOP: the PF ends the running run with 0x0109. -/
def stopRun (s : State) : State :=
  match s.stile.cur with
  | none => s
  | some r => endRunWith (stopOthers noSett s) 0x0109 (stallField s r)

end Sys2Proof.Machine
end

