-- ==== Sys2Proof/Machine/FabricRows.lean ====
section
/-! DEFINITION. Golger and Mortar commands (16, 17). Messages that Golger loses reach Mortar at once, and a fatal
fault of a run's context ends that run (R370, R447). -/

namespace Sys2Proof.Machine

/-- What Mortar does next with messages lost and with a fatal fault of a run's context. -/
def fabricDone (s : State) : State := settleDoom (settleLost 64 s)

/-- An effect at one of the twelve ports (R411). -/
def atPort (port : Nat) (f : State → State) (s : State) : State := if port < 12 && s.powered then fabricDone (f s) else s

/-- An effect at one of the 256 contexts (R459). -/
def atCtx (ctx : Nat) (f : State → State) (s : State) : State := if ctx < 256 && s.powered then fabricDone (f s) else s

/-- PORT_TRAIN (R412). -/
def execPortTrain (port : Nat) (s : State) : Answer := .next (fromHost (atPort port (golgerTrain port)) s)
/-- TRAINING_COMPLETE (R412). -/
def execTrainingComplete (port : Nat) (ok : Bool) (lanes : BitVec 8) (peer : Nat) (s : State) : Answer :=
  .next (atPort port (golgerTrained port ok lanes peer) s)
/-- PORT_TAKE_DOWN (R425). -/
def execPortTakeDown (port : Nat) (s : State) : Answer := .next (fromHost (atPort port (golgerTakeDown port)) s)
/-- DRAIN_LIMIT_EXPIRY (R425). -/
def execDrainLimitExpiry (port : Nat) (s : State) : Answer := .next (atPort port (golgerDrained port) s)
/-- LINK_FAULT (R426). -/
def execLinkFault (port : Nat) (s : State) : Answer := .next (atPort port (golgerLinkFault port) s)
/-- DATA_FLIT (R417). -/
def execDataFlit (port : Nat) (flit : Flit) (s : State) : Answer := .next (atPort port (golgerData port flit) s)
/-- IDLE_FLIT (R416). -/
def execIdleFlit (port : Nat) (flit : Flit) (s : State) : Answer := .next (atPort port (golgerCredits port flit) s)
/-- CREDIT_ONLY_FLIT (R419). -/
def execCreditOnlyFlit (port : Nat) (flit : Flit) (s : State) : Answer :=
  .next (atPort port (golgerCredits port flit) s)
/-- REPLAY_REQUEST (R417). -/
def execReplayRequest (port : Nat) (flit : Flit) (s : State) : Answer :=
  .next (atPort port (golgerReplay port flit) s)
/-- ABORT_FLIT (R426). -/
def execAbortFlit (port : Nat) (flit : Flit) (s : State) : Answer := .next (atPort port (golgerAbort port flit) s)
/-- STALL_LIMIT_EXPIRY (R424). -/
def execStallLimitExpiry (port : Nat) (s : State) : Answer := .next (atPort port (golgerStall port) s)
/-- GOLGER_MODULE_ID_WRITE (R427). -/
def execGolgerModuleIdWrite (value : W32) (s : State) : Answer :=
  .next (fromHost (golgerSetId value) s)

/-- A message reaches Mortar. -/
def whenPowered (f : State → State) (s : State) : State := if s.powered then fabricDone (f s) else s

/-- COLLECTIVE_START (R437). -/
def execCollectiveStart (ctx : Nat) (s : State) : Answer := .next (atCtx ctx (collStart ctx) s)
/-- CHUNK_SEND (R446). -/
def execChunkSend (ctx : Nat) (s : State) : Answer := .next (atCtx ctx (chunkSend ctx) s)
/-- DATA_CHUNK (R447). -/
def execDataChunk (source : Nat) (chunk : Chunk) (s : State) : Answer := .next (whenPowered (dataChunk source chunk) s)
/-- ACK_CHUNK (R446). -/
def execAckChunk (source : Nat) (chunk : Chunk) (s : State) : Answer := .next (whenPowered (ackChunk source chunk) s)
/-- REFETCH (R447). -/
def execRefetch (source : Nat) (chunk : Chunk) (s : State) : Answer :=
  .next (whenPowered (refetchChunk source chunk) s)
/-- NOTICE (R449). -/
def execNotice (source : Nat) (chunk : Chunk) (s : State) : Answer := .next (whenPowered (noticeChunk source chunk) s)
/-- ACK_LIMIT_EXPIRY (R447). -/
def execAckLimitExpiry (ctx slot : Nat) (s : State) : Answer := .next (atCtx ctx (ackLimit ctx slot) s)
/-- GROUP_TIMEOUT (R450). -/
def execGroupTimeout (ctx : Nat) (s : State) : Answer := .next (atCtx ctx (groupTimeout ctx) s)
/-- COLLECTIVE_COMPLETE (R444). -/
def execCollectiveComplete (ctx : Nat) (s : State) : Answer := .next (atCtx ctx (collComplete ctx) s)
/-- CONTEXT_TAKE_DOWN (R456). -/
def execContextTakeDown (ctx : Nat) (s : State) : Answer := .next (fromHost (atCtx ctx (ctxTakeDown ctx)) s)
/-- CONTEXT_RETURN (R456). -/
def execContextReturn (ctx : Nat) (s : State) : Answer := .next (fromHost (atCtx ctx (ctxReturn ctx)) s)

end Sys2Proof.Machine
end

