-- ==== Sys2Proof/Machine/Queues.lean ====
section
/-! DEFINITION. Work queues and their descriptors: polling, NOP, RUN and COPY (R391–R396, R399, R401, R410). -/

namespace Sys2Proof.Machine

/-! Rings (R391, R410) -/

def Queue.slots (q : Queue) : Nat := 2 ^ clampNat 4 16 (field q.ctrl.toNat 4 0)
def Queue.enabled (q : Queue) : Bool := bit q.ctrl.toNat 31
def Queue.onHost (q : Queue) : Bool := bit q.base.toNat 63
def Queue.start (q : Queue) : Nat := field q.base.toNat 51 12 * 4096

/-- Read at a ring of a queue of client `c`: bytes, or none where the read fails (R395), in the frame pool too (R471). -/
def ringRead (c : Nat) (q : Queue) (off len : Nat) (s : State) : State × Option (List Byte) :=
  if !q.onHost && poolRange s (q.start + off) len then (s, none)
  else match physRead s c q.onHost (q.start + off) len with
  | none => (s, none)
  | some (s', st, bs) => (s', if st = 0 then some bs else none)

/-- A queue error: EN clears, ERR sets and a completion with TAG 0 is posted (R395). -/
def disableQueue (c n status : Nat) (s : State) : State :=
  postComp (s.setQ c n fun q => { q with ctrl := q.ctrl &&& 0x7FFFFFFF#32, err := true, resync := false }) c n none false
    { tag := 0, status := status, type := 0 }

/-! Descriptors (R392, R395) -/

def descType (d : Desc) : Nat := recField d.bytes 8 1
def descIrq (d : Desc) : Bool := bit (recField d.bytes 9 1) 0
def descBarrier (d : Desc) : Bool := bit (recField d.bytes 9 1) 1

/-- Payload bytes of each type that are zero: NOP has none, RUN from 32, COPY from 40; STREAM (R465) and COLL (R454)
have three gaps. -/
def payloadOk (bs : List Byte) : Bool :=
  match recField bs 8 1 with
  | 0 => recField bs 16 48 == 0
  | 1 => recField bs 32 32 == 0
  | 2 => recField bs 40 24 == 0 && decide (1 ≤ recField bs 32 8) && decide (recField bs 32 8 ≤ 2 ^ 40)
  | 3 => recField bs 17 1 == 0 && recField bs 20 4 == 0 && recField bs 32 32 == 0 && decide (recField bs 16 1 ≤ 2) &&
      (recField bs 16 1 != 2 || recField bs 24 8 == 0)
  | 4 => recField bs 17 1 == 0 && recField bs 22 2 == 0 && recField bs 32 32 == 0 && decide (recField bs 16 1 ≤ 2)
  | _ => false

/-- Neither a reserved TYPE nor a reserved bit or byte that is not zero. -/
def descOk (bs : List Byte) : Bool := recField bs 9 1 / 4 == 0 && recField bs 10 6 == 0 && payloadOk bs

/-- A descriptor arrives in its queue; a bad one completes with 0x0101 at once. -/
def takeDesc (c n : Nat) (bs : List Byte) (s : State) : State :=
  let k := s.cl c
  let q := k.q n
  let d : Desc := { id := q.nextId, bytes := bs, cls := max (field q.ctrl.toNat 9 8) (field k.policy.toNat 9 8)
                    started := !descOk bs, posted := false, prog := 0, paused := none, faults := 0 }
  let s1 := s.setQ c n fun q => { q with nextId := q.nextId + 1, fetched := q.fetched + 1, descs := q.descs ++ [d] }
  if descOk bs then s1
  else postComp s1 c n (some d.id) (descIrq d) { tag := recField bs 0 8, status := 0x0101, type := descType d }

/-- Fetch up to `m` descriptors; a read that fails disables the queue. -/
def fetchGo (c n : Nat) : Nat → State → State
  | 0, s => s
  | m + 1, s =>
    let q := (s.cl c).q n
    match ringRead c q (64 + 64 * (q.fetched.toNat % q.slots)) 64 s with
    | (s1, none) => disableQueue c n 0x0105 s1
    | (s1, some bs) => fetchGo c n m (takeDesc c n bs s1)

/-- QUEUE_POLL: read the header, then fetch what is new and has room (R391, R395, R396). -/
def pollQueue (c n : Nat) (s : State) : State :=
  let q := (s.cl c).q n
  if !q.enabled then s
  else match ringRead c q 0 4 s with
    | (s1, none) => disableQueue c n 0x0105 s1
    | (s1, some bs) =>
      let tail := BitVec.ofNat 32 (leNat bs)
      if q.resync then s1.setQ c n fun q => { q with fetched := tail, resync := false, k := min (q.k + 1) (field q.ctrl.toNat 12 10) }
      else
        let ahead := (tail - q.fetched).toNat
        if q.slots < ahead then disableQueue c n 0x0102 s1
        else if ahead = 0 then s1.setQ c n fun q => { q with k := min (q.k + 1) (field q.ctrl.toNat 12 10) }
        else fetchGo c n (min ahead (32 - q.descs.length)) (s1.setQ c n fun q => { q with k := 0 })

/-- QUEUE_ENABLE: a write of STILE_Qn_CTRL. -/
def writeQueueCtrl (c n : Nat) (v : W32) (s : State) : State :=
  s.setQ c n fun q =>
    let w := { q with ctrl := v &&& 0x80001F1F#32 }
    if bit v.toNat 31 then { w with err := false, resync := true } else w

/-! Starting descriptors (R393) -/

/-- The first descriptor of a queue that has not started, if its barrier lets it start. -/
def nextDesc (s : State) (c n : Nat) : Option Desc :=
  let ds := ((s.cl c).q n).descs
  match ds.find? fun d => !d.started with
  | none => none
  | some d => if descBarrier d && ds.any fun e => decide (e.id < d.id) && !e.posted then none else some d

/-- The next descriptor of a queue, if it has the type (and, for STREAM and COLL, the SUB) that a command starts. -/
def nextOf (s : State) (c n type : Nat) (sub : Option Nat) : Option Desc :=
  (nextDesc s c n).filter fun d => descType d == type && (sub.isNone || sub == some (recField d.bytes 16 1))

def setDesc (c n id : Nat) (f : Desc → Desc) (s : State) : State :=
  s.setQ c n fun q => { q with descs := q.descs.map fun d => if d.id = id then f d else d }

def findDesc (s : State) (c n id : Nat) : Option Desc := ((s.cl c).q n).descs.find? fun d => d.id == id

def startDesc (c n id : Nat) (s : State) : State := setDesc c n id (fun d => { d with started := true }) s

/-- Complete a descriptor that is not a run. -/
def completeDesc (c n : Nat) (d : Desc) (status : Nat) (s : State) : State :=
  postComp (startDesc c n d.id s) c n (some d.id) (descIrq d)
    { tag := recField d.bytes 0 8, status := status, type := descType d, faults := ((findDesc s c n d.id).map (·.faults)).getD 0 }

/-- NOP (R392). -/
def nopDesc (c n : Nat) (s : State) : State :=
  match nextOf s c n 0 none with
  | none => s
  | some d => completeDesc c n d 0 s

/-- RUN: the descriptor starts, and its run is ready once no earlier run of its queue is left (R393, R399, R401). -/
def runDesc (c n : Nat) (m : Manifest) (s : State) : State :=
  match nextOf s c n 1 none with
  | none => s
  | some d =>
    let r : Run := { client := c, queue := n, cls := d.cls, desc := d.id, tag := BitVec.ofNat 64 (recField d.bytes 0 8)
                     irq := descIrq d, manifestVa := recField d.bytes 16 8, warnVa := recField d.bytes 24 8, manifest := m, seqNo := (s.cl c).nextRun
                     admitted := false, placement := [], contexts := [], wait := 0, runt := 0, save := 0, preempts := 0
                     faults := 0, warn := false, issued := false, start := 0, wdog := 0, saved := none }
    let s1 := (startDesc c n d.id s).setCl c fun k => { k with nextRun := k.nextRun + 1 }
    settleClass { s1 with stile := { s1.stile with runs := s1.stile.runs ++ [r] } }

/-! COPY (R394) -/

/-- Stile's DMA works for a client outside any run. -/
def dmaAgent (c : Nat) : Agent := { client := c, objs := none, mortar := false }

/-- Does Stile's DMA hold a paused transfer (R372)? -/
def dmaPaused (s : State) : Bool :=
  s.stile.clients.any fun e => e.2.queues.any fun q => q.2.descs.any fun d => d.paused.isSome

/-- Does a range of the client's addresses touch the frame pool? Pool reservations are multiples of 2 MiB, so one
address of each 64 KiB page decides. -/
def touchesPool (s : State) (c va len : Nat) : Bool :=
  (iota (va / 65536) ((va + len - 1) / 65536 - va / 65536 + 1)).any fun p =>
    match translate s (dmaAgent c) .read (max va (p * 65536)) with
    | .ok (.dev ca) => s.inPool ca
    | _ => false

/-- Does an access of a client reach the frame pool (R27, R394)? -/
def poolHit (s : State) (c : Nat) (kind : AccKind) (va : Nat) : Bool :=
  match translate s (dmaAgent c) kind va with
  | .ok (.dev ca) => s.inPool ca
  | _ => false

/-- How a piece of a descriptor's work went. -/
inductive Moved where
  | more (s : State)
  | stop (s : State)

/-- A fault of a descriptor's transfer: it pauses, or a fatal class completes it. -/
def dmaFault (c n : Nat) (d : Desc) (va cls : Nat) (kind : AccKind) (fatalStatus : Nat → Nat) (s : State) : State :=
  let id := (s.client c).nextId
  let s1 := postFault (setDesc c n d.id (fun d => { d with faults := d.faults + 1 }) s) c va cls kind 0 (3 * 4096 + n) (.dma n)
  if fatalClass cls then completeDesc c n d (fatalStatus (classStatus cls)) s1
  else setDesc c n d.id (fun d => { d with paused := some id }) s1

/-- One granule of a copy; a page that has come to lie in the frame pool since the copy began ends it (R27, R28, R394). -/
def copyOnce (c n : Nat) (d : Desc) (s : State) : Moved :=
  let src := recField d.bytes 16 8 + d.prog
  let dst := recField d.bytes 24 8 + d.prog
  let k := min (recField d.bytes 32 8 - d.prog) (min (256 - src % 256) (256 - dst % 256))
  if poolHit s c .read src || poolHit s c .write dst then .stop (completeDesc c n d 0x0107 s)
  else match readGranule s (dmaAgent c) .read src k with
  | .fault cls s1 => .stop (dmaFault c n d src cls .read id s1)
  | .bad st s1 => .stop (completeDesc c n d st s1)
  | .ok bs s1 => match writeGranule s1 (dmaAgent c) .write dst bs with
    | .fault cls s2 => .stop (dmaFault c n d dst cls .write id s2)
    | .bad st s2 => .stop (completeDesc c n d st s2)
    | .ok _ s2 => .more (setDesc c n d.id (fun d => { d with prog := d.prog + k }) s2)

/-- Move bytes of a copy as far as it goes. -/
def copyGo (c n id : Nat) : Nat → State → State
  | 0, s => s
  | m + 1, s =>
    match findDesc s c n id with
    | none => s
    | some d =>
      if recField d.bytes 32 8 ≤ d.prog then s
      else match copyOnce c n d s with
        | .more s1 => copyGo c n id m s1
        | .stop s1 => s1

def copyMove (c n : Nat) (d : Desc) (s : State) : State :=
  if dmaPaused s then s else copyGo c n d.id (2 * (recField d.bytes 32 8 / 256 + 2)) s

/-- COPY: check the frame pool, then start to move. -/
def copyDesc (c n : Nat) (s : State) : State :=
  match nextOf s c n 2 none with
  | none => s
  | some d =>
    let len := recField d.bytes 32 8
    if touchesPool s c (recField d.bytes 16 8) len || touchesPool s c (recField d.bytes 24 8) len then completeDesc c n d 0x0107 s
    else copyMove c n d (startDesc c n d.id s)

/-- COPY_COMPLETE: the oldest copy under way that waits on no fault moves its last bytes and completes. -/
def copyDone (c n : Nat) (s : State) : State :=
  match ((s.cl c).q n).descs.find? fun d => d.started && !d.posted && descType d == 2 && d.paused.isNone with
  | none => s
  | some d =>
    let s1 := copyMove c n d s
    match findDesc s1 c n d.id with
    | none => s1
    | some e => if recField e.bytes 32 8 ≤ e.prog ∧ !e.posted then completeDesc c n e 0 s1 else s1

/-- Go on with a copy that waits on fault `id`. -/
def resumeCopy (c n id : Nat) (s : State) : State :=
  match ((s.cl c).q n).descs.find? fun d => d.paused == some id && descType d == 2 with
  | none => s
  | some d => copyMove c n d (setDesc c n d.id (fun d => { d with paused := none }) s)

/-! Completion rings (R405, R406, R410) -/

/-- STILE_CQ_BASE is written only while EN is 0. -/
def writeCqBase (c : Nat) (v : W64) (s : State) : State :=
  drainComps (s.setCl c fun k => if bit k.cqCtrl.toNat 31 then k else { k with cqBase := v &&& 0x800FFFFFFFFFF000#64 }) c
def writeCqCtrl (c : Nat) (v : W32) (s : State) : State :=
  drainComps (s.setCl c fun k => { k with cqCtrl := v &&& 0x87FFFFFF#32 }) c
def writeCqTail (c : Nat) (v : W32) (s : State) : State :=
  drainComps (s.setCl c fun k => { k with tail := v &&& 0x1FFFF#32 }) c

/-- HOLDOFF_EXPIRY: the holdoff is over, and a deferred signal is sent. -/
def holdoffOver (c : Nat) (s : State) : State :=
  if (s.cl c).deferred ∧ (s.cl c).holdoffEnd ≤ s.now then signalCq s c else s

end Sys2Proof.Machine
end

