-- ==== Sys2Proof/Machine/Codec.lean ====
section
/-! DEFINITION. The codec complex: streams, entries, cores and slices (18; R372, R394, R536, R542). What the codec standards make
of a stream's bytes, and what the encoder chooses, are values of Config (R461, R464). -/

namespace Sys2Proof.Machine

/-! Access -/

def State.core (s : State) (c : Nat) : CodecCore := s.codec.cores.get CodecCore.reset c
def State.setCore (s : State) (c : Nat) (f : CodecCore → CodecCore) : State :=
  { s with codec := { s.codec with cores := SMap.modify CodecCore.reset s.codec.cores c f } }
def State.strm (s : State) (k : Nat) : Option Stream := s.codec.streams.get none k
def State.setStrm (s : State) (k : Nat) (f : Stream → Stream) : State :=
  { s with codec := { s.codec with streams := SMap.modify none s.codec.streams k (fun x => x.map f) } }
def State.entry (s : State) (e : Nat) : Option PoolEntry := s.codec.entries.get none e
def State.setEntry (s : State) (e : Nat) (f : PoolEntry → PoolEntry) : State :=
  { s with codec := { s.codec with entries := SMap.modify none s.codec.entries e (fun x => x.map f) } }

/-! The stream block (R466, R467, R472) -/

def Stream.f (x : Stream) (i n : Nat) : Nat := recField x.block i n
def Stream.isEnc (x : Stream) : Bool := x.f 0 1 == 1
def Stream.subframe (x : Stream) : Bool := bit (x.f 4 1) 0
def Stream.quota (x : Stream) : Nat := x.f 12 2
def Stream.list (x : Stream) : Nat := 2 ^ x.f 14 1
def Stream.hardCap (x : Stream) : Nat := x.f 96 4

/-- Rows and columns of a block in samples. -/
def blkSize (codec : Nat) : Nat := if codec = 2 then 16 else 64
/-- Bytes of a sample. -/
def sampleBytesOf (b : List Byte) : Nat := if recField b 5 1 = 8 then 1 else 2
/-- P of R472. -/
def entPitch (b : List Byte) : Nat := ceilDiv (recField b 8 2 * sampleBytesOf b) 256 * 256
def entRows (b : List Byte) : Nat := ceilDiv (recField b 10 2) 64 * 64
/-- Chroma rows of a number of luma rows. -/
def chromaRows (b : List Byte) (n : Nat) : Nat := if recField b 6 1 = 0 then ceilDiv n 2 else n
/-- E of R472. -/
def entSize (b : List Byte) : Nat :=
  ceilDiv (entPitch b * (entRows b + chromaRows b (entRows b))) 65536 * 65536
def Stream.entVa (x : Stream) (slot : Nat) : Nat := x.f 16 8 + slot * entSize x.block

/-! Tiles, slices and shares of an encode (R467, R485) -/

/-- First block row, or column, of tile `i` of `t` (uniform tiles). -/
def tileRow (rows t i : Nat) : Nat := rows * i / t

/-- A share of a picture's blocks, with the slices that it has: a tile, or under WPP one block row of a tile. -/
structure Share where
  r0 : Nat
  r1 : Nat
  c0 : Nat
  c1 : Nat
  slices : Nat
  deriving DecidableEq, Repr

def Share.blocks (h : Share) : Nat := (h.r1 - h.r0) * (h.c1 - h.c0)
/-- H of R485. -/
def Share.heads (h : Share) : Nat := 256 + 32 * h.slices

def blkRows (b : List Byte) : Nat := ceilDiv (recField b 10 2) (blkSize (recField b 1 1))
def blkCols (b : List Byte) : Nat := ceilDiv (recField b 8 2) (blkSize (recField b 1 1))

/-- The tiles as shares. -/
def tilesOf (b : List Byte) : List Share :=
  let tc := recField b 106 1
  let tr := recField b 107 1
  let sr := recField b 108 2
  ((List.range tr).map fun i => (List.range tc).map fun j =>
    let r0 := tileRow (blkRows b) tr i
    let r1 := tileRow (blkRows b) tr (i + 1)
    { r0 := r0, r1 := r1, c0 := tileRow (blkCols b) tc j, c1 := tileRow (blkCols b) tc (j + 1)
      slices := if sr = 0 then 1 else ceilDiv (r1 - r0) sr }).flatten

/-- The shares of a picture. -/
def sharesOf (b : List Byte) : List Share :=
  if bit (recField b 4 1) 1 then
    ((tilesOf b).map fun h => (iota h.r0 (h.r1 - h.r0)).map fun r => { h with r0 := r, r1 := r + 1, slices := 1 }).flatten
  else tilesOf b

/-- The slices of a picture from the top, as block rows: SLICE_ROWS rows, or a tile's. -/
def bandsOf (b : List Byte) : List (Nat × Nat) :=
  let tr := recField b 107 1
  let sr := recField b 108 2
  ((List.range tr).map fun i =>
    let r0 := tileRow (blkRows b) tr i
    let r1 := tileRow (blkRows b) tr (i + 1)
    let n := if sr = 0 then r1 - r0 else sr
    (List.range (ceilDiv (r1 - r0) (max 1 n))).map fun k => (r0 + k * n, min r1 (r0 + k * n + n))).flatten

/-- The fallback bound a. -/
def fallbackBound (codec : Nat) (intra : Bool) : Nat :=
  if codec = 2 then (if intra then 2 else 1) else if intra then 4 else 2

/-- The floor of R485. -/
def capFloor (b : List Byte) : Nat :=
  ((sharesOf b).map fun h => h.heads + h.blocks * fallbackBound (recField b 1 1) true).foldl (· + ·) 0

/-- The conditions that both kinds of stream block meet. -/
def blockCommonOk (b : List Byte) : Bool :=
  let f := recField b
  decide (f 0 1 ≤ 1) && decide (f 1 1 ≤ 3) && decide (f 2 1 ≤ 2) && decide (1 ≤ f 3 1) && decide (f 3 1 ≤ 24)
    && decide (f 4 1 < 4) && (f 5 1 == 8 || f 5 1 == 10) && decide (f 6 1 ≤ 1)
    && decide (f 7 1 ≤ (if f 1 1 = 0 then 31 else 0)) && decide (16 ≤ f 8 2) && decide (f 8 2 ≤ 8192)
    && decide (16 ≤ f 10 2) && decide (f 10 2 ≤ 4320) && decide (2 ≤ f 12 2) && decide (f 12 2 ≤ 512)
    && decide (1 ≤ f 14 1) && decide (f 14 1 ≤ 9) && f 15 1 == 0 && f 16 8 % 65536 == 0 && f 24 8 % 65536 == 0
    && f 42 6 == 0 && f 128 128 == 0 && decide (f 12 2 * entSize b ≤ f 24 8)

def blockDecOk (b : List Byte) : Bool :=
  let f := recField b
  !bit (f 4 1) 1 && decide (16 ≤ f 40 1) && decide (f 40 1 ≤ 40) && f 41 1 == 0 && f 48 8 == 0 && f 80 48 == 0
    && decide (f 12 2 ≤ 2 ^ f 14 1)

def blockEncOk (b : List Byte) : Bool :=
  let f := recField b
  let qp := if f 1 1 = 0 then 255 else 51
  decide (f 1 1 ≤ 2) && (!bit (f 4 1) 1 || f 1 1 == 1) && f 6 1 == 0 && f 32 8 == 0 && f 40 1 == 0
    && decide (16 ≤ f 41 1) && decide (f 41 1 ≤ 40) && decide (f 80 1 ≤ 2)
    && decide (f 81 1 ≤ qp) && decide (f 82 1 ≤ qp) && decide (f 83 1 ≤ qp) && decide (f 104 1 ≤ 7)
    && decide (1 ≤ f 105 1) && decide (f 105 1 ≤ 7) && decide (1 ≤ f 106 1) && decide (f 106 1 ≤ 16)
    && decide (1 ≤ f 107 1) && decide (f 107 1 ≤ 16) && f 110 2 == 0 && f 120 8 == 0
    && f 12 2 == 2 ^ f 14 1 + f 105 1 + 1 && decide (f 104 1 + 2 ≤ 2 ^ f 14 1)
    && decide (2 * (f 96 4 + 64) ≤ 2 ^ f 41 1) && decide (capFloor b ≤ f 96 4)

def blockOk (b : List Byte) : Bool :=
  blockCommonOk b && if recField b 0 1 = 0 then blockDecOk b else blockEncOk b

/-- Does every page of the entry area translate to a frame-pool frame? -/
def areaInPool (s : State) (c : Nat) (b : List Byte) : Bool :=
  (List.range (recField b 24 8 / 65536)).all fun p =>
    match translate s (dmaAgent c) .read (recField b 16 8 + p * 65536) with
    | .ok (.dev ca) => s.inPool ca
    | _ => false

def freeEntries (s : State) : List Nat := (List.range 512).filter fun e => (s.entry e).isNone
def findStream (s : State) (c sid : Nat) : Option Nat :=
  (s.codec.streams.find? fun e => match e.2 with
    | some x => x.client == c && x.sid == sid
    | none => false).map (·.1)

/-! Records (R474, R486, R487) -/

/-- A picture record of a slot, PIC still 0. -/
def picRecord (x : Stream) (slot w h flags : Nat) : List Byte :=
  leBytes slot 2 ++ leBytes (x.entries.getD slot 0) 2 ++ leBytes 0 4 ++ leBytes (x.entVa slot) 8 ++ leBytes w 2 ++ leBytes h 2
    ++ leBytes (entPitch x.block) 2 ++ leBytes (b2n (x.f 5 1 == 10) + 2 * x.f 6 1) 1 ++ leBytes flags 1
    ++ leBytes (entPitch x.block * entRows x.block) 4 ++ leBytes 0 4

/-- The 64-byte stream status. -/
def streamStatus (x : Stream) (now : Nat) : List Byte :=
  let st := x.failed.getD (0, 0)
  leBytes st.1 2 ++ leBytes st.2 2 ++ leBytes 0 4 ++ leBytes x.coded 8 ++ leBytes x.concealed 8 ++ leBytes x.damaged 8
    ++ leBytes x.poolWaits 8 ++ leBytes x.outWaits 8 ++ leBytes x.budgets 8 ++ leBytes now 8

/-- An access-unit record head. -/
def unitHead (pic : Nat) (unit : List Byte) (flags qp now : Nat) : List Byte :=
  leBytes pic 4 ++ leBytes unit.length 4 ++ leBytes flags 1 ++ leBytes qp 1 ++ leBytes 0 2
    ++ leBytes (if bit flags 5 then crc32c unit else 0) 4 ++ leBytes now 8 ++ leBytes 0 8

/-! Memory work -/

/-- Writes of bytes to consecutive pieces. -/
def putActs : List (Nat × Nat) → List Byte → List CodecAct
  | [], _ => []
  | (va, len) :: t, bs => .write va (bs.take len) :: putActs t (bs.drop len)

def writeActs (va : Nat) (bs : List Byte) : List CodecAct := putActs (granules va bs.length) bs

/-- Pieces of `len` bytes from position `pos` of a ring. -/
def ringPieces (va log2 pos len : Nat) : List (Nat × Nat) :=
  let n := 2 ^ log2
  let a := min len (n - pos % n)
  granules (va + pos % n) a ++ granules va (len - a)

def ringActs (va log2 pos : Nat) (bs : List Byte) : List CodecAct := putActs (ringPieces va log2 pos bs.length) bs
def takeActs (va log2 pos len : Nat) : List CodecAct := (ringPieces va log2 pos len).map fun p => .take p.1 p.2

/-- Offsets in the counter block (R468). -/
def cntInWr : Nat := 0
def cntInRd : Nat := 8
def cntOutWr : Nat := 16
def cntOutRd : Nat := 24
def cntPics : Nat := 32
def cntDone : Nat := 40
def cntRows : Nat := 48
def Stream.cnt (x : Stream) (off : Nat) : Nat := (x.f 56 8 + off) / 8 * 8

/-- A counter as the Lintel slice that serves the stream's wait sees it. -/
inductive Seen where
  | val (n : Nat)
  | fault (cls : Nat)
  | bad (status : Nat)
  deriving DecidableEq, Repr

/-- The agent of a codec core (R367). -/
def codecAgent (core client : Nat) : Agent := { client := client, objs := none, mortar := false, engine := .codec core }

/-- DESIGN CHOICE: a stream's Lintel waits, and what the complex writes for a stream without a core, translate through
core 0. -/
def peek (s : State) (x : Stream) (off : Nat) : Seen :=
  match translate s (codecAgent 0 x.client) .waitOp (x.cnt off) with
  | .fault c => .fault c
  | .ok (.dev ca) =>
    let r := devRead s ca 8
    if r.2.1 = 0 then .val (leNat r.2.2) else .bad r.2.1
  | .ok _ => .fault 9

def Seen.getD : Seen → Nat → Nat
  | .val n, _ => n
  | _, d => d

/-! Elementary streams (R463). PRESUMED: the byte forms of AV1 section 5 and of the Annexes B. -/

/-- Insert emulation prevention: a byte of 3 behind two zeros where a byte of 0 to 3, or the unit's end, would follow. -/
def preventGo : Nat → List Byte → List Byte
  | z, [] => if z = 2 then [3] else []
  | z, b :: t =>
    if z = 2 ∧ b.toNat ≤ 3 then 3 :: b :: preventGo (if b = 0 then 1 else 0) t
    else b :: preventGo (if b = 0 then min 2 (z + 1) else 0) t

/-- LEB128 of a number, of at most `n` further bytes. -/
def leb128 : Nat → Nat → List Byte
  | 0, v => [BitVec.ofNat 8 (v % 128)]
  | n + 1, v => if v < 128 then [BitVec.ofNat 8 v] else BitVec.ofNat 8 (128 + v % 128) :: leb128 n (v / 128)

/-- The value at the front of a list, of at most `n` bytes, and its length; none where it does not end. -/
def readLeb : Nat → List Byte → Option (Nat × Nat)
  | _, [] => none
  | 0, _ => none
  | n + 1, b :: t =>
    if b.toNat < 128 then some (b.toNat, 1) else (readLeb n t).map fun r => (b.toNat % 128 + 128 * r.1, r.2 + 1)

/-- Header bytes of an OBU: an extension byte follows where bit 2 of the first is set. -/
def obuHead (b : Byte) : Nat := if bit b.toNat 2 then 2 else 1

/-- One unit as a stream carries it: an OBU with its size field (bit 1 of the header), or a start code and a NAL unit. -/
def frameUnit (codec : Nat) (u : List Byte) : List Byte :=
  if codec = 0 then
    match u with
    | [] => []
    | b :: _ => (b ||| 2) :: (u.drop 1).take (obuHead b - 1) ++ leb128 7 (u.drop (obuHead b)).length ++ u.drop (obuHead b)
  else [0, 0, 0, 1] ++ preventGo 0 u

/-- Length of the OBU at the front of a list, once its end is there: one whose size field is absent, or cannot be read, reaches to
the end of the input. -/
def obuEnd (bs : List Byte) : Option Nat :=
  match bs with
  | [] => none
  | b :: _ =>
    let h := obuHead b
    match if bit b.toNat 1 then readLeb 8 (bs.drop h) else none with
    | some (v, n) => if h + n + v ≤ bs.length then some (h + n + v) else none
    | none => none

/-- A start code stands at the front. -/
def startCode (bs : List Byte) : Bool := bs.take 3 == [0, 0, 1] || bs.take 4 == [0, 0, 0, 1]

/-- The first position from `k` on, within `n`, at which a start code stands. -/
def startFrom (bs : List Byte) : Nat → Nat → Option Nat
  | 0, _ => none
  | n + 1, k => if startCode (bs.drop k) then some k else startFrom bs n (k + 1)

/-- Length of the NAL unit at the front, once the next start code is there; bytes in front of one are a unit that is skipped. -/
def nalEnd (bs : List Byte) : Option Nat :=
  startFrom bs bs.length (if bs.take 4 == [0, 0, 0, 1] then 4 else if bs.take 3 == [0, 0, 1] then 3 else 1)

/-- Length of the next unit of a stream, once its end is there (R463, R480). -/
def unitEnd (codec : Nat) (bs : List Byte) : Option Nat := if codec = 0 then obuEnd bs else nalEnd bs

/-- IN_WR cuts the unit in its middle, as its size field shows (R486); of a NAL unit the decoding process shows it. -/
def unitCut (codec : Nat) (u : List Byte) : Bool :=
  decide (codec = 0) && (obuEnd u).isNone && match u with
    | b :: _ => bit b.toNat 1
    | [] => false

/-! Places of samples in an entry (R472) -/

/-- A rectangle within a picture. -/
def clipRect (w h : Nat) (r : Rect) : Rect := ⟨r.x, r.y, min r.w (w - r.x), min r.h (h - r.y)⟩
def rectArea (r : Rect) : Nat := r.w * r.h
/-- The rectangle holds the sample. -/
def rectHolds (r : Rect) (x y : Nat) : Bool := decide (r.x ≤ x) && decide (x < r.x + r.w) && decide (r.y ≤ y) && decide (y < r.y + r.h)

/-- Luma rows that have a chroma row with them. -/
def chromaOf (b : List Byte) (y : Nat) : Option Nat :=
  if recField b 6 1 = 0 then (if y % 2 = 0 then some (y / 2) else none) else some y

/-- Place of a row of luma samples, or of Cb and Cr pairs, from column `x` on. -/
def lumaAt (b : List Byte) (x y : Nat) : Nat := y * entPitch b + x * sampleBytesOf b
def chromaAt (b : List Byte) (x y : Nat) : Nat := entPitch b * entRows b + y * entPitch b + x / 2 * 2 * sampleBytesOf b

/-- Pieces of an entry, offset and bytes, that hold a rectangle's samples. -/
def rectPieces (b : List Byte) (r : Rect) : List (Nat × Nat) :=
  let n := sampleBytesOf b
  let ys := iota r.y r.h
  (ys.map fun y => (lumaAt b r.x y, r.w * n)) ++
    ys.filterMap fun y => (chromaOf b y).map fun z => (chromaAt b r.x z, (ceilDiv (r.x + r.w) 2 - r.x / 2) * 2 * n)

/-- A sample as an entry holds it. -/
def sampleCode (b : List Byte) (v : Nat) : List Byte := leBytes (v % 2 ^ recField b 5 1) (sampleBytesOf b)

/-- The rows of a rectangle with their bytes, by the samples of a plane at a place. -/
def rectRows (b : List Byte) (r : Rect) (f : Nat → Nat → Nat → Nat) : List (Nat × List Byte) :=
  let ys := iota r.y r.h
  (ys.map fun y => (lumaAt b r.x y, ((iota r.x r.w).map fun x => sampleCode b (f 0 x y)).flatten)) ++
    ys.filterMap fun y => (chromaOf b y).map fun z =>
      (chromaAt b r.x z, ((iota (r.x / 2) (ceilDiv (r.x + r.w) 2 - r.x / 2)).map fun x =>
        sampleCode b (f 1 x z) ++ sampleCode b (f 2 x z)).flatten)

/-- Pieces of an entry that are padding around a picture of `w` by `h` samples. -/
def padPieces (b : List Byte) (w h : Nat) : List (Nat × Nat) :=
  let p := entPitch b
  let n := sampleBytesOf b
  let rows (base used all len : Nat) : List (Nat × Nat) :=
    (iota 0 all).map fun y => if y < used then (base + y * p + len, p - len) else (base + y * p, p)
  rows 0 h (entRows b) (w * n) ++
    rows (p * entRows b) (chromaRows b h) (chromaRows b (entRows b)) (ceilDiv w 2 * 2 * n)

/-- Mid-grey (R482). -/
def midGrey (b : List Byte) : Nat := 2 ^ (recField b 5 1 - 1)

/-- Writes of rows into an entry. -/
def rowActs (x : Stream) (slot : Nat) (rows : List (Nat × List Byte)) : List CodecAct :=
  (rows.map fun e => writeActs (x.entVa slot + e.1) e.2).flatten

/-- Reads of pieces of an entry. -/
def loadActs (x : Stream) (slot : Nat) (ps : List (Nat × Nat)) : List CodecAct :=
  (ps.map fun e => (granules (x.entVa slot + e.1) e.2).map fun g => .load g.1 g.2).flatten

/-- Does a piece of an entry overlap a place where a core has read bad data? -/
def hurtIn (x : Stream) (slot : Nat) (ps hurt : List (Nat × Nat)) : Bool :=
  ps.any fun e => hurt.any fun h =>
    decide (x.entVa slot + e.1 < h.1 + h.2) && decide (h.1 < x.entVa slot + e.1 + e.2)

/-! Entries (R473) -/

/-- The cores that hold a stream, and those at work on its slice. -/
def coresOf (s : State) (k : Nat) : List Nat := (List.range 24).filter fun c => (s.core c).ctx == some k
def workersOf (s : State) (k : Nat) : List Nat := (coresOf s k).filter fun c => (s.core c).busy || !(s.core c).acts.isEmpty

/-- Does the picture in work read or write an entry? An encode reads its input and the pictures that it keeps for reference. -/
def usesEntry (x : Stream) (e : PoolEntry) : Bool :=
  match x.cur with
  | none => false
  | some p => p.slot == e.slot || p.refs.contains (some e.slot) || p.sub == some (some e.slot) ||
      (x.isEnc && (e.slot == p.n % x.list || (decide (x.list ≤ e.slot) && e.mark != 0)))

/-- The substitute of the picture in work (R482). -/
def isSub (x : Stream) (e : PoolEntry) : Bool := (x.cur.map (·.sub)) == some (some (some e.slot))

/-- The reference count: a mark, each core that reads or writes the entry, a substitute while its picture reads it, an encode
hold. -/
def refCount (s : State) (e : PoolEntry) : Nat :=
  let n := match s.strm e.ctx with
    | some x => max (if usesEntry x e then (workersOf s e.ctx).length else 0) (b2n (isSub x e))
    | none => 0
  b2n (decide (e.mark ≠ 0)) + n + b2n e.hold

/-- On the free list of its stream: no count, not output-pending, nothing of it still to output, and not the picture in work. -/
def poolFree (s : State) (x : Stream) (e : PoolEntry) : Bool :=
  refCount s e == 0 && !e.pending && e.key.isNone && !x.toShow.contains e.slot && (x.cur.map (·.slot)) != some e.slot

/-- Lowest free slot that may take a decoded or reconstructed picture. -/
def freeEntry (s : State) (x : Stream) : Option Nat :=
  (List.range x.quota).find? fun k => (!x.isEnc || decide (x.list ≤ k)) &&
    match s.entry (x.entries.getD k 512) with
    | some e => poolFree s x e
    | none => false

/-- The entries of a stream in slot order. -/
def strmEntries (s : State) (x : Stream) : List PoolEntry := x.entries.filterMap s.entry

/-! Ending a stream (R487) -/

/-- A core leaves its stream, and gates; a fault that it waits on is discarded. -/
def freeCore (c : Nat) (s : State) : State :=
  let q := s.core c
  let s1 := match q.ctx.bind s.strm, q.fault with
    | some x, some id => s.setClient x.client fun y => { y with waiting := y.waiting.filter fun f => f.id != id }
    | _, _ => s
  s1.setCore c fun q => { q with ctx := none, busy := false, acts := [], got := [], hurt := [], fault := none, awake := false }

/-- Complete the outstanding FLUSH of a stream. -/
def endFlush (k status : Nat) (s : State) : State :=
  match s.strm k with
  | none => s
  | some x =>
    match x.flush with
    | none => s
    | some (q, d) =>
      let s1 := s.setStrm k fun x => { x with flush := none, total := none }
      match findDesc s1 x.client q d with
      | some e => completeDesc x.client q e status s1
      | none => s1

/-- Write bytes for a stream outside any core; what does not translate is lost. -/
def tryWrite (c va : Nat) (bs : List Byte) (s : State) : State :=
  match (writeRange s (codecAgent 0 c) .write va bs).2 with
  | .ok _ s' => s'
  | .fault _ s' => s'
  | .bad _ s' => s'

/-- A stream fails: its cores leave it, the status block says why, an outstanding FLUSH completes so, and the entries
stay held until CLOSE. -/
def failStream (k status cause : Nat) (s : State) : State :=
  match s.strm k with
  | none => s
  | some x =>
    let s1 := (coresOf s k).foldl (fun s c => freeCore c s) s
    let y : Stream := { x with failed := some (status, cause), cur := none, unit := none, joined := 0, pixels := 0, order := 0, wait := none }
    endFlush k status (tryWrite x.client (x.f 72 8) (streamStatus y s.now) (s1.setStrm k fun _ => y))

/-- The stream's context and entries go; an outstanding FLUSH ends with 0x0608. -/
def dropStream (k : Nat) (s : State) : State :=
  match s.strm k with
  | none => s
  | some x =>
    let s1 := endFlush k 0x0608 ((coresOf s k).foldl (fun s c => freeCore c s) s)
    { s1 with codec := { s1.codec with
        streams := SMap.set none s1.codec.streams k none
        entries := x.entries.foldl (fun m e => SMap.set none m e none) s1.codec.entries } }

/-! Readiness (R474–R478, R486, R487) -/

/-- What a stream wants a core for. -/
inductive Want where
  | nothing
  /-- a counter that has not come far enough -/
  | wait (off : Nat)
  | work
  /-- a counter whose read fails -/
  | fault (off cls : Nat)
  | bad (status : Nat)
  deriving DecidableEq, Repr

/-- Is there something for a core to do? -/
def Want.ready : Want → Bool
  | .nothing => false
  | .wait _ => false
  | _ => true

/-- Read a counter, then decide. -/
def look (s : State) (x : Stream) (off : Nat) (f : Nat → Want) : Want :=
  match peek s x off with
  | .val n => f n
  | .fault c => .fault off c
  | .bad st => .bad st

/-- Work, or a wait for a counter. -/
def workIf (b : Bool) (off : Nat) : Want := if b then .work else .wait off

/-- The k-th picture in coding order: an anchor every BFRAMES + 1 pictures, then the pictures before it; a known total
ends the last group. -/
def codingOrder (bframes : Nat) (total : Option Nat) (k : Nat) : Nat :=
  if k = 0 then 0
  else
    let g := (k - 1) / (bframes + 1) * (bframes + 1)
    let j := (k - 1) % (bframes + 1)
    if 0 < j then g + j
    else match total with
      | some n => if n ≤ g + bframes + 1 then n - 1 else g + bframes + 1
      | none => g + bframes + 1

/-- Luma rows from the top to the end of slice `i` of an encode. -/
def bandEnd (x : Stream) (i : Nat) : Nat :=
  min (((bandsOf x.block)[i]?.map fun e => e.2 * blkSize (x.f 1 1)).getD (x.f 10 2)) (x.f 10 2)

/-- Free bytes of the output ring, given OUT_RD. -/
def ringRoom (x : Stream) (outRd : Nat) : Nat := 2 ^ x.f 41 1 - (x.outWr - outRd)

/-- May the encoder read rows up to `r` of picture `n`? -/
def inputReady (s : State) (x : Stream) (n r : Nat) (go : Want) : Want :=
  look s x cntPics fun p =>
    if n < p then go
    else if x.subframe then look s x cntRows fun w => if n * 65536 + r ≤ w then go else .wait cntRows
    else .wait cntPics

/-- Slots of a stream that are decoded and not output, in output order, without those that only wait for DONE. -/
def waitingSlots (s : State) (x : Stream) : List Nat :=
  let es := (strmEntries s x).filterMap fun e => if x.toShow.contains e.slot then none else e.key.map fun q => (q, e.slot)
  (es.mergeSort fun a b => decide (a.1 ≤ b.1)).map (·.2)

/-- A stream whose FLUSH has every byte decoded, or every picture coded, and no slice in work. -/
def Stream.ending (x : Stream) : Bool :=
  x.flush.isSome && x.cur.isNone && x.unit.isNone && match x.total with
    | some n => if x.isEnc then decide (n ≤ x.coded) else decide (n ≤ x.inRd)
    | none => false

/-- An encode stream's wants. -/
def wantEnc (s : State) (x : Stream) : Want :=
  match x.cur with
  | some p => inputReady s x p.n (bandEnd x p.band) .work
  | none =>
    if x.ending then look s x cntOutRd fun rd => workIf (decide (32 ≤ ringRoom x rd)) cntOutRd
    else
      inputReady s x (codingOrder (x.f 104 1) x.total x.coded) (bandEnd x 0)
        (look s x cntOutRd fun rd => if decide (x.hardCap + 64 ≤ ringRoom x rd) then (if (freeEntry s x).isSome then .work else .nothing)
          else .wait cntOutRd)

/-- A decode stream's wants of its input. -/
def wantInput (s : State) (x : Stream) : Want :=
  look s x cntInWr fun w =>
    if x.inRd < w then (if x.cur.isSome || (freeEntry s x).isSome then .work else .wait cntDone)
    else workIf (x.cur.isSome && x.flush.isSome) cntInWr

/-- A decode stream's wants: output that DONE allows, then its input. -/
def wantDec (s : State) (x : Stream) : Want :=
  let show_ := x.toShow ++ if x.ending then waitingSlots s x else []
  if show_.isEmpty ∧ !((strmEntries s x).any (·.pending)) then (if x.ending then .work else wantInput s x)
  else look s x cntDone fun d =>
    if !show_.isEmpty ∧ x.shown < d + x.list then .work
    else if x.ending then workIf show_.isEmpty cntDone else wantInput s x

def want (s : State) (x : Stream) : Want :=
  if x.failed.isSome ∨ x.unit.isSome then .nothing else if x.isEnc then wantEnc s x else wantDec s x

/-! What follows a change of a counter -/

/-- Marks and holds that DONE and PICS settle: a decode's output-pending marks below DONE clear; an encode's input
entry is held from the writing of its picture until DONE releases it. -/
def settleMarks (s : State) (x : Stream) : State :=
  if x.isEnc then
    let pics := (peek s x cntPics).getD 0
    (List.range x.list).foldl (fun s k => s.setEntry (x.entries.getD k 512) fun e =>
      if e.hold then (if e.pic < x.done then { e with hold := false } else e)
      else if e.pic + x.list < pics then { e with hold := true, pic := e.pic + x.list } else e) s
  else
    let done := (peek s x cntDone).getD 0
    x.entries.foldl (fun s e => s.setEntry e fun e => if e.pending ∧ e.pic < done then { e with pending := false } else e) s

/-- A FLUSH of a decode reaches as far as IN_WR does when it can be read. -/
def settleTotal (s : State) (x : Stream) : Stream :=
  if x.flush.isNone ∨ x.total.isSome then x
  else match peek s x cntInWr with
    | .val w => { x with total := some w }
    | _ => x

/-- A wait for an entry or for ring room begins: it counts once. -/
def countWaits (s : State) (x : Stream) : Stream :=
  if x.failed.isSome ∨ x.cur.isSome ∨ x.unit.isSome ∨ x.ending then x
  else if x.isEnc then
    let n := codingOrder (x.f 104 1) x.total x.coded
    match inputReady s x n (bandEnd x 0) .work, peek s x cntOutRd with
    | .work, .val rd =>
      if x.hardCap + 64 ≤ ringRoom x rd then { x with starved := false }
      else if x.starved then x else { x with starved := true, outWaits := x.outWaits + 1 }
    | _, _ => x
  else match peek s x cntInWr with
    | .val w =>
      if w ≤ x.inRd then x
      else if (freeEntry s x).isSome then { x with starved := false }
      else if x.starved then x else { x with starved := true, poolWaits := x.poolWaits + 1 }
    | _ => x

/-- Canonical address of the counter that a stream waits for. -/
def waitAddr (s : State) (x : Stream) : Option Nat :=
  match want s x with
  | .wait off => match translate s (codecAgent 0 x.client) .waitOp (x.cnt off) with
    | .ok (.dev ca) => some ca
    | _ => none
  | _ => none

/-- The Lintel slice of the counter that a stream waits for holds its wait, as it holds a sett's; a full table returns it,
counted (R354, R468). -/
def settleWait (k : Nat) (s : State) : State :=
  match s.strm k with
  | none => s
  | some x =>
    match waitAddr s x with
    | none => if x.wait.isNone then s else s.setStrm k fun x => { x with wait := none }
    | some ca =>
      if x.wait = some ca then s
      else if 1024 ≤ sliceWaits s ca then
        (s.setStrm k fun x => { x with wait := none }).setDie (homeDie ca) fun d => { d with lWaitOvfCnt := satAdd d.lWaitOvfCnt 1 }
      else s.setStrm k fun x => { x with wait := some ca }

/-- Settle one stream: marks, waits, and its turn among the ready. -/
def settleStream (s : State) (k : Nat) : State :=
  match s.strm k with
  | none => s
  | some x =>
    let s1 := settleMarks s x
    let y := countWaits s1 (settleTotal s1 x)
    let ready := (want s1 y).ready && (coresOf s1 k).isEmpty
    let s2 := s1.setStrm k fun _ =>
      { y with order := if !ready then 0 else if y.order = 0 then s1.codec.nextOrder + 1 else y.order }
    settleWait k
      (if ready ∧ y.order = 0 then { s2 with codec := { s2.codec with nextOrder := s2.codec.nextOrder + 1 } } else s2)

def settleCodec (s : State) : State := (s.codec.streams.map (·.1)).foldl settleStream s

/-! Headers (R460, R470) -/

/-- The profiles of the table, with the bits and samplings that each decodes. -/
def profileDecodes (codec : Nat) : Profile → Nat → Sampling → Bool
  | .av1Main, d, c => codec == 0 && (d == 8 || d == 10) && (c == .s420 || c == .mono)
  | .av1Professional, d, c => codec == 0 && (d == 8 || d == 10) && c == .s422
  | .hevcMain, d, c => codec == 1 && d == 8 && c == .s420
  | .hevcMainStill, d, c => codec == 1 && d == 8 && c == .s420
  | .hevcMain10, d, c => codec == 1 && (d == 8 || d == 10) && c == .s420
  | .hevcMain422x10, d, c => codec == 1 && (d == 8 || d == 10) && (c == .s420 || c == .s422)
  | .avcConstrainedBaseline, d, c => codec == 2 && d == 8 && c == .s420
  | .avcMain, d, c => codec == 2 && d == 8 && c == .s420
  | .avcProgressiveHigh, d, c => codec == 2 && d == 8 && c == .s420
  | .avcHigh, d, c => codec == 2 && d == 8 && c == .s420
  | .avcHigh10, d, c => codec == 2 && (d == 8 || d == 10) && c == .s420
  | .avcHigh422, d, c => codec == 2 && (d == 8 || d == 10) && (c == .s420 || c == .s422)
  | .vvcMain10, d, c => codec == 3 && (d == 8 || d == 10) && c == .s420
  | .vvcMain10Still, d, c => codec == 3 && (d == 8 || d == 10) && c == .s420
  | .vvcMain10x444, d, c => codec == 3 && (d == 8 || d == 10) && (c == .s420 || c == .s422)
  | .other, _, _ => false

/-- Ten times the highest level of a standard. -/
def topLevel (codec : Nat) : Nat := if codec = 0 then 63 else 62

/-- A sequence header within R460, with the bits and sampling of the stream block. -/
def headerOk (x : Stream) (h : SeqHeader) : Bool :=
  profileDecodes (x.f 1 1) h.profile h.depth h.sampling && decide (h.level ≤ topLevel (x.f 1 1)) && !h.excluded && h.depth == x.f 5 1 &&
    (if h.sampling = .s422 then x.f 6 1 == 1 else x.f 6 1 == 0)

/-- MaxDpbMbs by ten times the level (PRESUMED: ITU-T H.264, table A-1). -/
def maxDpbMbs (level : Nat) : Nat :=
  if level < 11 then 396 else if level < 12 then 900 else if level < 21 then 2376 else if level < 22 then 4752
  else if level < 31 then 8100 else if level < 32 then 18000 else if level < 40 then 20480 else if level < 42 then 32768
  else if level < 50 then 34816 else if level < 51 then 110400 else if level < 60 then 184320 else 696320

/-- Size of the decoded picture buffer that a sequence header declares (R470). -/
def dpbSize (x : Stream) (h : SeqHeader) : Nat :=
  if x.f 1 1 = 0 then 9
  else if x.f 1 1 = 2 then match h.maxFrames with
    | some n => n + 1
    | none => min 16 (maxDpbMbs h.level / max 1 (ceilDiv h.width 16 * ceilDiv h.height 16))
  else h.maxDec + 1

/-- The status with which a unit's headers fail the stream: outside R460 or larger than the stream block, or a buffer beyond
QUOTA − 1. -/
def headerStatus (x : Stream) (i : UnitInfo) : Option Nat :=
  match i.seq with
  | some h =>
    if !headerOk x h then some 0x0602
    else if x.quota - 1 < dpbSize x h then some 0x0606
    else picStatus i.pic
  | none => picStatus i.pic
where
  picStatus (p : Option PicHeader) : Option Nat :=
    match p with
    | some p => if p.excluded ∨ x.f 8 2 < p.width ∨ x.f 10 2 < p.height then some 0x0602 else none
    | none => none

/-! Pictures of a decode (R474, R480, R482) -/

/-- The slot of a decoded picture, by its number, while it stands. -/
def slotOf (x : Stream) (n : Nat) : Option Nat := (x.recent.find? fun e => e.n == n).map (·.slot)

/-- The substitute of a reference that has not been received: the latest decoded picture of the layer that still stands, or
none for mid-grey (R482). -/
def substitute (x : Stream) (layer : Nat) : Option Nat := (x.recent.find? fun e => e.layer == layer).map (·.slot)

/-- The picture with its substitute chosen, where it needs one: CONCEALED, and GREY for the grey case. -/
def takeSub (x : Stream) (needs : Bool) (p : CurPic) : CurPic :=
  if needs && p.sub.isNone then
    let k := substitute x p.head.layer
    { p with sub := some k, flags := p.flags ||| (if k.isNone then 0x11#8 else 0x01#8) }
  else p

/-- The slot from which blocks are concealed: the picture's first reference, else its substitute. -/
def concealSlot (p : CurPic) : Option Nat :=
  match p.refs with
  | some k :: _ => some k
  | _ => p.sub.join

/-- Conceal a rectangle of a picture. -/
def concealActs (x : Stream) (p : CurPic) (r : Rect) : List CodecAct :=
  let q := clipRect p.head.width p.head.height r
  match concealSlot p with
  | some k => ((rectPieces x.block q).map fun e =>
      (granules (x.entVa p.slot + e.1) e.2).map fun g => .copy (x.entVa k + (g.1 - x.entVa p.slot)) g.1 g.2).flatten
  | none => rowActs x p.slot (rectRows x.block q fun _ _ _ => midGrey x.block)

/-- Conceal rectangles: the picture, with a substitute where it has no reference, and the writes. -/
def conceal (x : Stream) (p : CurPic) (rs : List Rect) : CurPic × List CodecAct :=
  let q := takeSub x (!rs.isEmpty && (match p.refs with
    | some _ :: _ => false
    | _ => true)) p
  ({ q with done := q.done ++ rs }, (rs.map (concealActs x q)).flatten)

/-- Blocks of a picture of which nothing stands. -/
def restBlocks (x : Stream) (p : CurPic) : List Rect :=
  let k := blkSize (x.f 1 1)
  (((List.range (ceilDiv p.head.height k)).map fun r => (List.range (ceilDiv p.head.width k)).map fun c =>
    (⟨c * k, r * k, k, k⟩ : Rect)).flatten).filter fun b => !p.done.any fun d => rectHolds d b.x b.y

/-- Padding of a decoded picture, whose bytes mean nothing. -/
def padActs (x : Stream) (p : CurPic) (s : State) : State × List CodecAct :=
  (padPieces x.block p.head.width p.head.height).foldl (fun a e =>
    ({ a.1 with fresh := a.1.fresh + e.2 }, a.2 ++ writeActs (x.entVa p.slot + e.1) ((iota a.1.fresh e.2).map Config.freeByte))) (s, [])

/-- Output of a picture that stands in `slot`: its record, then PICS (R474). -/
def publish (k slot : Nat) (r : State × List CodecAct) : State × List CodecAct :=
  let (s, acts) := r
  match s.strm k with
  | none => r
  | some x =>
    let e := x.entries.getD slot 512
    let n := x.shown
    let bytes := patch (((s.entry e).map (·.record)).getD []) 4 (leBytes n 4)
    ((s.setEntry e fun e => { e with pending := true, key := none, pic := n }).setStrm k fun x => { x with shown := n + 1 },
     acts ++ writeActs (x.f 64 8 + 32 * (n % x.list)) bytes ++ [.add (x.cnt cntPics) 1])

/-- Output what waits, in order, as long as the record of 2^LOG2P pictures before has been released (R474). -/
def showGo (k limit : Nat) : Nat → State × List CodecAct → State × List CodecAct
  | 0, r => r
  | n + 1, r =>
    match r.1.strm k with
    | none => r
    | some x => match x.toShow with
      | [] => r
      | slot :: rest =>
        if limit ≤ x.shown then r
        else showGo k limit n (publish k slot (r.1.setStrm k fun x => { x with toShow := rest }, r.2))

/-- Output what DONE allows of the pictures that wait. -/
def showReady (k : Nat) (r : State × List CodecAct) : State × List CodecAct :=
  match r.1.strm k with
  | none => r
  | some x => match peek r.1 x cntDone with
    | .val d => showGo k (d + x.list) x.toShow.length r
    | _ => r

/-- More pictures wait to be output: those that a decoded picture or unit shows, by number. -/
def queueShows (k : Nat) (x : Stream) (ns : List Nat) (s : State) : State :=
  s.setStrm k fun y => { y with toShow := y.toShow ++ ns.filterMap (slotOf x) }

/-- A decoded picture ends: the blocks that nothing brought are concealed; then its padding, marks, counts, record, the status block
and the outputs that it causes. -/
def endDecoded (k : Nat) (p0 : CurPic) (s : State) : State × List CodecAct :=
  match s.strm k with
  | none => (s, [])
  | some x0 =>
    let rest := restBlocks x0 p0
    let c := conceal x0 { p0 with flags := p0.flags ||| (if rest.isEmpty then 0#8 else if bit p0.flags.toNat 3 then 1#8 else 3#8) } rest
    let p := c.1
    let pad := padActs x0 p s
    let con := bit p.flags.toNat 0
    let x : Stream := { x0 with
      cur := none, coded := x0.coded + 1, concealed := x0.concealed + b2n con, damaged := x0.damaged + b2n (bit p.flags.toNat 1)
      recent := ⟨p.head.layer, p.slot, p.n⟩ :: x0.recent.filter fun e => e.slot != p.slot }
    let s1 := (pad.1.setEntry (x.entries.getD p.slot 512) fun e =>
      { e with key := p.head.order, record := picRecord x p.slot p.head.width p.head.height p.flags.toNat }).setStrm k fun _ => x
    let s2 := p.head.marks.foldl (fun s m => match slotOf x m.1 with
      | some j => s.setEntry (x.entries.getD j 512) fun e => { e with mark := min m.2 2 }
      | none => s) s1
    let s3 := queueShows k x p.head.shows { s2 with codec := { s2.codec with concealCnt := satAdd s2.codec.concealCnt (b2n con) } }
    showReady k (s3, c.2 ++ pad.2 ++ writeActs (x.f 72 8) (streamStatus x s.now))

/-- A picture begins in a free entry: its references, and the substitute of one that has not been received. -/
def beginDecoded (k slot : Nat) (h : PicHeader) (s : State) : State :=
  match s.strm k with
  | none => s
  | some x =>
    let refs := h.refs.map fun n => n.bind (slotOf x)
    let flags : BitVec 8 := (if h.key then 4#8 else 0#8) ||| (if h.grain then 0x20#8 else 0#8)
    let p : CurPic := { slot := slot, n := x.coded, flags := flags, head := h, refs := refs, done := [], sub := none, band := 0
                        unit := [], qpMax := 0, spent := [], fill := false }
    (s.setEntry (x.entries.getD slot 512) fun e => { e with mark := 0 }).setStrm k fun x =>
      { x with cur := some (takeSub x (refs.contains none) p), recent := x.recent.filter fun e => e.slot != slot }

/-! Doing the work -/

/-- How a piece of memory work ended. -/
inductive Did where
  | ok (s : State)
  | fault (va cls : Nat) (kind : AccKind) (s : State)
  | bad (status : Nat) (s : State)

/-- Change a counter atomically. -/
def bumpCounter (ag : Agent) (va : Nat) (f : Nat → Nat) (s : State) : Did :=
  match readGranule s ag .atomic va 8 with
  | .fault c s1 => .fault va c .atomic s1
  | .bad st s1 => .bad st s1
  | .ok bs s1 => match writeGranule s1 ag .atomic va (leBytes (f (leNat bs)) 8) with
    | .fault c s2 => .fault va c .atomic s2
    | .bad st s2 => .bad st s2
    | .ok _ s2 => .ok s2

/-- The status of a read that finds its memory bad. -/
def Acc.did (va : Nat) (kind : AccKind) (ok : List Byte → State → Did) : Acc → Did
  | .fault c s => .fault va c kind s
  | .bad st s => .bad st s
  | .ok bs s => ok bs s

/-- Add work behind what a core still has to do. -/
def pushActs (c : Nat) (acts : List CodecAct) (s : State) : State := s.setCore c fun q => { q with acts := q.acts ++ acts }

/-- Bytes that a core has read, which are bad or not. -/
def gotBytes (c : Nat) (bs : List Byte) (hurt : List (Nat × Nat)) (s : State) : State :=
  s.setCore c fun q => { q with got := q.got ++ bs, hurt := q.hurt ++ hurt }

/-- What the decoding process makes of the slice in work. -/
def infoOf (x : Stream) (u : List Byte) : UnitInfo := Config.decodeUnit x.block x.fed u

/-- The references that a unit reads, in the order of its reads. -/
def refLoads (x : Stream) (p : CurPic) (i : UnitInfo) : List CodecAct :=
  (i.reads.map fun r => match (p.refs.getD r.ref none).orElse fun _ => p.sub.join with
    | some k => loadActs x k (rectPieces x.block (clipRect (x.f 8 2) (x.f 10 2) r.src))
    | none => []).flatten

/-- The core's unit enters work: a picture that it begins takes an entry, and its references are read. -/
def enterUnit (c k : Nat) (u : List Byte) (i : UnitInfo) (s : State) : State :=
  let s1 := match i.pic, (s.strm k).bind (freeEntry s) with
    | some h, some slot => (beginDecoded k slot h s).setCore c fun q => { q with worked := 0 }
    | _, _ => s
  match s1.strm k with
  | none => s1
  | some x =>
    let s2 := s1.setStrm k fun x => { x with unit := some u, joined := 1, pixels := 0, cutAt := none, seq := i.seq.orElse fun _ => x.seq }
    pushActs c (match x.cur with
      | some p => refLoads x p i
      | none => []) (s2.setCore c fun q => { q with busy := true, got := [], hurt := [] })

/-- The next unit has been read from the ring: a picture before it that has not ended ends; a header outside R460 or beyond QUOTA
fails the stream; a picture that finds no free entry waits at its boundary, and else IN_RD passes the unit (R460, R470, R474,
R486). -/
def parseUnit (c k : Nat) (s : State) : Did :=
  match s.strm k with
  | none => .ok s
  | some x =>
    let got := (s.core c).got
    let u := match unitEnd (x.f 1 1) got with
      | some n => got.take n
      | none => got
    let i := infoOf x u
    let ended := match i.pic, x.cur with
      | some _, some p => endDecoded k p s
      | _, _ => (s, [])
    match ended.1.strm k with
    | none => .ok ended.1
    | some y =>
      if i.pic.isSome && headerStatus y i = none && (freeEntry ended.1 y).isNone then .ok (pushActs c ended.2 ended.1)
      else match bumpCounter (codecAgent c x.client) (x.cnt cntInRd) (fun v => (v + u.length) % 2 ^ 64) ended.1 with
        | .ok s1 =>
          let s2 := s1.setStrm k fun x => { x with inRd := x.inRd + u.length }
          match headerStatus y i with
          | some st => .ok (failStream k st 0 s2)
          | none => .ok (enterUnit c k u i (pushActs c ended.2 s2))
        | .fault va cls kind s1 => .fault va cls kind (if ended.2.isEmpty then s1 else s)
        | .bad st s1 => .bad st s1

/-- One piece of memory work. Bad data of an entry is noted, and are free values. -/
def doAct (c k client : Nat) (a : CodecAct) (s : State) : Did :=
  let ag := codecAgent c client
  match a with
  | .take va len => (readGranule s ag .read va len).did va .read fun bs s1 => .ok (gotBytes c bs [] s1)
  | .parse => parseUnit c k s
  | .load va len =>
    match readGranule s ag .read va len with
    | .bad _ s1 => .ok (gotBytes c ((iota s1.fresh len).map Config.freeByte) [(va, len)] { s1 with fresh := s1.fresh + len })
    | r => r.did va .read fun bs s1 => .ok (gotBytes c bs [] s1)
  | .write va bs => (writeGranule s ag .write va bs).did va .write fun _ s1 => .ok s1
  | .copy src dst len =>
    let put (bs : List Byte) (s : State) : Did := (writeGranule s ag .write dst bs).did dst .write fun _ s1 => .ok s1
    match readGranule s ag .read src len with
    | .bad _ s1 => put ((iota s1.fresh len).map Config.freeByte) { s1 with fresh := s1.fresh + len }
    | r => r.did src .read put
  | .add va n => bumpCounter ag va (fun v => (v + n) % 2 ^ 64) s
  | .raise va n => bumpCounter ag va (fun v => max v n) s
  | .flushed st => .ok (endFlush k st s)

/-- The addresses that a piece of work reaches. -/
def CodecAct.places : CodecAct → List Nat
  | .take va _ => [va]
  | .load va _ => [va]
  | .write va _ => [va]
  | .copy src dst _ => [src, dst]
  | .add va _ => [va]
  | .raise va _ => [va]
  | .parse => []
  | .flushed _ => []

/-- The work waits while a retraining holds the stack or package that it reaches (R542). -/
def stackWait (s : State) (c client : Nat) (a : CodecAct) : Bool :=
  a.places.any fun va => match translate s (codecAgent c client) .read va with
    | .ok (.dev ca) => retrains s ca
    | _ => false

/-- A core's access faults: it pauses, or a fatal class ends its stream (R484, R370). -/
def coreFault (c k client va cls : Nat) (kind : AccKind) (s : State) : State :=
  let id := (s.client client).nextId
  let s1 := postFault s client va cls kind 0 (2 * 4096 + c) (.codec c)
  if fatalClass cls then failStream k 0x0607 (classStatus cls) s1
  else s1.setCore c fun q => { q with fault := some id }

/-- Has the core read the whole of the next unit? Then it reads no more of the ring. -/
def trimTakes (codec : Nat) (q : CodecCore) : CodecCore :=
  if (unitEnd codec q.got).isSome then { q with acts := q.acts.dropWhile fun a => match a with
    | .take _ _ => true
    | _ => false } else q

/-- Do the work that a core holds, as far as it goes. -/
def actsGo (c k client codec : Nat) : Nat → State → State
  | 0, s => s
  | n + 1, s =>
    match (s.core c).acts with
    | [] => s
    | a :: _ =>
      if stackWait s c client a then s
      else match doAct c k client a s with
        | .ok s1 =>
          let s2 := s1.setCore c fun q => { q with acts := q.acts.drop 1 }
          actsGo c k client codec n (match a with
            | .take _ _ => s2.setCore c (trimTakes codec)
            | _ => s2)
        | .fault va cls kind s1 => coreFault c k client va cls kind s1
        | .bad st s1 => failStream k 0x060A st s1

/-- A core at a slice boundary leaves its stream when it is fenced or there is no work. -/
def settleCore (c : Nat) (s : State) : State :=
  let q := s.core c
  match q.ctx with
  | none => s
  | some k =>
    if q.busy ∨ !q.acts.isEmpty ∨ q.fault.isSome then s
    else match s.strm k with
      | none => freeCore c s
      | some x => if q.fence ∨ !(want s x).ready then freeCore c s else s

/-- A core's work as far as it goes, once more for what a parsed unit adds. -/
def coreActs (c k : Nat) (x : Stream) (s : State) : State :=
  let s1 := actsGo c k x.client (x.f 1 1) (s.core c).acts.length s
  if (s1.core c).fault.isSome then s1 else actsGo c k x.client (x.f 1 1) (s1.core c).acts.length s1

/-- Do a core's work, then settle it and the streams. A core that is not awake does none (R534, R541). -/
def workCore (c : Nat) (s : State) : State :=
  let q := s.core c
  match q.ctx with
  | none => settleCodec s
  | some k => match s.strm k with
    | none => settleCodec s
    | some x => settleCodec (settleCore c (if q.fault.isSome ∨ !q.awake then s else coreActs c k x s))

/-- Every core goes on with work that waited. -/
def workAll (s : State) : State := (List.range 24).foldl (fun s c => workCore c s) s

/-! Opening, flushing and closing (R465, R469, R475, R487) -/

/-- Complete a STREAM descriptor. -/
def streamDone (c n : Nat) (d : Desc) (status : Nat) (s : State) : State := completeDesc c n d status s

/-- The stream that an OPEN makes. -/
def newStream (c sid cls : Nat) (b : List Byte) (es : List Nat) : Stream :=
  { client := c, sid := sid, cls := cls, order := 0, block := b, entries := es, failed := none, flush := none, total := none
    cur := none, coded := 0, shown := 0, inRd := 0, outWr := 0, done := 0, concealed := 0, damaged := 0, poolWaits := 0
    outWaits := 0, budgets := 0, starved := false, wait := none, fed := [], seq := none, unit := none, joined := 0, pixels := 0, cutAt := none
    recent := [], toShow := [], read := [], sizes := [] }

/-- The slot records that the OPEN of an encode writes. -/
def slotRecords (x : Stream) : List Byte :=
  if x.isEnc then ((List.range x.list).map fun k => picRecord x k (x.f 8 2) (x.f 10 2) 0).flatten else []

/-- The entry record of a slot as an OPEN leaves it. -/
def openEntry (s : State) (k : Nat) (x : Stream) (j : Nat) : PoolEntry :=
  let input := x.isEnc && decide (j < x.list)
  { ctx := k, slot := j, mark := 0, pending := false, hold := input, pic := if input then j else 0, key := none
    dpa := match translate s (dmaAgent x.client) .read (x.entVa j) with
      | .ok (.dev ca) => ca
      | _ => 0
    record := [] }

/-- The work of an OPEN once its block is read. -/
def openBlock (c n : Nat) (d : Desc) (b : List Byte) (s : State) : State :=
  let sid := recField d.bytes 18 2
  let free := freeEntries s
  let quota := recField b 12 2
  if !blockOk b || decide (255 < sid) then streamDone c n d 0x0601 s
  else if !areaInPool s c b then streamDone c n d 0x0604 s
  else if free.length < quota then streamDone c n d 0x0603 s
  else match (List.range 256).find? fun k => (s.strm k).isNone with
  | none => streamDone c n d 0x0605 s
  | some k =>
    if (findStream s c sid).isSome then streamDone c n d 0x0605 s
    else
      let es := free.take quota
      let x := newStream c sid (max (recField b 2 1) (field (s.cl c).policy.toNat 9 8)) b es
      match writeRange s (codecAgent 0 c) .write (x.f 64 8) (slotRecords x) with
      | (va, .fault cls s1) => dmaFault c n d va cls .write (fun _ => 0x0607) s1
      | (_, .bad st s1) => streamDone c n d st s1
      | (_, .ok _ s1) =>
        settleCodec (streamDone c n d 0 { s1 with codec := { s1.codec with
          streams := SMap.set none s1.codec.streams k (some x)
          entries := (List.range quota).foldl (fun m j =>
            SMap.set none m (es.getD j 512) (some (openEntry s1 k x j))) s1.codec.entries } })

/-- Read the stream block of an OPEN; a fault pauses the descriptor on Stile's DMA, and the frame pool is refused (R471). -/
def openStream (c n : Nat) (d : Desc) (s : State) : State :=
  if dmaPaused s then s
  else match readRange s (dmaAgent c) .read (recField d.bytes 24 8) 256 with
    | (_, .ok b s1) => openBlock c n d b (startDesc c n d.id s1)
    | (va, .fault cls s1) => dmaFault c n d va cls .read (fun _ => 0x0607) (startDesc c n d.id s1)
    | (_, .bad st s1) => streamDone c n d st s1

/-- STREAM_OPEN. -/
def streamOpenDesc (c n : Nat) (s : State) : State :=
  match nextOf s c n 3 (some 0) with
  | none => s
  | some d => openStream c n d s

/-- STREAM_FLUSH. A stream has one FLUSH at a time; that of a decode carries no number (R465). -/
def streamFlushDesc (c n : Nat) (s : State) : State :=
  match nextOf s c n 3 (some 1) with
  | none => s
  | some d =>
    match findStream s c (recField d.bytes 18 2) with
    | none => streamDone c n d (freeStatus 6 s).1 (freeStatus 6 s).2
    | some k => match s.strm k with
      | none => s
      | some x =>
        if !x.isEnc ∧ recField d.bytes 24 8 ≠ 0 then streamDone c n d 0x0101 s
        else match x.failed, x.flush with
          | some (st, _), _ => streamDone c n d st s
          | none, some _ => s
          | none, none =>
            let total := if x.isEnc then some (recField d.bytes 24 8) else none
            settleCodec ((startDesc c n d.id s).setStrm k fun x => { x with flush := some (n, d.id), total := total })

/-- STREAM_CLOSE. -/
def streamCloseDesc (c n : Nat) (s : State) : State :=
  match nextOf s c n 3 (some 2) with
  | none => s
  | some d =>
    match findStream s c (recField d.bytes 18 2) with
    | none => streamDone c n d (freeStatus 6 s).1 (freeStatus 6 s).2
    | some k => settleCodec (streamDone c n d 0 (dropStream k s))

/-! Cores (R477, R478, R488) -/

/-- May a core take work at all? -/
def CodecCore.usable (q : CodecCore) : Bool := !q.fence && !q.testing && !q.busy && q.acts.isEmpty && q.fault.isNone

/-- Streams that wait for a core, best first by class, then by turn. -/
def bestReady (s : State) : Option (Nat × Stream) :=
  bestBy (fun a b => decide (a.2.cls < b.2.cls) || (a.2.cls == b.2.cls && decide (a.2.order < b.2.order)))
    (s.codec.streams.filterMap fun e => e.2.bind fun x => if x.order = 0 then none else some (e.1, x))

/-- Parts in which the bitstream divides the slice in work: tiles, or wavefront rows. -/
def workParts (x : Stream) : Nat :=
  match x.unit, x.cur with
  | some u, some p =>
    if x.isEnc then match (bandsOf x.block)[p.band]? with
      | some e => ((sharesOf x.block).filter fun h => decide (h.r0 < e.2) && decide (e.1 < h.r1) && decide (h.c0 < h.c1)).length
      | none => 1
    else (infoOf x u).parts
  | _, _ => 1

/-- Streams whose slice in work may be shared with one more core: CORES at most, each with a part. -/
def bestShared (s : State) : Option (Nat × Stream) :=
  bestBy (fun a b => decide (a.2.cls < b.2.cls))
    (s.codec.streams.filterMap fun e => e.2.bind fun x =>
      if x.unit.isSome && decide (x.joined < workParts x) && decide ((coresOf s e.1).length < x.f 3 1) then some (e.1, x) else none)

/-- Is some core idle? -/
def idleCore (s : State) : Bool := (List.range 24).any fun c => (s.core c).usable && (s.core c).ctx.isNone

/-- Does stream `y` take the core of `x`, which stands at a slice boundary, when no core is idle? -/
def takesCore (y x : Stream) : Bool :=
  (y.cls == 0 && x.cls != 0) || (y.cls == 1 && x.cls == 2 && x.cur.isNone)

/-- The stream whose slice a core starts next; an idle core that no stream waits for takes part in a slice in work. -/
def coreChoice (s : State) (c : Nat) : Option Nat :=
  match (s.core c).ctx with
  | none => ((bestReady s).orElse fun _ => bestShared s).map (·.1)
  | some k => match s.strm k, bestReady s with
    | some x, some (j, y) => if !idleCore s && takesCore y x then some j else some k
    | some _, none => some k
    | none, b => b.map (·.1)

/-- Begin the next picture of an encode that stands at a picture boundary. -/
def beginPicture (k : Nat) (x : Stream) (s : State) : State :=
  match x.cur with
  | some _ => s
  | none => match freeEntry s x with
    | none => s
    | some slot =>
      let n := codingOrder (x.f 104 1) x.total x.coded
      let key := decide (n = 0) || (x.f 100 4 != 0 && n % x.f 100 4 == 0)
      let h : PicHeader := { width := x.f 8 2, height := x.f 10 2, key := key, grain := false, layer := 0, excluded := false
                             order := none, inOrder := true, refs := [], marks := [], shows := [] }
      (s.setEntry (x.entries.getD slot 512) fun e => { e with mark := 0, pic := 0 }).setStrm k
        fun x => { x with cur := some { slot := slot, n := n, flags := if key then 1 else 0, head := h, refs := [], done := []
                                        sub := none, band := 0, unit := [], qpMax := 0, spent := [], fill := false } }

/-- The rows of the input that a slice of an encode reads: no padding. -/
def bandRect (x : Stream) (i : Nat) : Rect :=
  let top := if i = 0 then 0 else bandEnd x (i - 1)
  ⟨0, top, x.f 8 2, bandEnd x i - top⟩

/-- The end of a FLUSH: a decode outputs what is left; an encode writes a record with END. -/
def endingWork (k : Nat) (x : Stream) (s : State) : State × List CodecAct :=
  if x.isEnc then
    (s.setStrm k fun x => { x with outWr := x.outWr + 32 },
     ringActs (x.f 48 8) (x.f 41 1) x.outWr (unitHead x.coded [] 0x40 0 s.now) ++ [.add (x.cnt cntOutWr) 32, .flushed 0])
  else
    let r := showReady k (s.setStrm k fun y => { y with toShow := y.toShow ++ waitingSlots s x }, [])
    (r.1, r.2 ++ if ((r.1.strm k).map fun y => y.toShow.isEmpty) = some true then [.flushed 0] else [])

/-- Work of a core for a stream: what an end of FLUSH, output or a picture cut off leaves to write; else the next slice, for
which an encode reads its input and a decode its ring. -/
def startWork (c k : Nat) (x : Stream) (s : State) : State :=
  if x.ending then
    let r := endingWork k x s
    pushActs c r.2 r.1
  else if x.isEnc then
    let s1 := beginPicture k x s
    match (s1.strm k).bind (·.cur) with
    | none => s1
    | some p =>
      pushActs c (loadActs x (p.n % x.list) (rectPieces x.block (bandRect x p.band)))
        ((s1.setStrm k fun x => { x with unit := some [], joined := 1, pixels := 0, cutAt := none }).setCore c fun q =>
          { q with busy := true, got := [], hurt := [], worked := if x.cur.isNone then 0 else q.worked })
  else
    let r := showReady k (s, [])
    if !r.2.isEmpty then pushActs c r.2 r.1
    else match (peek s x cntInWr).getD x.inRd - x.inRd, x.cur with
      | 0, some p =>
        let e := endDecoded k p s
        pushActs c e.2 e.1
      | n, _ => pushActs c (takeActs (x.f 32 8) (x.f 40 1) x.inRd n ++ [.parse])
          (s.setCore c fun q => { q with got := [], hurt := [] })

/-- CODEC_SLICE_START. -/
def sliceStart (c : Nat) (s : State) : State :=
  if !(s.core c).usable || decide (24 ≤ c) || decide (3 ≤ s.power.level) then s
  else match coreChoice s c with
  | none => s
  | some k => match s.strm k with
    | none => s
    | some x =>
      let s1 := if (s.core c).ctx = some k then s else
        (freeCore c s).setCore c fun q => { q with ctx := some k, worked := 0 }
      let s2 := s1.setStrm k fun x => { x with order := 0, wait := none }
      if x.unit.isSome then
        settleCodec ((s2.setStrm k fun x => { x with joined := x.joined + 1 }).setCore c fun q => { q with busy := true })
      else match want s x with
        | .nothing => settleCodec (freeCore c s2)
        | .wait _ => settleCodec (freeCore c s2)
        | .bad st => settleCodec (failStream k 0x060A st s2)
        | .fault off cls => settleCodec (coreFault c k x.client (x.cnt off) cls .waitOp s2)
        | .work => workCore c (startWork c k { x with order := 0, wait := none } s2)

/-! The end of a slice of a decode (R474, R476, R480–R483) -/

/-- F: luma rows at the bottom of a slice that publish with the next (R479). -/
def lateRows (codec : Nat) : Nat := if codec = 1 ∨ codec = 2 then 8 else 16

/-- The samples that a unit decodes; the chroma of monochrome content is mid-grey (R460). -/
def unitSample (x : Stream) (u refs : List Byte) (plane i j : Nat) : Nat :=
  if plane ≠ 0 ∧ (x.seq.map (·.sampling)) = some .mono then midGrey x.block else Config.decodeSample x.block x.fed u refs plane i j

/-- The blocks that read a reference where its data is bad (R483). -/
def hurtBlocks (x : Stream) (p : CurPic) (i : UnitInfo) (hurt : List (Nat × Nat)) : List Rect :=
  (i.reads.filter fun r => match (p.refs.getD r.ref none).orElse fun _ => p.sub.join with
    | some k => hurtIn x k (rectPieces x.block (clipRect (x.f 8 2) (x.f 10 2) r.src)) hurt
    | none => false).map (·.dst)

/-- The slice in work leaves it: its bytes are part of what has been decoded. -/
def closeUnit (k : Nat) (u : List Byte) (s : State) : State :=
  s.setStrm k fun x => { x with fed := x.fed ++ u, unit := none, joined := 0, pixels := 0, cutAt := none }

/-- The picture behind a decoded unit, its writes: the blocks that were decoded, then those that a failed check, an early end or bad
data leaves to be concealed. -/
def unitPicture (x : Stream) (p : CurPic) (u : List Byte) (i : UnitInfo) (got : List Byte) (hurt : List (Nat × Nat)) : CurPic × List CodecAct :=
  let bad := hurtBlocks x p i hurt
  let failed := i.failed || !i.lost.isEmpty || unitCut (x.f 1 1) u
  let flags : BitVec 8 := if failed then 3 else if bad.isEmpty then 0 else 1
  let px := (i.good.map fun r => rowActs x p.slot (rectRows x.block (clipRect p.head.width p.head.height r) (unitSample x u got))).flatten
  let c := conceal x { p with done := p.done ++ i.good, flags := p.flags ||| flags } (i.lost ++ bad)
  (c.1, px ++ c.2)

/-- Luma rows that a unit of a picture output in decode order makes ready, as ROWS tells them. -/
def rowsActs (s : State) (x : Stream) (p : CurPic) (i : UnitInfo) : List CodecAct :=
  let ready := if i.last then p.head.height else i.rows - lateRows (x.f 1 1)
  if x.subframe && p.head.inOrder && decide (0 < ready) && (waitingSlots s x).isEmpty && x.toShow.isEmpty then
    [.raise (x.cnt cntRows) (x.shown * 65536 + ready)] else []

/-- What the last core of a decode slice changes, and the memory work that makes it visible. -/
def decodeSlice (c k : Nat) (x : Stream) (u : List Byte) (s : State) : State × List CodecAct :=
  let i := infoOf x u
  let q := s.core c
  let s1 := closeUnit k u s
  match x.cur with
  | none => showReady k (queueShows k x i.shows s1, [])
  | some p =>
    let d := unitPicture x p u i q.got q.hurt
    let rows := rowsActs s x d.1 i
    let e := if i.last then endDecoded k d.1 s1 else (s1.setStrm k fun x => { x with cur := some d.1 }, [])
    let e1 := match e.1.strm k with
      | some y => queueShows k y i.shows e.1
      | none => e.1
    let r := showReady k (e1, [])
    (r.1, d.2 ++ e.2 ++ rows ++ r.2)

/-! The end of a slice of an encode (R475, R483, R485, R486) -/

/-- What a share has come to: bytes spent, flags, highest QP, whether the rest is skipped, the slice's bytes. -/
structure Coding where
  spent : Nat
  flags : BitVec 8
  qp : Nat
  fill : Bool
  out : List Byte
  deriving DecidableEq, Repr

/-- The QP of a block: that of RC 0, that of a row beyond its budget, or one that rate control chooses between QP_MIN and QP_CEIL. -/
def codeQp (x : Stream) (past : List Byte) (n r c : Nat) (ceil : Bool) : Nat :=
  if ceil then x.f 82 1 else if x.f 80 1 = 0 then x.f 83 1
  else clampNat (x.f 81 1) (x.f 82 1) (Config.blockQp x.block past n r c)

/-- Code one block of a share: where its own bytes and the fallback bound of the rest go beyond the share's cap, it and every further
block of the picture is skipped; `skip` blocks are coded so for themselves. -/
def codeBlock (x : Stream) (past : List Byte) (p : CurPic) (h : Share) (cap : Nat) (ceil : Bool) (skip : Bool) (r : Nat)
    (g : Coding) (c : Nat) : Coding :=
  let a := fallbackBound (x.f 1 1) p.head.key
  let m := (h.r1 - r - 1) * (h.c1 - h.c0) + (h.c1 - c - 1)
  let qp := codeQp x past p.n r c ceil
  let code := Config.blockCode x.block past p.n r c qp
  if g.fill || skip || decide (cap < g.spent + code.length + m * a + h.heads) then
    let bs := (Config.fallbackCode x.block past p.n r c).take a
    let full := g.fill || !skip
    { g with spent := g.spent + bs.length, out := g.out ++ bs, fill := full, flags := if full then g.flags ||| 4#8 else g.flags }
  else
    { g with spent := g.spent + code.length, out := g.out ++ code, qp := max g.qp qp, flags := if ceil then g.flags ||| 2#8 else g.flags }

/-- Code one row of a share: at QP_CEIL once the share has spent its budget. -/
def codeRow (x : Stream) (past : List Byte) (p : CurPic) (h : Share) (cap budget : Nat) (skip : Nat → Nat → Bool)
    (g : Coding) (r : Nat) : Coding :=
  let ceil := decide (budget ≤ g.spent)
  (iota h.c0 (h.c1 - h.c0)).foldl (fun g c => codeBlock x past p h cap ceil (skip r c) r g c) g

/-- The budget of a picture in bytes (R485). -/
def pictureBytes (x : Stream) (p : CurPic) : Nat :=
  if x.f 80 1 = 0 then x.hardCap
  else Config.pictureBudget (x.f 88 8 * x.f 86 2 / max 1 (8 * x.f 84 2)) (x.f 112 8) p.head.key x.sizes

/-- The slice in work of an encode: its picture behind it, and the bytes that it adds to the unit: one slice for each column of
tiles, the shares of each in order. -/
def codeBand (x : Stream) (p : CurPic) (past : List Byte) (r0 r1 : Nat) (skip : Nat → Nat → Bool) : CurPic :=
  let all := blkRows x.block * blkCols x.block
  let budget := pictureBytes x p
  let head := if p.band = 0 then frameUnit (x.f 1 1) ((Config.pictureHead x.block past p.n).take 256) else []
  let one (a : CurPic × List Byte) (e : Nat × Share) : CurPic × List Byte :=
    let h := e.2
    let g := (iota (max h.r0 r0) (min h.r1 r1 - max h.r0 r0)).foldl
      (codeRow x past p h (x.hardCap * h.blocks / max 1 all) (budget * h.blocks / max 1 all) skip)
      { spent := a.1.spent.get 0 e.1, flags := a.1.flags, qp := a.1.qpMax, fill := a.1.fill, out := [] }
    ({ a.1 with spent := SMap.set 0 a.1.spent e.1 g.spent, flags := g.flags, qpMax := g.qp, fill := g.fill }, a.2 ++ g.out)
  let cols := ((tilesOf x.block).map (·.c0)).eraseDups
  let q := cols.foldl (fun a c0 =>
    let hs := (withIdx (sharesOf x.block)).filter fun e => e.2.c0 == c0 && decide (e.2.r0 < r1) && decide (r0 < e.2.r1) && decide (e.2.c0 < e.2.c1)
    let w := hs.foldl one (a.1, [])
    if hs.isEmpty then a
    else (w.1, a.2 ++ frameUnit (x.f 1 1) ((Config.sliceHead x.block past p.n r0 c0).take 32 ++ w.2))) (p, head)
  { q.1 with unit := q.1.unit ++ q.2.take (x.hardCap - q.1.unit.length), band := p.band + 1 }

/-- Blocks coded by the fallback for themselves: those that read bad input, and those from the one on at which the core's budget has
run out (R481, R483). -/
def skipBlock (x : Stream) (p : CurPic) (hurt : List (Nat × Nat)) (r0 : Nat) (r c : Nat) : Bool :=
  let k := blkSize (x.f 1 1)
  hurtIn x (p.n % x.list) (rectPieces x.block (clipRect (x.f 8 2) (x.f 10 2) ⟨c * k, r * k, k, k⟩)) hurt ||
    x.cutAt.any fun n => decide (n ≤ (r - r0) * blkCols x.block + c)

/-- Pictures from `n` on that have been read, in a row. -/
def readTo (l : List Nat) : Nat → Nat → Nat
  | 0, n => n
  | f + 1, n => if l.contains n then readTo l f (n + 1) else n

/-- Reference marks behind a coded picture: it is kept, and of the ones kept before it the NREF − 1 coded last. -/
def encMarks (x : Stream) (p : CurPic) (s : State) : State :=
  let kept := (p.slot :: (x.recent.map (·.slot)).filter (· != p.slot)).take (x.f 105 1)
  (iota x.list (x.quota - x.list)).foldl (fun s k => s.setEntry (x.entries.getD k 512) fun e =>
    { e with mark := if kept.contains k then 1 else 0 }) s

/-- What the last core of an encode slice changes, and its memory work. -/
def encodeSlice (c k : Nat) (x : Stream) (p0 : CurPic) (s : State) : State × List CodecAct :=
  let q := s.core c
  let e := ((bandsOf x.block)[p0.band]?).getD (0, blkRows x.block)
  let last := decide ((bandsOf x.block).length ≤ p0.band + 1)
  let hurt := !q.hurt.isEmpty
  let past := x.fed ++ q.got
  let p1 := codeBand x { p0 with flags := p0.flags ||| (if hurt then 8#8 else 0#8) } past e.1 e.2 (skipBlock x p0 q.hurt e.1)
  let p := { p1 with fill := p1.fill || x.cutAt.isSome }
  let sub := x.subframe
  let start := if sub ∧ !p0.unit.isEmpty then x.outWr - (32 + p0.unit.length) else x.outWr
  let fin := if last then start + 32 + ceilDiv p.unit.length 32 * 32
    else if sub ∧ !p.unit.isEmpty then start + 32 + p.unit.length else x.outWr
  let head := unitHead p.n p.unit (p.flags.toNat + (if last then 0x20 else 0)) p.qpMax s.now
  let pad := leBytes 0 (fin - (start + 32 + p.unit.length))
  let capped := bit p.flags.toNat 1 || bit p.flags.toNat 2
  let read := if last then p.n :: x.read else x.read
  let done := readTo read read.length x.done
  let y : Stream := { x with
    cur := if last then none else some p
    fed := past, unit := none, joined := 0, pixels := 0, cutAt := none, outWr := fin, done := done, read := read.filter fun n => decide (done ≤ n)
    recent := if last then ⟨0, p.slot, p.n⟩ :: x.recent.filter fun e => e.slot != p.slot else x.recent
    sizes := if last then p.unit.length :: x.sizes else x.sizes
    coded := x.coded + b2n last, damaged := x.damaged + b2n (last && capped) }
  let s1 := s.setStrm k fun _ => y
  let s2 := if last then
      let b := encMarks x p s1
      { b with codec := { b.codec with capCnt := satAdd b.codec.capCnt (b2n capped) } }
    else s1
  let recon := rowActs x p.slot (rectRows x.block (bandRect x p0.band) (Config.reconSample x.block past p.n))
  let status := if last then writeActs (x.f 72 8) (streamStatus y s.now) else []
  let out := if fin = x.outWr then []
    else ringActs (x.f 48 8) (x.f 41 1) start (head ++ p.unit ++ pad) ++ status ++ [.add (x.cnt cntOutWr) (fin - x.outWr)]
  (s2, recon ++ out ++ (if done = x.done then [] else [.add (x.cnt cntDone) (done - x.done)]))

/-! CODEC_SLICE_COMPLETE and the budget (R477, R481) -/

/-- Luma samples of the slice in work. -/
def sliceArea (x : Stream) : Nat :=
  match x.unit, x.cur with
  | some u, some p =>
    if x.isEnc then rectArea (bandRect x p.band)
    else ((infoOf x u).good.map fun r => rectArea (clipRect p.head.width p.head.height r)).foldl (· + ·) 0
  | _, _ => 0

/-- A core's luma samples of the slice in work: those of the tiles or rows that it took, `part`, of what others leave; the last
core to end has all the rest. -/
def corePixels (x : Stream) (part : Nat) (last : Bool) : Nat :=
  let left := sliceArea x - x.pixels
  if last then left else min part left

/-- The stream and the slice on which a core works, its memory work done. -/
def coreWork (s : State) (c : Nat) : Option (Nat × Stream × List Byte) :=
  let q := s.core c
  if !q.busy ∨ !q.awake ∨ !q.acts.isEmpty ∨ q.fault.isSome then none
  else q.ctx.bind fun k => (s.strm k).bind fun x => x.unit.map fun u => (k, x, u)

/-- What the end of the slice changes, when core `c` is the last at work on it. -/
def endSlice (c k : Nat) (x : Stream) (u : List Byte) (s : State) : State × List CodecAct :=
  if x.isEnc then match x.cur with
    | some p => encodeSlice c k x p s
    | none => (closeUnit k u s, [])
  else decodeSlice c k x u s

/-- CODEC_SLICE_COMPLETE: a core ends its part; the last one ends the slice. -/
def sliceComplete (c part : Nat) (s : State) : State :=
  match coreWork s c with
  | none => s
  | some (k, x, u) =>
    let last := (workersOf s k).all (· == c)
    let n := corePixels x part last
    let s1 := s.setCore c fun q => { q with busy := false, pix := satAdd q.pix n }
    if !last then settleCodec (settleCore c (s1.setStrm k fun x => { x with pixels := x.pixels + n }))
    else
      let w := endSlice c k x u s1
      workCore c (w.1.setCore c fun q => { q with acts := w.2, got := [], hurt := [] })

/-- Ticks of a core's budget for its share of a picture: 4 p ÷ R + 200 µs, where 4:2:2 counts 4/3 (R462, R481). -/
def budgetTicks (x : Stream) : Nat :=
  let p := match x.cur with
    | some p => ceilDiv (p.head.width * p.head.height) (max 1 x.joined)
    | none => 0
  ceilDiv (p * (if x.f 6 1 = 0 then 3 else 4)) (3 * if x.isEnc then 40 else 80) + 625

/-- A tick of work for a core: none of one that waits for its memory, or on a fault, or to wake. -/
def codecTick (s : State) : State :=
  (List.range 24).foldl (fun s c => if (coreWork s c).isSome then s.setCore c fun q => { q with worked := q.worked + 1 } else s) s

/-- A free number below `n + 1`: how far a slice had come. -/
def freeUpTo (n : Nat) (s : State) : Nat := (Config.freeWord s.fresh).toNat % (n + 1)

/-- BUDGET_EXPIRY: a decode conceals what is left of the picture, an encode codes the rest of it by the fallback, and BUDGET is set
(R481). DESIGN CHOICE: cores that share a slice stop with the one whose budget runs out. -/
def budgetExpiry (c : Nat) (s : State) : State :=
  match coreWork s c with
  | none => s
  | some (k, x, u) => match x.cur with
    | none => s
    | some p =>
      if (s.core c).worked < budgetTicks x ∨ x.cutAt.isSome then s
      else
        let s1 := ({ s with fresh := s.fresh + 1 }.setStrm k fun x => { x with budgets := x.budgets + 1 }).setCore c
          fun q => { q with budgets := satAdd q.budgets 1 }
        if x.isEnc then
          let n := (((bandsOf x.block)[p.band]?.map fun e => e.2 - e.1).getD 0) * blkCols x.block
          s1.setStrm k fun x => { x with cutAt := some (freeUpTo n s), cur := some { p with flags := p.flags ||| 0x14#8 } }
        else
          let i := infoOf x u
          let part : UnitInfo := { i with good := i.good.take (freeUpTo i.good.length s), lost := [], failed := false }
          let d := unitPicture x { p with flags := p.flags ||| 0x08#8 } u part (s.core c).got (s.core c).hurt
          let s2 := (workersOf s k).foldl (fun s j => s.setCore j fun q => { q with busy := false }) (closeUnit k u s1)
          let e := endDecoded k d.1 s2
          workCore c ((coresOf s k).foldl (fun s j => settleCore j s)
            (e.1.setCore c fun q => { q with acts := d.2 ++ e.2, got := [], hurt := [] }))

/-- Has the fault that a core waits on stood unanswered for CODEC_FAULT_LIMIT ticks? A limit of 0 is none. -/
def faultLate (s : State) (c : Nat) : Bool :=
  match (s.core c).ctx.bind s.strm, (s.core c).fault with
  | some x, some id => s.codec.faultLimit != 0 &&
      (s.client x.client).waiting.any fun f => f.id == id && decide (f.time + s.codec.faultLimit.toNat ≤ s.now)
  | _, _ => false

/-- CODEC_FAULT_LIMIT_EXPIRY: the stream ends with CAUSE 0 (R484). -/
def codecLimit (c : Nat) (s : State) : State :=
  match (s.core c).ctx with
  | some k => if faultLate s c then settleCodec (failStream k 0x0607 0 s) else s
  | none => s

/-- RESUME of a core's fault. -/
def resumeCore (c id : Nat) (s : State) : State :=
  if (s.core c).fault = some id then workCore c (s.setCore c fun q => { q with fault := none }) else s

/-- FAIL of a core's fault. -/
def failCore (c id : Nat) (s : State) : State :=
  match (s.core c).ctx with
  | some k => if (s.core c).fault = some id then settleCodec (failStream k 0x0607 0x0310 s) else s
  | none => s

/-- WAKE_COMPLETE of a core that holds a stream: its work goes on. -/
def wakeCore (c : Nat) (s : State) : State :=
  if (s.core c).ctx.isSome then workCore c (s.setCore c fun q => { q with awake := true }) else s

/-- CODEC_CORE_FENCE: the core finishes its slice and takes no further work. -/
def fenceCore (c : Nat) (s : State) : State :=
  if 24 ≤ c then s else settleCodec (settleCore c (s.setCore c fun q => { q with fence := true }))

def unfenceCore (c : Nat) (s : State) : State :=
  if 24 ≤ c then s else s.setCore c fun q => { q with fence := false }

/-- CODEC_CORE_TEST: self-test of a fenced core that works on nothing. -/
def testCore (c : Nat) (s : State) : State :=
  s.setCore c fun q => if q.fence ∧ !q.busy ∧ q.ctx = none then { q with testing := true } else q

/-- Every stream of a client ends, with no completion record (R407). -/
def endStreams (c : Nat) (s : State) : State :=
  (s.codec.streams.filterMap fun e => e.2.bind fun x => if x.client = c then some e.1 else none).foldl (fun s k =>
    dropStream k (s.setStrm k fun x => { x with flush := none })) s

end Sys2Proof.Machine
end

