-- ==== Sys2Proof/Machine/Client.lean ====
section
/-! DEFINITION. Answers to faults, fault rings, COLL descriptors of the host, invalidations, client and function resets,
and the BAR2 aperture (14 R369–R385, 15 R387–R389, R407, 17 R454, R455). -/

namespace Sys2Proof.Machine

/-! COLL descriptors of the host (R454, R455) -/

/-- The host group of a client. -/
def hostGroup (s : State) (c hg : Nat) : Option Group :=
  s.mortar.groups.find? fun g => g.host && g.client == c && g.lgroup == hg

/-- A POST that names no group or member: its status word, then its completion with BAD_RECORD (R444, R455). -/
def refusePost (c n epoch : Nat) (d : Desc) (bs : List Byte) (s : State) : State :=
  let ag : Agent := { client := c, objs := none, mortar := true }
  let r : PostRec := { gid := 0, member := 0, bytes := bs, sheds := 0, sats := 0, flags := 0
                       poster := .host c n d.id (descIrq d) (BitVec.ofNat 64 (recField d.bytes 0 8)) }
  match looseWord ag r ⟨0x0405, 0, noChunk, 0, epoch⟩ s with
  | .ok _ s1 => completeDesc c n d 0x0405 s1
  | .fault cls va kind s1 => dmaFault c n d va cls kind id (startDesc c n d.id s1)
  | .bad st s1 => completeDesc c n d st s1

/-- POST: the record is read when the descriptor starts; completion comes with the collective. A full context queue
lets the descriptor wait. -/
def collPost (c n : Nat) (d : Desc) (s : State) : State :=
  if dmaPaused s then s
  else
    let ag : Agent := { client := c, objs := none, mortar := true }
    let member := recField d.bytes 20 2
    match readRange s ag .read (recField d.bytes 24 8) 64 with
    | (va, .fault cls s1) => dmaFault c n d va cls .read id (startDesc c n d.id s1)
    | (_, .bad st s1) => completeDesc c n d st s1
    | (_, .ok bs s1) =>
      match hostGroup s1 c (recField d.bytes 18 2) with
      | none => refusePost c n 0 d bs s1
      | some g =>
        let e := g.entries.getD member 0
        if !(decide (member < g.n) && entHost e && decide (entModule e = s1.golger.moduleId)) then refusePost c n g.epoch d bs s1
        else
          let r : PostRec := { gid := g.gid, member := member, bytes := bs, sheds := 0, sats := 0, flags := 0
                               poster := .host c n d.id (descIrq d) (BitVec.ofNat 64 (recField d.bytes 0 8)) }
          match postRecord ag g r (startDesc c n d.id s1) with
          | .accepted s2 => settleLost 64 s2
          | .full _ => setDesc c n d.id (fun d => { d with started := false }) s
          | .ended (.ok _ s2) => settleLost 64 s2
          | .ended (.fault cls va kind s2) => dmaFault c n d va cls kind id s2
          | .ended (.bad st s2) => completeDesc c n d st s2

/-- Does the staging area lie in a pinned TIER 0 object of the client (R431, R455)? DESIGN CHOICE: the objects are those that
the client's admitted runs declare. -/
def hostStageOk (s : State) (c va : Nat) : Bool :=
  (s.stile.cur.toList ++ s.stile.runs).any fun r => r.client == c && r.admitted &&
    insideObject r.manifest (fun o => pinned o && objTier o == 0) va (2 ^ 21)

/-- OPEN: the declaration and its member list are read, checked and bound. -/
def collOpen (c n : Nat) (d : Desc) (s : State) : State :=
  if dmaPaused s then s
  else
    let ag : Agent := { client := c, objs := none, mortar := true }
    let hg := recField d.bytes 18 2
    let va := recField d.bytes 24 8
    match readRange s ag .read va 48 with
    | (fv, .fault cls s1) => dmaFault c n d fv cls .read id (startDesc c n d.id s1)
    | (_, .bad st s1) => completeDesc c n d st s1
    | (_, .ok db s1) =>
      let decl := leNat db
      let len := 8 * (declFirst decl + declN decl)
      if declN decl = 0 ∨ 32768 < declN decl ∨ 255 < hg ∨ (hostGroup s1 c hg).isSome then completeDesc c n d 0x0409 s1
      else match readRange s1 ag .read (va + 48) len with
        | (fv, .fault cls s2) => dmaFault c n d fv cls .read id (startDesc c n d.id s2)
        | (_, .bad st s2) => completeDesc c n d st s2
        | (_, .ok mb s2) =>
          let ms := (List.range (declFirst decl + declN decl)).map fun k => recField mb (8 * k) 8
          let room := decide (groupsUsed s2 < 4096) && decide (membersUsed s2 + declN decl ≤ 32768)
          if !room ∨ !declOk s2 true decl ms (fun e => entHost e) ∨ !hostStageOk s2 c (declField decl 32 8) then completeDesc c n d 0x0409 s2
          else
            let same := s2.mortar.groups.find? fun g => g.host && g.client == c && g.stageVa == declField decl 32 8 && g.ctx.isSome
            match (same.bind (·.ctx)).orElse fun _ => freeCtx s2 with
            | none => completeDesc c n d 0x0408 s2
            | some k =>
              let s3 := if same.isSome then s2 else bindCtx k c 0 (declField decl 32 8) true s2
              completeDesc c n d 0 { s3 with mortar := { s3.mortar with
                groups := s3.mortar.groups ++ [mkGroup s3 true decl ms c 0 k hg] } }

/-- HOST_COLL_POST and HOST_COLL_OPEN start the queue's next descriptor. -/
def collPostDesc (c n : Nat) (s : State) : State :=
  match nextOf s c n 4 (some 0) with
  | none => s
  | some d => collPost c n d s
def collOpenDesc (c n : Nat) (s : State) : State :=
  match nextOf s c n 4 (some 1) with
  | none => s
  | some d => collOpen c n d s

/-- CLOSE: collectives in flight fail, the group goes, and its context if no other group uses it, once every completion is
written. -/
def collCloseDesc (c n : Nat) (s : State) : State :=
  match nextOf s c n 4 (some 2) with
  | none => s
  | some d =>
    match hostGroup s c (recField d.bytes 18 2) with
    | none => completeDesc c n d (freeStatus 4 s).1 (freeStatus 4 s).2
    | some g =>
      let alone := !(s.mortar.groups.any fun h => h.gid != g.gid && h.ctx == g.ctx && h.ctx.isSome)
      let end1 := match g.ctx with
        | none => s
        | some k =>
          let x := s.ctx k
          let mine := match x.cur with
            | some q => q.gid == g.gid
            | none => false
          let gone := x.queue.filter fun r => r.gid == g.gid
          let s1 := if mine then dropColl k ⟨0x0406, 0, noChunk, 0, g.epoch + 1⟩ s else s
          let s2 := s1.setCtx k fun x => { x with
            queue := x.queue.filter fun r => r.gid != g.gid
            ending := x.ending ++ gone.map fun r => (r, ⟨0x0406, 0, noChunk, 0, g.epoch + 1⟩) }
          endRecords k (s2.ctx k).ending.length s2
      let s3 := releaseGroups (fun h => h.gid == g.gid) (fun _ => false) true end1
      let s4 := match g.ctx with
        | some k => if alone && (s3.ctx k).ending.isEmpty then freeOneCtx k s3 else mortarWork k s3
        | none => s3
      completeDesc c n d 0 s4

/-! Answers (R375, R380, R381, R394, R448, R484) -/

/-- A command that is the write of a whole 64-bit register (R12): its low word replaces what the function had staged, and its
high word commits both; a write-only register keeps the low word. -/
def rowWrite (fn : Nat) (wo : Option (Nat × W32)) (s : State) : State :=
  let s1 := { s with staging := SMap.set none s.staging fn none }
  match wo with
  | some (off, v) => { s1 with woLow := SMap.set 0 s1.woLow off v }
  | none => s1

/-- XLAT_FAULT_RESP as a RESUME or FAIL of a client writes it. -/
def writeResp (c : Nat) (id : BitVec 48) (s : State) : State :=
  rowWrite c (some (0x800020 + 0x100 * c, id.setWidth 32)) s

/-- The waiting fault whose identifier has these low 48 bits. -/
def answeredFault (s : State) (c : Nat) (id : BitVec 48) : Option FaultRec :=
  (s.client c).waiting.find? fun f => f.id % 2 ^ 48 == id.toNat

/-- The pre-empted run that a fault belongs to. -/
def faultRun (s : State) (c : Nat) (f : FaultRec) : Option Run :=
  s.stile.runs.find? fun r => r.client == c && r.seqNo == f.run && f.run != 0

def dropFault (c id : Nat) (s : State) : State :=
  s.setClient c fun x => { x with waiting := x.waiting.filter fun f => f.id != id }

/-- Go on with a descriptor that waits on fault `id`: a copy moves on, another reads what it names again. -/
def resumeDma (c n id : Nat) (s : State) : State :=
  match ((s.cl c).q n).descs.find? fun d => d.paused == some id with
  | none => s
  | some d =>
    let s1 := setDesc c n d.id (fun d => { d with paused := none }) s
    if descType d = 2 then resumeCopy c n id s
    else if descType d = 3 then openStream c n d s1
    else if recField d.bytes 16 1 = 0 then collPost c n d s1
    else collOpen c n d s1

/-- FAIL of a descriptor's fault: an OPEN of a stream completes with 0x0607, another descriptor with 0x0310. -/
def failDma (c n id : Nat) (s : State) : State :=
  match ((s.cl c).q n).descs.find? fun d => d.paused == some id with
  | none => s
  | some d =>
    completeDesc c n d (if descType d = 3 then 0x0607 else 0x0310) (setDesc c n d.id (fun d => { d with paused := none }) s)

/-- RESUME. While the run is pre-empted, or the array saves or its clock stands (R529), the answer is recorded. -/
def answerResume (c : Nat) (id : BitVec 48) (s : State) : State :=
  match answeredFault s c id with
  | none => s
  | some f =>
    let record := s.setClient c fun x => { x with resumed := x.resumed ++ [f.id] }
    if (faultRun s c f).isSome then record
    else match f.owner with
      | .sett i _ => if s.stile.array = .saving ∨ !s.arrayRuns then record else goSett i f.id (dropFault c f.id s)
      | .mortar k => if (s.ctx k).phase = .frozen then record else settleDoom (resumeCtx k f.id (dropFault c f.id s))
      | .codec k => resumeCore k f.id (dropFault c f.id s)
      | .dma n => resumeDma c n f.id (dropFault c f.id s)

/-- The answers to faults of the running run's setts that were recorded while the array clock stood (R529). -/
def takeAnswers (s : State) : State :=
  match s.stile.cur with
  | none => s
  | some r =>
    if s.stile.array = .saving ∨ !s.arrayRuns then s
    else
      let fs := (s.client r.client).waiting.filter fun f => f.run == r.seqNo && (s.client r.client).resumed.contains f.id
      fs.foldl (fun s f => match f.owner with
        | .sett i _ => goSett i f.id (dropFault r.client f.id (s.setClient r.client fun x => { x with resumed := x.resumed.filter (· != f.id) }))
        | _ => s) s

/-- FAIL. -/
def answerFail (c : Nat) (id : BitVec 48) (s : State) : State :=
  match answeredFault s c id with
  | none => s
  | some f =>
    match faultRun s c f with
    | some r => settleClass (abandonRun s r 0x0310)
    | none => match f.owner with
      | .sett i _ => failRun i 0x0310 s
      | .mortar k =>
        let host := (s.ctx k).host
        let s1 := settleDoom (failCtx k f.id (dropFault c f.id s))
        if host then s1 else failRun noSett 0x0310 s1
      | .codec k => failCore k f.id (dropFault c f.id s)
      | .dma n => failDma c n f.id (dropFault c f.id s)

/-! Fault rings (R373, R374, R385) -/

def writeFqTail (c : Nat) (v : W32) (s : State) : State :=
  drainFaults (s.setClient c fun x => { x with tail := v &&& 0x1FFFF#32 }) c
def writeFqBase (c : Nat) (v : W64) (s : State) : State :=
  drainFaults (s.setClient c fun x => { x with fqBase := v &&& 0x800FFFFFFFFFF000#64 }) c
def writeFqCtrl (c : Nat) (v : W32) (s : State) : State :=
  drainFaults (s.setClient c fun x => { x with fqCtrl := v &&& 0x87FF001F#32 }) c

/-! Invalidations (R332, R369) -/

/-- Remove residency entries. -/
def dropResident (p : Resident → Bool) (s : State) : State :=
  { s with stile := { s.stile with residency := [0, 1].foldl (fun m d =>
      SMap.modify [] m d (fun l => l.filter fun e => !p e)) s.stile.residency } }

/-- INVALIDATE: 16 invalidations are held in order, a further one waits. -/
def invalidate (va : W64) (ctrl : W32) (s : State) : State :=
  let n := clampNat 16 48 (field ctrl.toNat 13 8)
  let lo := field va.toNat 47 16 * 65536 / 2 ^ n * 2 ^ n
  let c := field ctrl.toNat 4 0
  let i : Inval := ⟨c, lo, n, BitVec.ofNat 16 (field ctrl.toNat 31 16)⟩
  let s1 := { s with xlat := { s.xlat with invVa := va &&& 0xFFFFFFFF0000#64 } }
  let s2 := if s1.xlat.invals.length < 16 then { s1 with xlat := { s1.xlat with invals := s1.xlat.invals ++ [i] } }
    else { s1 with xlat := { s1.xlat with invBlocked := s1.xlat.invBlocked ++ [i] } }
  flushTlbs c lo n
    (dropResident (fun e => e.client == c && decide (e.va < lo + 2 ^ n) && decide (lo < e.va + e.objBytes)) s2)

/-- INVALIDATION_DONE: the oldest completes, with no entry of its range left in any TLB, and a waiting one takes its place. -/
def invalDone (s : State) : State :=
  match s.xlat.invals with
  | [] => s
  | i :: rest =>
    let s := flushTlbs i.client i.va i.log2 s
    { s with xlat := { s.xlat with invDone := i.seq, invals := rest ++ s.xlat.invBlocked.take 1, invBlocked := s.xlat.invBlocked.drop 1 } }

/-! Resets of a client and of a function (R387, R407, R508) -/

/-- Step 1: queues and completion ring are disabled, and what they held is discarded. -/
def resetQueues (c : Nat) (s : State) : State :=
  s.setCl c fun k => { k with
    cqCtrl := k.cqCtrl &&& 0x7FFFFFFF#32, held := [], bad := false, deferred := false, holdoffEnd := 0, bar2Ep := false
    queues := (List.range 8).foldl (fun m n => SMap.modify Queue.reset m n fun q =>
      { q with ctrl := q.ctrl &&& 0x7FFFFFFF#32, resync := false, descs := [] }) k.queues }

/-- The running run of client `c`. -/
def State.runOf (s : State) (c : Nat) : Option Run := s.stile.cur.filter fun r => r.client == c

/-- Step 2: the running run ends once its setts have stopped (R71), pre-empted and waiting runs are abandoned, with 0x0103
and without records. -/
def resetRuns (c : Nat) (s : State) : State :=
  let s0 := if (s.runOf c).isSome then stopOthers noSett s else s
  let s1 := match s0.runOf c with
    | some r => freeArray (clearRun s0 r 0x0103 true) r
    | none => s0
  (s1.stile.runs.filter fun r => r.client == c).foldl dropRun s1

/-- Step 3: faults and fault-ring registers, the low word that XLAT_FAULT_RESP holds among them (R12); XLAT_ROOT stays. -/
def resetFaults (c : Nat) (s : State) : State :=
  { s.setClient c fun x => { XlatClient.reset with root := x.root, nextId := x.nextId } with
    woLow := SMap.set 0 s.woLow (0x800020 + 256 * c) 0 }

/-- A client reset. DESIGN CHOICE: neither it nor a function-level reset clears the function's read shadow and the low word
that the function has staged (R12), of which R387 and R407 say nothing. -/
def resetClient (c : Nat) (s : State) : State :=
  let s1 := resetFaults c (resetRuns c (resetQueues c s))
  let s2 := settleCodec (endStreams c s1)
  let s3 := releaseGroups (fun g => g.client == c) (fun x => x.client == c && x.phase != .free) true s2
  let s4 := dropResident (fun e => e.client == c) s3
  settleClass (s4.setCl c fun k =>
    { k with acctWait := 0, acctRun := 0, acctSave := 0, acctPreempts := 0, acctRuns := 0, deficit := 0 })

/-- No mailbox waits for a staging whose mailbox has been reset. -/
def noBox : Nat := 8

/-- Mailbox `k` before HELLO; notifications stand, and a running FW_STAGE goes on for no one. -/
def resetBox (k : Nat) (s : State) : State :=
  { s with hearth := { s.hearth with boxes := SMap.set Mailbox.reset s.hearth.boxes k Mailbox.reset
                                     staging := s.hearth.staging.map fun g => if g.mb = k then { g with mb := noBox } else g
                                     posted := if k = 0 then false else s.hearth.posted
                                     response := if k = 0 then false else s.hearth.response } }

/-- PF_FLR: every client, then every Stile and translation register; the numbers of runs and faults go on. -/
def resetPf (s : State) : State :=
  let s1 := (List.range 32).foldl (fun s c => resetClient c s) s
  let keep := s1.stile.clients.foldl (fun m e => SMap.set Client.reset m e.1 { Client.reset with nextRun := e.2.nextRun }) []
  let keepX := s1.xlat.clients.foldl (fun m e => SMap.set XlatClient.reset m e.1 { XlatClient.reset with nextId := e.2.nextId }) []
  resetBox 0 { s1 with
    stile := { Stile.reset with clients := keep }
    xlat := { Xlat.reset with clients := keepX, invals := s1.xlat.invals, invBlocked := s1.xlat.invBlocked } }

/-! BAR2 (R389) -/

/-- Client 0's VA of an aperture offset. -/
def bar2Va (s : State) (off : Nat) : Nat := s.stile.bar2Base.toNat + off

/-- Every granule of an access reaches device memory outside the frame pool. -/
def bar2Ok (s : State) (kind : AccKind) (va len : Nat) : Bool :=
  decide (va + len ≤ 2 ^ 48) && (granules va len).all fun g => match translate s (dmaAgent 0) kind g.1 with
    | .ok (.dev ca) => !s.inPool ca
    | _ => false

/-- A failed access counts, and the first one's offset is captured. -/
def bar2Error (off : Nat) (write : Bool) (s : State) : State :=
  let e := s.stile.bar2Err.toNat
  { s with stile := { s.stile with
      bar2ErrCnt := satAdd s.stile.bar2ErrCnt 1
      bar2Err := if bit e 63 then s.stile.bar2Err else BitVec.ofNat 64 (2 ^ 63 + b2n write * 2 ^ 62 + off % 2 ^ 40) } }

/-- BAR2_READ. Only the physical function has the aperture. -/
def bar2ReadAt (c off len : Nat) (s : State) : State :=
  if c ≠ 0 ∨ !s.hostReady then s
  else
    let va := bar2Va s off
    let ones := List.replicate len (0xFF : Byte)
    if !bar2Ok s .read va len then (bar2Error off false s).emit (.bar2 ones false)
    else match (readRange s (dmaAgent 0) .read va len).2 with
      | .ok bs s1 => s1.emit (.bar2 bs false)
      | .bad _ s1 => (s1.setCl 0 fun k => { k with bar2Ep := true }).emit (.bar2 ones true)
      | .fault _ s1 => (bar2Error off false s1).emit (.bar2 ones false)

/-- BAR2_WRITE. -/
def bar2WriteAt (c off : Nat) (bs : List Byte) (s : State) : State :=
  if c ≠ 0 ∨ !s.hostReady then s
  else
    let va := bar2Va s off
    if !bar2Ok s .write va bs.length then bar2Error off true s
    else match (writeRange s (dmaAgent 0) .write va bs).2 with
      | .ok _ s1 => s1
      | .bad _ s1 => s1
      | .fault _ s1 => bar2Error off true s1

end Sys2Proof.Machine
end

