-- ==== Sys2Proof/Machine/ConfigSpace.lean ====
section
/-! DEFINITION. Configuration space and BAR4 of each function (R386–R388, R501). PRESUMED: registers, offsets and reset values
are those of the PCI Express base specification; the places of the capabilities are the model's (log entry 138). -/

namespace Sys2Proof.Machine

/-! Configuration dwords -/

/-- Dwords of the capabilities: MSI-X, PCI Express, and the extended AER, Device Serial Number, ARI, Resizable BAR, SR-IOV,
DOE and Device 3. -/
def dwMsix : Nat := 0x10
def dwPcie : Nat := 0x14
def dwAer : Nat := 0x40
def dwSerial : Nat := 0x54
def dwAri : Nat := 0x58
def dwRebar : Nat := 0x5C
def dwSriov : Nat := 0x60
def dwDoe : Nat := 0x70
def dwDev3 : Nat := 0x78

/-- The header of an extended capability: identifier, version 1 and the next one's place. -/
def extHead (id next : Nat) : Nat := id + 0x10000 + 4 * next * 2 ^ 20

/-- log2 of BAR2's size in MiB, 10 to 19 (R388). DESIGN CHOICE: 512 GiB until the host picks a size. -/
def State.bar2Log (s : State) : Nat :=
  let n := field (s.cfgDw 0 (dwRebar + 2)).toNat 13 8
  if n = 0 then 19 else clampNat 10 19 n

/-- BAR2's size in bytes. -/
def State.bar2Size (s : State) : Nat := 2 ^ (s.bar2Log + 20)

/-- Low dword of a 64-bit BAR of `2 ^ n` bytes, bit 3 set for a prefetchable one. -/
def barLow (n : Nat) (prefetchable : Bool) (w : Nat) : Nat :=
  w % 2 ^ 32 / 2 ^ min n 32 * 2 ^ min n 32 + 4 + 8 * b2n prefetchable

def barHigh (n : Nat) (w : Nat) : Nat := w / 2 ^ (n - 32) * 2 ^ (n - 32)

/-- Current rate code, 5 for 32 GT/s to 7 for 128 GT/s, and width of the host link (R386); what the link trains to is the host's as
much as the module's, so it is one of the nine free. -/
def linkNow : Nat :=
  let w := (Config.cfgWord 0 0x18).toNat
  (5 + w % 3) * 2 ^ 16 + 4 * 2 ^ (w / 4 % 3) * 2 ^ 20

/-- May NumVFs change: VF Enable is 0. -/
def State.vfsOff (s : State) : Bool := !bit (s.cfgDw 0 (dwSriov + 2)).toNat 0

/-- What a configuration dword reads: the spec's features (R386, R388), what the host wrote where it may, and an opaque
constant where only the product gives the value. -/
def State.cfgRead (s : State) (fn dw : Nat) : Nat :=
  let w := (s.cfgDw fn dw).toNat
  let pf := fn == 0
  match dw with
  | 1 => 0x00100000 + w % 65536
  | 2 => 0x12000000 + (Config.cfgWord fn 2).toNat % 256
  | 4 => if pf then barLow 26 false w else 0
  | 5 => if pf then w else 0
  | 6 => if pf then barLow (s.bar2Log + 20) true w else 0
  | 7 => if pf then barHigh (s.bar2Log + 20) w else 0
  | 8 => if pf then barLow 16 false w else 0
  | 9 => if pf then w else 0
  | 13 => 4 * dwMsix
  | 15 => w % 256
  | 0x10 => 0x11 + 4 * dwPcie * 256 + (msixSize fn - 1) * 65536 + w / 2 ^ 30 * 2 ^ 30
  | 0x11 => 4
  | 0x12 => 4 + 4096
  | 0x14 => 0x10 + 0x20000 + 2 ^ 31
  | 0x15 => 2 + 2 ^ 28
  | 0x16 => w % 2 ^ 15
  | 0x17 => 7 + 16 * 16 + 2 * 2 ^ 10 + field (Config.cfgWord fn 0x17).toNat 17 15 * 2 ^ 15
  | 0x18 => w % 4 + linkNow
  | 0x1D => 0x30000 + (Config.cfgWord fn 0x1D).toNat % 16
  | 0x1E => w % 2 ^ 13
  | 0x1F => 0xE0
  | 0x20 => if w % 16 = 0 then 7 else w % 16
  | 0x40 => extHead 0x0001 dwSerial
  | 0x54 => extHead 0x0003 dwAri
  | 0x58 => extHead 0x000E (if pf then dwRebar else 0)
  | 0x5C => if pf then extHead 0x0015 dwSriov else 0
  | 0x5D => if pf then 0x00FFC000 else 0
  | 0x5E => if pf then 2 + 0x20 + s.bar2Log * 256 else 0
  | 0x60 => if pf then extHead 0x0010 dwDoe else 0
  | 0x61 => if pf then 2 else 0
  | 0x62 => if pf then w % 32 else 0
  | 0x63 => if pf then 31 + 31 * 65536 else 0
  | 0x64 => if pf then w % 32 else 0
  | 0x65 => if pf then 1 + 65536 else 0
  | 0x67 => if pf then 0x553 else 0
  | 0x68 => if pf then (if w = 0 then 1 else w) else 0
  | 0x69 => if pf then barLow 20 false w else 0
  | 0x6A => if pf then w else 0
  | 0x6B => 0
  | 0x6C => 0
  | 0x6D => if pf then barLow 16 false w else 0
  | 0x6E => if pf then w else 0
  | 0x6F => 0
  | 0x70 => if pf then extHead 0x002E dwDev3 else 0
  | 0x78 => if pf then extHead 0x002F 0 else 0
  | 0x79 => if pf then 0xE + field (Config.cfgWord fn 0x79).toNat 9 4 * 16 else 0
  | 0x7A => if pf then w else 0
  | _ => (Config.cfgWord fn dw).toNat

/-- Bits of a configuration dword that the host writes. -/
def cfgMask (s : State) (fn dw : Nat) : W32 :=
  match dw with
  | 1 => 0x0546
  | 4 => if fn = 0 then 0xFC000000 else 0
  | 5 => if fn = 0 then 0xFFFFFFFF else 0
  | 6 => if fn = 0 then 0xFFFFFFFF else 0
  | 7 => if fn = 0 then 0xFFFFFFFF else 0
  | 8 => if fn = 0 then 0xFFFF0000 else 0
  | 9 => if fn = 0 then 0xFFFFFFFF else 0
  | 15 => 0xFF
  | 0x10 => 0xC0000000
  | 0x16 => 0x7FFF
  | 0x18 => 0x3
  | 0x1E => 0x100F
  | 0x20 => 0xF
  | 0x5E => if fn = 0 then 0x3F00 else 0
  | 0x62 => if fn = 0 then 0x19 else 0
  | 0x64 => if fn = 0 ∧ s.vfsOff then 0x1F else 0
  | 0x68 => if fn = 0 ∧ s.vfsOff then 0x553 else 0
  | 0x69 => if fn = 0 then 0xFFF00000 else 0
  | 0x6A => if fn = 0 then 0xFFFFFFFF else 0
  | 0x6D => if fn = 0 then 0xFFFF0000 else 0
  | 0x6E => if fn = 0 then 0xFFFFFFFF else 0
  | 0x7A => if fn = 0 then 0xC else 0
  | _ => 0

/-! MSI-X messages (R386, R406) -/

/-- Send the pending messages of a function that may leave now. -/
def msixFlush (fn : Nat) (s : State) : State :=
  (List.range (msixSize fn)).foldl (fun s v =>
    if s.conn.pba.get false (256 * fn + v) && s.msixOpen fn v then
      { s with conn := { s.conn with pba := SMap.set false s.conn.pba (256 * fn + v) false } }.emit (.msix fn v)
    else s) s

/-- A function-level reset clears what the host configured of the function (R387). -/
def flrConfig (fn : Nat) (s : State) : State :=
  { s with conn := { s.conn with
    cfg := SMap.clear s.conn.cfg (1024 * fn) 1024
    msix := s.conn.msix.filter fun e => e.1 / 256 != fn
    pba := s.conn.pba.filter fun e => e.1 / 256 != fn } }

/-- The function-level reset of a function (R386, R387). -/
def flr (fn : Nat) (s : State) : State := flrConfig fn (if fn = 0 then resetPf s else resetClient fn s)

/-- A configuration write: the bits that the host may change; bit 15 of the PCI Express device control starts an FLR. -/
def cfgWrite (fn dw : Nat) (v : W32) (s : State) : State :=
  if dw = dwPcie + 2 ∧ bit v.toNat 15 then flr fn s
  else
    let m := cfgMask s fn dw
    let s1 := { s with conn := { s.conn with
      cfg := SMap.set 0 s.conn.cfg (1024 * fn + dw) ((s.cfgDw fn dw &&& ~~~m) ||| (v &&& m)) } }
    if dw = dwMsix then msixFlush fn s1 else s1

/-- A configuration request of a function once boot has ended: a completion, and for a read its data. -/
def cfgRequest (fn off : Nat) (write : Option W32) (s : State) : State :=
  match write with
  | some v => (cfgWrite fn (off / 4) v s).emit (.config false)
  | none => (s.emit (.config false)).emit (.data (BitVec.ofNat 32 (s.cfgRead fn (off / 4))))

/-! BAR4 (R388): entries of 16 bytes, the pending bits from byte 4,096 on -/

def State.msixEnt (s : State) (fn v : Nat) : MsixEntry := s.conn.msix.get MsixEntry.reset (256 * fn + v)

/-- What a dword of BAR4 reads. -/
def State.bar4Read (s : State) (fn off : Nat) : Nat :=
  let v := off / 16
  if v < msixSize fn then
    let e := s.msixEnt fn v
    match off % 16 with
    | 0 => e.addr.toNat % 2 ^ 32
    | 4 => e.addr.toNat / 2 ^ 32
    | 8 => e.data.toNat
    | _ => b2n e.mask
  else if 4096 ≤ off ∧ off < 4096 + msixSize fn / 8 then
    ((List.range 32).map fun k => b2n (s.conn.pba.get false (256 * fn + (off - 4096) / 4 * 32 + k)) * 2 ^ k).foldl (· + ·) 0
  else 0

/-- A write of a dword of BAR4; the pending bits are read-only, and an entry that is unmasked sends what waits. -/
def bar4Write (fn off : Nat) (v : W32) (s : State) : State :=
  let k := off / 16
  if msixSize fn ≤ k then s
  else
    let e := s.msixEnt fn k
    let e1 : MsixEntry := match off % 16 with
      | 0 => { e with addr := (e.addr &&& 0xFFFFFFFF00000000#64) ||| (v &&& 0xFFFFFFFC#32).setWidth 64 }
      | 4 => { e with addr := (e.addr &&& 0xFFFFFFFF#64) ||| v.setWidth 64 <<< 32 }
      | 8 => { e with data := v }
      | _ => { e with mask := bit v.toNat 0 }
    msixFlush fn { s with conn := { s.conn with msix := SMap.set MsixEntry.reset s.conn.msix (256 * fn + k) e1 } }

/-- An offset of a register access that names BAR4 (R388). DESIGN CHOICE: a register command names a byte of BAR n, for n
other than 0, by n × 2³² and the byte. -/
def bar4Off (off : Nat) : Option Nat :=
  if 4 * 2 ^ 32 ≤ off ∧ off < 4 * 2 ^ 32 + 65536 then some (off - 4 * 2 ^ 32) else none

end Sys2Proof.Machine
end

