-- ==== Sys2Proof/Machine/Crypto.lean ====
section
/-! DEFINITION. SHA-512 and the ECDSA check on curve P-521 that the security block uses (R498, R503). The spec names
them; their definitions are those of FIPS 180-4 and FIPS 186 (PRESUMED). -/

namespace Sys2Proof.Machine

/-! SHA-512 -/

/-- The largest `x` with `x ^ e ≤ n`, by its bits from `b - 1` down, on top of what is found. -/
def floorRoot (e n : Nat) : Nat → Nat → Nat
  | 0, x => x
  | b + 1, x => floorRoot e n b (if (x + 2 ^ b) ^ e ≤ n then x + 2 ^ b else x)

/-- First 64 bits of the fraction of the `e`-th root of `p` (below 16). -/
def rootBits (e p : Nat) : W64 := BitVec.ofNat 64 (floorRoot e (p * 2 ^ (64 * e)) 68 0)

/-- Primes below `n`. -/
def primesBelow (n : Nat) : List Nat := (iota 2 (n - 2)).filter fun p => (iota 2 (p - 2)).all fun d => decide (p % d ≠ 0)

/-- The 80 round constants: from the cube roots of the primes up to 409, the eightieth. -/
def shaK : List W64 := (primesBelow 410).map (rootBits 3)
/-- The initial hash value: from the square roots of the first eight primes. -/
def shaH : List W64 := (primesBelow 20).map (rootBits 2)

/-- A number of big-endian bytes. -/
def beNat (bs : List Byte) : Nat := leNat bs.reverse
def beBytes (x n : Nat) : List Byte := (leBytes x n).reverse

/-- The message with its padding, in 64-bit words. -/
def shaWords (bs : List Byte) : List W64 :=
  let pad := 128 - (bs.length + 17) % 128
  let m := bs ++ (0x80 : Byte) :: List.replicate (pad % 128) 0 ++ beBytes (8 * bs.length) 16
  (List.range (m.length / 8)).map fun k => BitVec.ofNat 64 (beNat ((m.drop (8 * k)).take 8))

/-- Exclusive or of the rotations of `x` to the right by each of a list. -/
def rotations (rs : List Nat) (x : W64) : W64 := (rs.map x.rotateRight).foldl (· ^^^ ·) 0

/-- The next word of the schedule after the 16 words `w`. -/
def shaNext (w : List W64) : W64 :=
  let old := w.getD 1 0
  let late := w.getD 14 0
  w.headD 0 + w.getD 9 0 + (rotations [1, 8] old ^^^ old >>> 7) + (rotations [19, 61] late ^^^ late >>> 6)

/-- One round with its constant and word on the eight working variables; in each of the two Boolean functions a bit of the
first variable chooses between bits of the others. -/
def shaRound (kw : W64) (v : List W64) : List W64 :=
  match v with
  | [a, b, c, d, e, f, g, h] =>
    let x := h + rotations [14, 18, 41] e + (g ^^^ (e &&& (f ^^^ g))) + kw
    [x + rotations [28, 34, 39] a + ((b &&& c) ||| (a &&& (b ||| c))), a, b, c, d + x, e, f, g]
  | _ => v

/-- The rounds that are left: their constants, the next 16 words and the working variables. -/
def shaRounds : List W64 → List W64 → List W64 → List W64
  | [], _, v => v
  | k :: ks, w, v => shaRounds ks (w.drop 1 ++ [shaNext w]) (shaRound (k + w.headD 0) v)

def shaBlocks (ks : List W64) : Nat → List W64 → List W64 → List W64
  | 0, _, h => h
  | n + 1, ws, h => shaBlocks ks n (ws.drop 16) (List.zipWith (· + ·) h (shaRounds ks (ws.take 16) h))

/-- SHA-512 of a byte string, as 64 bytes. -/
def sha512 (bs : List Byte) : List Byte :=
  let ws := shaWords bs
  ((shaBlocks shaK (ws.length / 16) ws shaH).map fun x => beBytes x.toNat 8).flatten

/-! P-521 -/

def p521 : Nat := 2 ^ 521 - 1
def p521B : Nat := 0x0051953EB9618E1C9A1F929A21A0B68540EEA2DA725B99B315F3B8B489918EF109E156193951EC7E937B1652C0BD3BB1BF073573DF883D2C34F1EF451FD46B503F00
def p521Gx : Nat := 0x00C6858E06B70404E9CD9E3ECB662395B4429C648139053FB521F828AF606B4D3DBAA14B5E77EFE75928FE1DC127A2FFA8DE3348B3C1856A429BF97E7E31C2E5BD66
def p521Gy : Nat := 0x011839296A789A3BC0045C8A5FB42C7D1BD998F54449579B446817AFBD17273E662C97EE72995EF42640C550B9013FAD0761353C7086A272C24088BE94769FD16650
/-- The order of the base point. -/
def p521N : Nat := 0x01FFFFFFFFFFFFFFFFFFFFFFFFFFFFFFFFFFFFFFFFFFFFFFFFFFFFFFFFFFFFFFFFFA51868783BF2F966B7FCC0148F709A5D03BB5C9B8899C47AEBB6FB71E91386409

/-- `b ^ e mod m`, over the `n` low bits of the exponent. -/
def powMod (m : Nat) : Nat → Nat → Nat → Nat
  | 0, _, _ => 1 % m
  | n + 1, b, e =>
    let r := powMod m n (b * b % m) (e / 2)
    if e % 2 = 1 then r * b % m else r

/-- Inverse modulo a prime below 2^521. -/
def invMod (m x : Nat) : Nat := powMod m 521 (x % m) (m - 2)
def subMod (m a b : Nat) : Nat := (a + m - b % m) % m

/-- A point of the curve; none is the point at infinity. -/
abbrev Point := Option (Nat × Nat)

/-- Third intersection of the line with slope `l` through two points, reflected. -/
def chord (l x1 y1 x2 : Nat) : Nat × Nat :=
  let x := subMod p521 (subMod p521 (l * l) x1) x2
  (x, subMod p521 (l * subMod p521 x1 x) y1)

def addPoint (a b : Point) : Point :=
  match a, b with
  | none, q => q
  | q, none => q
  | some (x1, y1), some (x2, y2) =>
    if x1 = x2 then
      if (y1 + y2) % p521 = 0 then none
      else some (chord (subMod p521 (3 * x1 * x1) 3 * invMod p521 (2 * y1) % p521) x1 y1 x2)
    else some (chord (subMod p521 y2 y1 * invMod p521 (subMod p521 x2 x1) % p521) x1 y1 x2)

/-- `k` times a point, over the `n` low bits of `k`. -/
def mulPoint : Nat → Nat → Point → Point
  | 0, _, _ => none
  | n + 1, k, q =>
    let r := mulPoint n (k / 2) (addPoint q q)
    if k % 2 = 1 then addPoint r q else r

def onCurve (x y : Nat) : Bool :=
  decide (x < p521) && decide (y < p521) && y * y % p521 == subMod p521 (x * x * x + p521B) (3 * x)

/-- The ECDSA check of (r, s) over a 512-bit digest with public key (x, y). -/
def ecdsaOk (key : Nat × Nat) (digest : List Byte) (r s : Nat) : Bool :=
  if r = 0 ∨ p521N ≤ r ∨ s = 0 ∨ p521N ≤ s ∨ !onCurve key.1 key.2 then false
  else
    let w := invMod p521N s
    let u1 := beNat digest * w % p521N
    let u2 := r * w % p521N
    match addPoint (mulPoint 521 u1 (some (p521Gx, p521Gy))) (mulPoint 521 u2 (some key)) with
    | none => false
    | some (x, _) => x % p521N == r

/-- The uncompressed encoding of a public key. -/
def pointBytes (key : Nat × Nat) : List Byte := (0x04 : Byte) :: beBytes key.1 66 ++ beBytes key.2 66

end Sys2Proof.Machine
end

