-- ==== Sys2Proof/Machine/Trust.lean ====
section
/-! DEFINITION. The flash, images, OTP and measurements (R495–R498, R500, R503, R511–R514, R550). -/

namespace Sys2Proof.Machine

/-! Flash (R495, R496) -/

def State.setHearth (s : State) (f : Hearth → Hearth) : State := { s with hearth := f s.hearth }

def State.flashBytes (s : State) (a n : Nat) : List Byte := SMap.getMany flashBlank s.hearth.flash a n

def writeFlash (a : Nat) (bs : List Byte) (s : State) : State :=
  s.setHearth fun h => { h with flash := SMap.setMany flashBlank h.flash a bs }

def slotBytes : Nat := 33554432
/-- First byte of an image slot. -/
def slotBase (slot : Nat) : Nat := if slot = 0 then 0x0100000 else 0x2100000
def crashBase : Nat := 0x7E00000
def logBase : Nat := 0x4100000
def logBytes : Nat := 61 * 2 ^ 20
/-- The certificate chain and calibration store: what has been written in its 1 MiB. -/
def storeBase : Nat := 0x7F00000
def Hearth.store (h : Hearth) : List (Nat × Byte) := h.flash.filter fun e => decide (storeBase ≤ e.1) && decide (e.1 < storeBase + 2 ^ 20)

/-- The fields of a flash header copy. -/
structure FlashHdr where
  gen : Nat
  active : Nat
  trial : Bool
  tries : Nat
  deriving DecidableEq, Repr

def FlashHdr.bytes (h : FlashHdr) : List Byte :=
  let b := leBytes h.gen 4 ++ leBytes h.active 1 ++ leBytes (b2n h.trial) 1 ++ leBytes h.tries 1 ++ leBytes 0 53
  b ++ leBytes (crc32c b) 4

/-- A header copy (0 or 1), if it is valid. -/
def readHdr (s : State) (copy : Nat) : Option FlashHdr :=
  let b := s.flashBytes (copy * 0x80000) 64
  if recField b 60 4 = crc32c (b.take 60) then
    some ⟨recField b 0 4, recField b 4 1 % 2, bit (recField b 5 1) 0, recField b 6 1 % 4⟩
  else none

/-- The ruling copy with its number. -/
def rulingHdr (s : State) : Option (Nat × FlashHdr) :=
  match readHdr s 0, readHdr s 1 with
  | some a, some b => if a.gen < b.gen then some (1, b) else some (0, a)
  | some a, none => some (0, a)
  | none, some b => some (1, b)
  | none, none => none

/-- The header in force; with no valid copy all its fields are 0. -/
def flashHdr (s : State) : FlashHdr := ((rulingHdr s).map (·.2)).getD ⟨0, 0, false, 0⟩

/-- Change the header: the other copy is written with GEN + 1. -/
def writeHdr (active : Nat) (trial : Bool) (tries : Nat) (s : State) : State :=
  let copy := match rulingHdr s with
    | some (0, _) => 1
    | _ => 0
  writeFlash (copy * 0x80000) (FlashHdr.bytes ⟨((flashHdr s).gen + 1) % 2 ^ 32, active, trial, tries⟩) s

/-! OTP (R511) -/

def State.otpBytes (s : State) (a n : Nat) : List Byte := SMap.getMany 0 s.hearth.otp a n

/-- Program OTP: bits change only from 0 to 1. -/
def otpProgram (a : Nat) (bs : List Byte) (s : State) : State :=
  s.setHearth fun h =>
    let new := List.zipWith (fun x y => x ||| y) (SMap.getMany 0 h.otp a bs.length) bs
    { h with otp := SMap.setMany 0 h.otp a new }

def keyHash (s : State) (k : Nat) : List Byte := s.otpBytes (0x100 + 64 * k) 64
/-- OTP holds a key hash at an index (0–3): it is not blank. -/
def keyPresent (s : State) (k : Nat) : Bool := decide (k ≤ 3) && (keyHash s k).any (· != 0)
def keyRevoked (s : State) (k : Nat) : Bool := bit (leNat (s.otpBytes 0x200 1)) k

def popcount : Nat → Nat → Nat
  | 0, _ => 0
  | n + 1, x => x % 2 + popcount n (x / 2)

/-- The SVN count: bits set. -/
def svnCount (s : State) : Nat := popcount 64 (leNat (s.otpBytes 0x208 8))

/-- Set the lowest clear bits of a 64-bit number until `n` are set. -/
def fillBits (n : Nat) : Nat → Nat → Nat
  | 0, x => x
  | k + 1, x =>
    if popcount 64 x < n then
      match (List.range 64).find? fun j => !bit x j with
      | some j => fillBits n k (x + 2 ^ j)
      | none => x
    else x

/-- Raise the SVN count (R518). -/
def raiseSvn (n : Nat) (s : State) : State :=
  otpProgram 0x208 (leBytes (fillBits n 64 (leNat (s.otpBytes 0x208 8))) 8) s

/-! Settings generations (R512, R513) -/

def genBytes (s : State) (k : Nat) : List Byte := s.otpBytes (0x400 + 256 * k) 256
def genValid (b : List Byte) : Bool := recField b 2 1 == 0xA5 && recField b 252 4 == crc32c (b.take 252)

/-- The ruling generation's bytes. -/
def rulingGen (s : State) : Option (List Byte) :=
  (((List.range 4).map (genBytes s)).filter genValid).foldl (fun best b => match best with
    | none => some b
    | some a => if recField a 0 2 < recField b 0 2 then some b else some a) none

/-- The lowest blank generation slot. -/
def blankGen (s : State) : Option Nat := (List.range 4).find? fun k => (genBytes s k).all (· == 0)

/-- OTP_WRITE_GEN: program the next blank slot, GEN first, then the fields, the CRC and last SEAL, of which a free number of
bytes take; the status that it answers once it has read the slot back. -/
def writeGen (fields : List Byte) (s : State) : State × Nat :=
  match blankGen s with
  | none => (s, 0x0906)
  | some k =>
    let gen := (((rulingGen s).map fun b => recField b 0 2).getD 0 + 1) % 65536
    let b := leBytes gen 2 ++ leBytes 0xA5 1 ++ (fields.drop 3).take 249
    let a := 0x400 + 256 * k
    let done := Config.otpDone s.fresh
    let sealed (n : Nat) : List Byte := if n < 256 then [] else leBytes 0xA5 1
    let s1 := otpProgram (a + 2) (sealed done)
      (otpProgram (a + 3) (((b ++ leBytes (crc32c b) 4).drop 3).take (done - 2)) (otpProgram a (b.take (min 2 done))
        { s with fresh := s.fresh + 1 }))
    (s1, if genValid (genBytes s1 k) then 0 else 0x0907)

/-! The repair log (R550, R551) -/

/-- One entry's word. -/
def repairWord (kind die index reason : Nat) : Nat :=
  let w := kind * 2 ^ 28 + die * 2 ^ 27 + index * 2 ^ 16 + reason * 2 ^ 8
  w + (255 - Nat.xor (Nat.xor (field w 31 24) (field w 23 16)) (field w 15 8))

/-- Write an entry; with no blank one TEST_STATUS shows it and the memory alarm is raised. -/
def writeRepair (kind die index reason : Nat) (s : State) : State :=
  match (List.range 128).find? fun k => (s.otpBytes (0x800 + 4 * k) 4).all (· == 0) with
  | some k => otpProgram (0x800 + 4 * k) (leBytes (repairWord kind die index (reason % 256)) 4) s
  | none => raiseAlarm { s with test := { s.test with code := 0x0A02 } } 2 0x0A02 0x0A

/-- Entries that are not blank. -/
def repairsUsed (s : State) : Nat :=
  ((List.range 128).filter fun k => (s.otpBytes (0x800 + 4 * k) 4).any (· != 0)).length

/-! Images (R497, R498) -/

/-- Fields of the image in a slot. -/
def imgField (s : State) (slot i n : Nat) : Nat := leNat (s.flashBytes (slotBase slot + i) n)
def imgStages (s : State) (slot : Nat) : Nat := imgField s slot 6 1

/-- A stage of the table: offset, length, target. -/
structure Stage where
  offset : Nat
  length : Nat
  target : Nat
  deriving DecidableEq, Repr

def imgStage (s : State) (slot k : Nat) : Stage :=
  ⟨imgField s slot (64 + 80 * k) 4, imgField s slot (68 + 80 * k) 4, imgField s slot (72 + 80 * k) 1⟩
def stageTable (s : State) (slot : Nat) : List Stage := (List.range (imgStages s slot)).map (imgStage s slot)
def stageHash (s : State) (slot k : Nat) : List Byte := s.flashBytes (slotBase slot + 80 + 80 * k) 64

def stagesDisjoint : List Stage → Bool
  | [] => true
  | a :: t => (t.all fun b => (decide (a.offset + a.length ≤ b.offset) || decide (b.offset + b.length ≤ a.offset)) &&
      a.target != b.target) && stagesDisjoint t

/-- Item 1 of R498. -/
def imgFormatOk (s : State) (slot : Nat) : Bool :=
  let n := imgStages s slot
  let bytes := imgField s slot 16 4
  let ts := stageTable s slot
  imgField s slot 0 4 == 0x4E394648 && imgField s slot 4 2 == 1 && decide (1 ≤ n) && decide (n ≤ 8) &&
  decide (imgField s slot 8 4 ≤ 64) && decide (1024 ≤ bytes) && decide (bytes ≤ slotBytes) &&
  imgField s slot 20 44 == 0 && imgField s slot (64 + 80 * n) (80 * (8 - n)) == 0 && imgField s slot 836 188 == 0 &&
  ((List.range n).all fun k => imgField s slot (73 + 80 * k) 7 == 0) &&
  (ts.all fun t => decide (1024 ≤ t.offset) && decide (1 ≤ t.length) && decide (t.offset + t.length ≤ bytes) &&
    decide (t.target ≤ 3)) &&
  stagesDisjoint ts && ts.any fun t => t.target == 0

/-- Item 3 of R498. -/
def imgSigned (s : State) (slot : Nat) : Bool :=
  let k := imgField s slot 7 1
  let key := Config.storeKey s.hearth.store k
  sha512 (pointBytes key) == keyHash s k &&
    ecdsaOk key (sha512 (s.flashBytes (slotBase slot) 704)) (imgField s slot 704 66) (imgField s slot 770 66)

/-- The code of R498 with which the image in a slot fails; 0: it verifies. -/
def verifyImage (s : State) (slot : Nat) : Nat :=
  let k := imgField s slot 7 1
  if !imgFormatOk s slot then 0x0908
  else if !keyPresent s k || keyRevoked s k then 0x0902
  else if !imgSigned s slot then 0x0901
  else if imgField s slot 8 4 < svnCount s then 0x0903
  else if (List.range (imgStages s slot)).any fun j =>
      let t := imgStage s slot j
      sha512 (s.flashBytes (slotBase slot + t.offset) t.length) != stageHash s slot j then 0x0904
  else 0

/-- HASH of the stage with a target. -/
def targetHash (s : State) (slot target : Nat) : Option (List Byte) :=
  ((List.range (imgStages s slot)).find? fun j => (imgStage s slot j).target == target).map (stageHash s slot)

/-- VERSION, SVN and KEY of the running image; 0 while the recovery kernel runs. -/
def runningField (s : State) (i n : Nat) : Nat := recField s.hearth.running i n
def runningVersion (s : State) : Nat := runningField s 12 4
def runningSvn (s : State) : Nat := runningField s 8 4

/-! Measurements (R503) -/

/-- Extend a slot: the log holds 256 entries and counts the others as lost. -/
def extend (slot : Nat) (digest : List Byte) (s : State) : State :=
  s.setHearth fun h =>
    let old := SMap.get (0 : BitVec 512) h.meas slot
    let new := BitVec.ofNat 512 (leNat (sha512 (leBytes old.toNat 64 ++ digest)))
    let full := decide (256 ≤ h.mlog.length)
    { h with meas := SMap.set 0 h.meas slot new
             mlog := if full then h.mlog else h.mlog ++ [(slot, BitVec.ofNat 512 (leNat digest))]
             mlogLost := if full then h.mlogLost + 1 else h.mlogLost }

/-- The extensions of boot before and after the image is chosen. -/
def measureOtp (s : State) : State :=
  let s1 := extend 1 (sha512 (s.otpBytes 0 512 ++ s.otpBytes 0x200 1 ++ s.otpBytes 0x208 8)) s
  match rulingGen s with
  | some g => extend 1 (sha512 g) s1
  | none => s1

def measureImage (slot : Nat) (s : State) : State :=
  let s1 := match rulingHdr s with
    | some (c, _) => extend 2 (sha512 (s.flashBytes (c * 0x80000) 64)) s
    | none => s
  let s2 := extend 2 (sha512 (s.flashBytes (slotBase slot) 836)) s1
  [0, 1, 2, 3].foldl (fun s t => match targetHash s slot t with
    | some h => extend (3 + t) h s
    | none => s) s2

end Sys2Proof.Machine
end

