-- ==== Sys2Proof/Machine/PowerTel.lean ====
section
/-! DEFINITION. Emergency levels, clock steps, trips, gating and the crash record (R525–R543, R555). -/

namespace Sys2Proof.Machine

def State.setPower (s : State) (f : Power → Power) : State := { s with power := f s.power }
def State.setTelem (s : State) (f : Telem → Telem) : State := { s with telem := f s.telem }

/-! Limits (R525) -/

/-- The level that the power, current, voltage and temperature readings each call for. -/
def powerLevel (p : Power) : Nat := if 2400 < p.watts then 2 else if p.limit < p.watts then 1 else 0
def currentLevel (p : Power) : Nat := if 2000 < p.amps then 2 else 0
def voltageLevel (p : Power) : Nat := if p.mv < 45000 then 3 else if p.mv < 47000 then 2 else 0
def heatLevel (p : Power) : Nat := if 105 ≤ p.tj then 3 else if 100 ≤ p.tj then 2 else if 95 ≤ p.tj then 1 else 0

/-- The highest level whose condition holds (R529). -/
def wantedLevel (p : Power) : Nat := max (max (powerLevel p) (currentLevel p)) (max (voltageLevel p) (heatLevel p))

/-- Every condition of a level is clear by its hysteresis. -/
def levelClear (p : Power) : Nat → Bool
  | 1 => decide (100 * p.watts ≤ 95 * p.limit) && decide (p.tj ≤ 90)
  | 2 => decide (p.watts ≤ 2280) && decide (p.amps ≤ 1900) && decide (48000 ≤ p.mv) && decide (p.tj ≤ 95)
  | 3 => decide (46000 ≤ p.mv) && decide (p.tj ≤ 100)
  | _ => false

/-- CAUSE of PWR_STATUS: power, current, voltage, temperature. -/
def causeBits (p : Power) : Nat :=
  b2n (powerLevel p != 0) + 2 * b2n (currentLevel p != 0) + 4 * b2n (voltageLevel p != 0) + 8 * b2n (heatLevel p != 0)

/-- PWR_STATUS (R543). -/
def pwrStatus (p : Power) : Nat :=
  p.level * 2 ^ 30 + p.step * 2 ^ 24 + causeBits p * 2 ^ 20 + min 255 p.tj.toNat * 2 ^ 12 + min 4095 p.watts

/-! The crash record (R540, R555) -/

/-- A Hearth core's state as the record holds it: halted, and its restarts. -/
def coreWord (h : HCore) : Nat := b2n h.halted * 2 ^ 17 + h.restarts.toNat

/-- A fatal hardware error: the first freezes the record and raises the crash alarm, later ones count. -/
def freezeCrash (code : Nat) (s : State) : State :=
  match s.telem.crash with
  | some _ => s.setTelem fun t => { t with later := min 8191 (t.later + 1) }
  | none =>
    let cores := (List.range 4).map fun k => coreWord (s.hearth.cores.get HCore.reset k)
    let r : CrashRec := { code := code, time := s.now, alarm := s.telem.alarm.toNat, pwr := pwrStatus s.power
                          events := s.telem.recent, cores := cores }
    raiseAlarm (s.setTelem fun t => { t with crash := some r, inFlash := false, later := 0 }) 7 code 8

/-- The 4 KiB record in the flash: sequence number, code, time, alarms, PWR_STATUS, core states, events. -/
def CrashRec.bytes (r : CrashRec) (seq : Nat) : List Byte :=
  let b := leBytes seq 4 ++ leBytes r.code 4 ++ leBytes r.time 8 ++ leBytes r.alarm 4 ++ leBytes r.pwr 4
    ++ (r.cores.map fun c => leBytes c 4).flatten ++ leBytes r.events.length 4 ++ r.events.flatten
  (b ++ leBytes 0 4096).take 4096

/-- CRASH_COPY_COMPLETE: the flash controller runs under a trip, and from boot step 1 on. -/
def crashCopied (s : State) : State :=
  match s.telem.crash with
  | none => s
  | some r =>
    if s.telem.inFlash ∨ !s.conn.vin ∨ (s.power.trip.isNone ∧ s.hearth.stage = 0) then s
    else
      let n := s.hearth.crashSeq
      let s1 := writeFlash (crashBase + 4096 * (n % 256)) (r.bytes (n % 2 ^ 32)) s
      (s1.setHearth fun h => { h with crashSeq := n + 1 }).setTelem fun t => { t with inFlash := true }

/-- REARM. -/
def rearmCrash (s : State) : State := s.setTelem fun t => { t with crash := none, inFlash := false, later := 0 }

/-! The log partition (R495, R535) -/

def logBlockBytes : Nat := 65536
def logBlocks : Nat := logBytes / logBlockBytes

/-- The block that wear levelling erases next: the one of the lowest erase count, the first among equals, but the block in use. -/
def LogRing.next (g : LogRing) : Nat :=
  (List.range logBlocks).foldl (fun b k =>
    if k ≠ g.block ∧ (b = g.block ∨ g.erases.get 0 k < g.erases.get 0 b) then k else b) g.block

/-- Core 3 writes a log record with its sequence number; where it does not fit the block in use, the next one is erased. -/
def writeLog (bs : List Byte) (s : State) : State :=
  let g := s.hearth.log
  let r := leBytes g.seq.toNat 4 ++ bs
  if g.used + r.length ≤ logBlockBytes then
    (writeFlash (logBase + logBlockBytes * g.block + g.used) r s).setHearth fun h => { h with
      log := { g with used := g.used + r.length, seq := g.seq + 1 } }
  else
    let k := g.next
    let s1 := s.setHearth fun h => { h with flash := SMap.clear h.flash (logBase + logBlockBytes * k) logBlockBytes }
    (writeFlash (logBase + logBlockBytes * k) r s1).setHearth fun h => { h with
      log := { block := k, used := r.length, seq := g.seq + 1, erases := SMap.set 0 g.erases k (g.erases.get 0 k + 1) } }

/-! Trips (R526, R568) -/

/-- The rails go off: the link falls, TRIP# asserts and the crash record freezes. -/
def tripOff (code : Nat) (s : State) : State :=
  if !s.powered then s
  else
    let s1 := freezeCrash code s
    let s2 := s1.setPower fun p => { p with trip := some code }
    (({ s2 with conn := { s2.conn with pwrGood := false, linkUp := false, tripLow := true } }).emit (.pin 1 true)).emit (.pin 2 false)

/-! Levels and the clock step (R528, R529) -/

/-- Step that a level sets as it is entered. -/
def stepAt (p : Power) (level : Nat) : Nat :=
  match level with
  | 0 => p.fmax
  | 1 => min p.step p.fmax
  | _ => 8

/-- Raise an alarm when a condition of level 2 or above appears. -/
def alarmIf (b : Bool) (k : Nat) (level : Nat) (s : State) : State :=
  if b then raiseEvent (raiseAlarm s k 0 8) 0 8 0 (leBytes level 12) else s

/-- Act on new readings: trips first, then a rise of the level. -/
def actOn (old : Power) (s : State) : State :=
  let p := s.power
  let s1 := alarmIf (decide (2 ≤ max (currentLevel p) (voltageLevel p)) && decide (max (currentLevel old) (voltageLevel old) < 2)) 6 (wantedLevel p) s
  let s2 := alarmIf (decide (2 ≤ heatLevel p) && decide (heatLevel old < 2)) 5 (wantedLevel p) s1
  let l := wantedLevel p
  if p.level < l then
    s2.setPower fun q => { q with level := l, step := stepAt q l
                                  emergCnt := if q.level < 2 ∧ 2 ≤ l then satAdd q.emergCnt 1 else q.emergCnt }
  else s2

/-- A sample beyond a trip limit acts on the levels too, and trips (R525, R526). -/
def actAndTrip (old : Power) (code : Option Nat) (s : State) : State :=
  match code with
  | some c => tripOff c (actOn old s)
  | none => actOn old s

/-- SUPPLY_SAMPLE: input power over 1 ms, input voltage, core current over 10 µs. -/
def supplySample (watts mv amps : Nat) (s : State) : State :=
  if !s.conn.vin then s
  else
    let s1 := s.setPower fun p => { p with watts := watts, mv := mv, amps := amps }
    if !s.powered then s1
    else actAndTrip s.power
      (if mv < 42000 then some 0x0801 else if 58000 < mv then some 0x0802 else if 2200 < amps then some 0x0803 else none) s1

/-- JUNCTION_SAMPLE: the hottest junction. -/
def junctionSample (tj : Int) (s : State) : State :=
  if !s.conn.vin then s
  else
    let s1 := s.setPower fun p => { p with tj := tj }
    if !s.powered then s1
    else actAndTrip s.power (if 115 ≤ tj then some 0x0804 else none) s1

/-- Has every condition of the level been clear for 1 ms (R529)? Each level's ticks count by themselves. -/
def mayFall (p : Power) : Bool := levelClear p p.level && decide (3125 ≤ p.clear.get 0 p.level)

/-- LEVEL_FALL: one step down; answers that came while the array clock stood take effect. -/
def levelFall (s : State) : State :=
  if s.powered ∧ mayFall s.power then
    settleCodec (takeAnswers (s.setPower fun p => { p with level := p.level - 1, step := stepAt p (p.level - 1) }))
  else s

/-- CLOCK_STEP_DOWN: at level 1, while a level-1 condition holds. -/
def clockDown (s : State) : State :=
  if s.powered ∧ s.power.level = 1 ∧ wantedLevel s.power = 1 then
    s.setPower fun p => { p with step := max 8 (p.step - 1) }
  else s

/-- At level 1 with input power below 95 % of PWR_LIMIT. -/
def hasRoom (p : Power) : Bool := decide (p.level = 1) && decide (100 * p.watts < 95 * p.limit)

/-- CLOCK_STEP_UP: every 3,125 ticks at level 1 while input power is below 95 % of PWR_LIMIT. -/
def clockUp (s : State) : State :=
  if s.powered ∧ hasRoom s.power ∧ 3125 ≤ s.power.room then
    s.setPower fun p => { p with step := min p.fmax (p.step + 1), room := 0 }
  else s

/-- PWR_FMAX: a lower limit takes effect at once, and level 0 runs at it. -/
def setFmax (v : Nat) (s : State) : State :=
  s.setPower fun p =>
    let f := clampNat 8 32 v
    { p with fmax := f, step := if p.level = 0 then f else min p.step f }

/-- A tick's part in the counts that the power controller keeps (R516, R529, R533). -/
def powerTick (idle : Bool) (p : Power) : Power :=
  { p with
    clear := [1, 2, 3].foldl (fun m l => SMap.set 0 m l (if levelClear p l then p.clear.get 0 l + 1 else 0)) p.clear
    room := if hasRoom p then p.room + 1 else 0
    idle := if idle then p.idle + 1 else 0
    calm := if p.level < 2 then p.calm + 1 else 0 }

/-! Gating (R533, R534) -/

/-- No run owns the array and none is ready. -/
def arrayIdle (s : State) : Bool := decide (s.stile.array = .free) && s.readyRuns.isEmpty

/-- GATE_IDLE_EXPIRY: after PWR_GATE_IDLE ticks with no run on the array and none ready, idle setts gate. -/
def gateArray (s : State) : State :=
  if !s.powered ∨ !arrayIdle s ∨ s.power.idle < s.power.gateIdle.toNat then s
  else (s.setts.map (·.1)).foldl (fun s i => s.setSett i fun t =>
    if t.phase = .idle ∨ t.phase = .completed ∨ t.phase = .saved then { t with phase := .gated } else t) s

/-- WAKE_COMPLETE: sett columns 0–33 (17 die + column), codec cores 34–57, Mortar 58, ports 59–70.
Mortar is awake while a context is bound, and a port's state says whether it is. Units that a PLL feeds which did not lock stay
gated. -/
def wakeUnit (unit : Nat) (locked : Bool) (s : State) : State :=
  if !s.powered ∨ 70 < unit then s
  else if !locked then raiseEvent s 0x0806 8 0 (leBytes unit 12)
  else if unit < 34 then
    (List.range 12).foldl (fun s r => s.setSett (204 * (unit / 17) + 17 * r + unit % 17) fun t =>
      if t.phase = .gated then { t with phase := .idle } else { t with asleep := false }) s
  else if unit < 58 then wakeCore (unit - 34) s
  else s

/-! Background work (R535, R539) -/

/-- The readings of a sample: clock step, input power, millivolts, amperes, junction. -/
def sampleBytes (p : Power) : List Byte :=
  leBytes p.step 2 ++ leBytes p.watts 2 ++ leBytes p.mv 4 ++ leBytes p.amps 2 ++ leBytes p.tj.toNat 2

/-- TELEMETRY_SAMPLE: what was gathered is published, to the trace and to the log, and new readings are gathered. -/
def telemSample (s : State) : State :=
  if s.hearthRuns then
    let s1 := if s.telem.gathered then writeLog (leBytes s.now 8 ++ sampleBytes s.power) s else s
    s1.setTelem fun t => { t.traced 7 (sampleBytes s.power) with gathered := true }
  else s

/-- AGING_READOUT: the guard raises the core rail by 5 mV up to +40 mV, then lowers the top clock step. -/
def agingReadout (slack : Int) (s : State) : State :=
  if !s.hearthRuns ∨ Config.agingThreshold ≤ slack then s
  else if s.power.railMv < 40 then s.setPower fun p => { p with railMv := p.railMv + 5 }
  else raiseAlarm (setFmax (s.power.fmax - 1) s) 5 0 8

end Sys2Proof.Machine
end

