-- ==== Sys2Proof/Machine/Hearth.lean ====
section
/-! DEFINITION. Hearth's cores, mailboxes and firmware update (R492–R494, R506–R510, R513–R518). -/

namespace Sys2Proof.Machine

/-! Cores and duties (R492–R494) -/

def State.hcore (s : State) (k : Nat) : HCore := s.hearth.cores.get HCore.reset k
def State.setHcore (s : State) (k : Nat) (f : HCore → HCore) : State :=
  s.setHearth fun h => { h with cores := SMap.modify HCore.reset h.cores k f }

/-- The core that holds duty `d`: the first in service, counting upward modulo 4. -/
def dutyCore (s : State) (d : Nat) : Option Nat := ([d, d + 1, d + 2, d + 3].map (· % 4)).find? fun k => !(s.hcore k).halted

/-- DUTIES of a core. -/
def dutyMask (s : State) (k : Nat) : Nat :=
  ((List.range 4).map fun d => if dutyCore s d = some k then 2 ^ d else 0).foldl (· + ·) 0

/-- Telemetry gathered and not yet published is lost (R539). -/
def loseTelemetry (s : State) : State :=
  if s.telem.gathered then
    raiseEvent (s.setTelem fun t => { t with gathered := false, gapCnt := satAdd t.gapCnt 1 }) 0 7 2 []
  else s

/-- What a restart of a core loses: gathered telemetry, the response of a request that it serves, and the SPDM connections, which
begin again with GET_VERSION (R521). -/
def loseWork (k : Nat) (s : State) : State :=
  let s1 := if dutyCore s 3 = some k then loseTelemetry s else s
  let mark (g : Staging) : Staging := { g with lost := g.lost || dutyCore s (min g.mb 1) == some k }
  s1.setHearth fun h => { h with
    staging := h.staging.map mark, spdm := if dutyCore s 1 = some k then [] else h.spdm }

/-- Ticks of one hour (R494). -/
def hourTicks : Nat := 11250000000

/-- HEARTH_WDOG_EXPIRY: the core restarts, or stays halted after too many restarts within an hour. -/
def wdogExpiry (k : Nat) (s : State) : State :=
  if 4 ≤ k ∨ !s.powered ∨ s.hearth.stage < 4 ∨ (s.hcore k).halted ∨ s.now < (s.hcore k).kick + s.hearth.wdogPeriod.toNat then s
  else
    let s1 := loseWork k s
    let times := s.now :: (s.hcore k).times.filter fun t => decide (s.now < t + hourTicks)
    let halts := decide (s.hearth.wdogLimit.toNat % 256 < times.length)
    let s2 := s1.setHcore k fun h => { h with halted := halts, restarts := satAdd h.restarts 1, times := times, kick := s.now }
    if !halts then s2
    else
      let s3 := raiseAlarm s2 3 0 7
      if (List.range 4).all fun j => (s3.hcore j).halted then
        let r := freeStatus 7 s3
        freezeCrash r.1 (r.2.setHearth fun h => { h with halt := true })
      else s3

/-- KICK. -/
def kickCore (k : Nat) (s : State) : State := if 4 ≤ k then s else s.setHcore k fun h => { h with kick := s.now }

/-! Messages (R506, R509) -/

def mailMsg (ver : Nat × Nat) (type seq : Nat) (payload : List Byte) : List Byte :=
  let h := leBytes ver.1 1 ++ leBytes ver.2 1 ++ leBytes type 2 ++ leBytes seq 4 ++ leBytes payload.length 4
  h ++ leBytes (crc32c (h ++ payload)) 4 ++ payload

def State.box (s : State) (mb : Nat) : Mailbox := s.hearth.boxes.get Mailbox.reset mb
def State.boxVer (s : State) (mb : Nat) : Nat × Nat := (s.box mb).version.getD (0, 0)
def mbVector (s : State) : Nat := s.hearth.vector.toNat % 256

/-- Show a notification in the notify buffer. -/
def showNote (bs : List Byte) (s : State) : State :=
  signal 0 (mbVector s) (s.setHearth fun h => { h with noteBuf := SMap.setMany 0 h.noteBuf 0 bs, notify := true })

/-- Post a notification on mailbox 0: up to 64 wait behind the one that stands. -/
def postNote (type : Nat) (payload : List Byte) (s : State) : State :=
  let bs := mailMsg (s.boxVer 0) type 0 payload
  if !s.hearth.notify then showNote bs s
  else s.setHearth fun h =>
    if h.waiting.length < 64 then { h with waiting := h.waiting ++ [bs] }
    else { h with waiting := h.waiting.drop 1 ++ [bs], lost := satAdd h.lost 1 }

/-- NACK: the next waiting notification is posted; a halted Hearth takes no note of it (R494). -/
def nackNote (s : State) : State :=
  if !s.hearthRuns then s
  else match s.hearth.waiting with
  | [] => s.setHearth fun h => { h with notify := false }
  | bs :: rest =>
    if s.hearth.notify then showNote bs (s.setHearth fun h => { h with waiting := rest, notify := false }) else s

/-- FW_EVENT: 1 activated, 2 cancelled, 3 fell back. -/
def fwEvent (status event version : Nat) (s : State) : State :=
  postNote 0x0050 (leBytes status 2 ++ leBytes event 1 ++ leBytes 0 1 ++ leBytes version 4) s

/-- MAP_RELEASE for a die's pending pseudo-channel (R510). -/
def askRelease (die : Nat) (s : State) : State :=
  postNote 0x0040 (leBytes die 1 ++ leBytes (s.die die).pendingPc 1 ++ leBytes 0 6 ++ leBytes 1207959552 8) s

/-! Requests (R507, R508) -/

/-- Deliver an answer. -/
def sendAnswer (mb seq : Nat) (bs : List Byte) (s : State) : State :=
  let s1 := if mb = 0 then
      signal 0 (mbVector s) (s.setHearth fun h => { h with respBuf := SMap.setMany 0 h.respBuf 0 bs, response := true })
    else s
  s1.emit (.answer mb seq bs)

/-- The response with a status: 2 zero bytes follow it, then the type's data. -/
def responseOf (s : State) (mb type seq status : Nat) (data : List Byte) : List Byte :=
  mailMsg (s.boxVer mb) (type % 32768 + 32768) seq (leBytes status 2 ++ leBytes 0 2 ++ data)

/-- Record an answer as the mailbox's last, and deliver it. -/
def answerWith (mb type seq status : Nat) (data : List Byte) (s : State) : State :=
  let bs := responseOf s mb type seq status data
  sendAnswer mb seq bs (s.setHearth fun h => { h with
    boxes := SMap.modify Mailbox.reset h.boxes mb fun b => { b with last := some (seq, bs) } })

/-- How a request's own action ends. -/
inductive Reply where
  | now (status : Nat) (data : List Byte) (s : State)
  | later (s : State)

/-- A path on which a mailbox takes requests (R506). -/
def mailOpen (s : State) (mb : Nat) : Bool :=
  match mb with
  | 0 => s.hearthRuns && s.conn.linkUp
  | 1 => s.hearthRuns && s.conn.linkUp
  | 2 => s.hearthRuns
  | _ => false

def mailType (msg : List Byte) : Nat := recField msg 2 2
def mailSeq (msg : List Byte) : Nat := recField msg 4 4

/-- Request types of major 1 that a mailbox takes, in normal operation and in Recovery (R502, R508). -/
def typeAllowed (s : State) (mb type : Nat) : Bool :=
  if s.hearth.recovery then [1, 2, 0x10, 0x11, 0x12, 0x15, 0x30].contains type
  else [1, 2, 0x10, 0x11, 0x12, 0x13, 0x14, 0x15, 0x20, 0x21, 0x22, 0x30, 0x31].contains type || (type == 0x41 && mb == 0)

/-- Serve a request with the checks of R507 in order; a repeated SEQ gets the last response again. -/
def serve (mb : Nat) (msg : List Byte) (act : List Byte → State → Reply) (s0 : State) : State :=
  let seq := mailSeq msg
  let type := mailType msg
  let len := recField msg 8 4
  let pay := (msg.drop 16).take len
  let s := if mb = 0 then s0.setHearth fun h => { h with posted := false, reqBuf := SMap.setMany 0 h.reqBuf 0 (msg.take 4096) } else s0
  let b := s.box mb
  if 4080 < len then sendAnswer mb seq (responseOf s mb type seq 0x0704 []) s
  else if pay.length ≠ len ∨ recField msg 12 4 ≠ crc32c (msg.take 12 ++ pay) then
    sendAnswer mb seq (responseOf s mb type seq 0x0702 []) s
  else if (b.last.map (·.1)) = some seq then sendAnswer mb seq ((b.last.map (·.2)).getD []) s
  else if type ≠ 1 ∧ b.version ≠ some (recField msg 0 1, recField msg 1 1) then answerWith mb type seq 0x0701 [] s
  else if !typeAllowed s mb type then answerWith mb type seq 0x0703 [] s
  else match act pay s with
    | .now status data s1 => answerWith mb type seq status data s1
    | .later s1 => s1

/-- A request reaches a mailbox: one that still serves a request does not take another, but a repeated one finds again
an operation whose response was lost. -/
def arrive (mb : Nat) (msg : List Byte) (act : List Byte → State → Reply) (s : State) : State :=
  if !mailOpen s mb then s
  else match s.hearth.staging with
    | none => serve mb msg act s
    | some g =>
      if g.mb ≠ mb then serve mb msg act s
      else if !g.lost then s
      else if g.seq = mailSeq msg then s.setHearth fun h => { h with staging := some { g with lost := false } }
      else serve mb msg act s

/-- A request of one type. -/
def request (mb type : Nat) (msg : List Byte) (act : List Byte → State → Reply) (s : State) : State :=
  if mailType msg = type then arrive mb msg act s else s

/-- A payload of a fixed length; another is answered with 0x0704. -/
def sized (n : Nat) (act : List Byte → State → Reply) (pay : List Byte) (s : State) : Reply :=
  if pay.length = n then act pay s else .now 0x0704 [] s

/-- A type that only reads. -/
def reads (f : State → List Byte) (_ : List Byte) (s : State) : Reply := .now 0 (f s) s

/-- UNKNOWN_MESSAGE_TYPE. -/
def unknownType (mb : Nat) (msg : List Byte) (s : State) : State :=
  if typeAllowed s mb (mailType msg) then s else arrive mb msg (fun _ s => .now 0x0703 [] s) s

/-- HELLO: highest major and minor, lowest major. -/
def helloAct (mb : Nat) (pay : List Byte) (s : State) : Reply :=
  if recField pay 0 1 < 1 ∨ 1 < recField pay 2 1 then .now 0x0701 [] s
  else
    let minor := min 1 (recField pay 1 1)
    .now 0 (leBytes 1 1 ++ leBytes minor 1) (s.setHearth fun h => { h with
      boxes := SMap.modify Mailbox.reset h.boxes mb fun b => { b with version := some (1, minor) } })

/-- GET_INFO: VERSION, SVN, slot, TRIAL, OTP SVN count, and the serial number from OTP's identity region. DESIGN CHOICE: it is the
region's first 16 bytes. -/
def infoData (s : State) : List Byte :=
  leBytes (runningVersion s) 4 ++ leBytes (runningSvn s) 4 ++ leBytes s.hearth.slot 1 ++ leBytes (b2n s.hearth.onTrial) 1
    ++ leBytes (svnCount s) 1 ++ leBytes 0 1 ++ s.otpBytes 0 16

/-! Firmware update (R515–R518) -/

def FwState.code : FwState → Nat
  | .idle => 0
  | .staging => 1
  | .staged => 2
  | .verified => 3
  | .deferred => 4
  | .activating => 5
  | .trial => 6
  | .failed => 7

/-- HEARTH_FW_STATUS (R523). -/
def fwStatusWord (s : State) : Nat := s.hearth.fwState.code * 2 ^ 28 + s.hearth.fwLevel * 2 ^ 24 + s.hearth.fwCode

def setFw (st : FwState) (code : Nat) (s : State) : State := s.setHearth fun h => { h with fwState := st, fwCode := code }

/-- The slot that is not ACTIVE. -/
def otherSlot (s : State) : Nat := 1 - (flashHdr s).active

/-- FW_STAGE begins; a size that no slot holds is a wrong length. -/
def stageAct (mb seq : Nat) (pay : List Byte) (s : State) : Reply :=
  let n := recField pay 8 4
  if n = 0 ∨ slotBytes < n then .now 0x0704 [] s
  else .later ((setFw .staging 0 s).setHearth fun h => { h with
    staged := false, staging := some ⟨mb, seq, recField pay 0 8, n, false⟩ })

/-- A slot is erased. -/
def eraseSlot (base : Nat) (s : State) : State := s.setHearth fun h => { h with flash := SMap.clear h.flash base slotBytes }

/-- A reset or a loss of power cuts a running FW_STAGE short: the slot, erased, holds some bytes but no image's MAGIC (R521). -/
def cutStaging (s : State) : State :=
  match s.hearth.staging with
  | none => s
  | some g =>
    let base := slotBase (otherSlot s)
    writeFlash (base + 4) ((iota s.fresh (g.bytes - 4)).map Config.freeByte) { eraseSlot base s with fresh := s.fresh + g.bytes }

/-- A slot whose first `n` bytes are left open. -/
def spoilSlot (base n : Nat) (s : State) : State :=
  writeFlash base ((iota s.fresh n).map Config.freeByte) { eraseSlot base s with fresh := s.fresh + n }

/-- The staged bytes in the slot, and the status. A source that cannot be read, or a read-back that fails, leaves
bytes and a status that the spec does not give. -/
def stageWrite (g : Staging) (ok : Bool) (s : State) : State × Nat :=
  let base := slotBase (otherSlot s)
  match physRead s 0 false g.src g.bytes with
  | none => let t := freeStatus 7 (spoilSlot base g.bytes s)
    (t.2, t.1)
  | some (s1, st, bs) =>
    if st ≠ 0 then (spoilSlot base g.bytes s1, st)
    else if ok then (writeFlash base bs (eraseSlot base s1), 0)
    else
      let t := freeStatus 7 (spoilSlot base g.bytes s1)
      (t.2, t.1)

/-- FW_STAGE_COMPLETE: the slot is written and the request answered. -/
def stageDone (ok : Bool) (s : State) : State :=
  match s.hearth.staging with
  | none => s
  | some g =>
    if !s.hearthRuns then s
    else
      let r := stageWrite g ok s
      let s1 := (setFw (if r.2 = 0 then .staged else .failed) r.2 r.1).setHearth fun h => { h with
        staging := none, stagedSlot := otherSlot s }
      if g.mb = noBox then s1
      else if g.lost then
        let bs := responseOf s1 g.mb 0x10 g.seq r.2 []
        s1.setHearth fun h => { h with boxes := SMap.modify Mailbox.reset h.boxes g.mb fun b => { b with last := some (g.seq, bs) } }
      else answerWith g.mb 0x10 g.seq r.2 [] s1

/-- FW_VERIFY; a deferral stands (R516). -/
def verifyAct (_ : List Byte) (s : State) : Reply :=
  let code := verifyImage s (otherSlot s)
  let good : FwState := if s.hearth.fwState = .deferred then .deferred else .verified
  .now code [] ((setFw (if code = 0 then good else .failed) code s).setHearth fun h => { h with
    staged := decide (code = 0), stagedSlot := otherSlot s })

/-- Activation (R517); in Recovery mode it takes effect through a module reset (R502). -/
def activate (s : State) : State :=
  let slot := otherSlot s
  let hash := (targetHash s slot 0).getD []
  let s1 := writeHdr slot true 3 (s.setHearth fun h => { h with staged := false })
  if s.hearth.recovery then setFw .activating 0 s1
  else
    let s2 := (setFw .trial 0 (extend 3 hash s1)).setHearth fun h => { h with
      running := s1.flashBytes (slotBase slot) 1024, onTrial := true
      cores := [0, 1, 2, 3].foldl (fun m k => SMap.modify HCore.reset m k fun c => { c with halted := false, kick := s.now }) h.cores }
    fwEvent 0 1 (runningVersion s2) s2

/-- A mapping-out copy runs on some die. -/
def copyRuns (s : State) : Bool := (s.die 0).mapBusy || (s.die 1).mapBusy

/-- Activate now, or once the mapping-out copy has ended (R521). -/
def activateSoon (s : State) : State := if copyRuns s then setFw .activating 0 s else activate s

/-- Ask for activation: the status, and the level where it is deferred. -/
def tryActivate (s : State) : Nat × List Byte × State :=
  if !s.hearth.staged then (0x0707, [], s)
  else if 2 ≤ s.power.level then
    (0x0706, leBytes s.power.level 1,
      (setFw .deferred 0x0706 s).setHearth fun h => { h with fwLevel := s.power.level })
  else (0, [], activateSoon s)

def activateAct (_ : List Byte) (s : State) : Reply :=
  match tryActivate s with
  | (st, data, s1) => .now st data s1

/-- ACTIVATION_CLEAR_EXPIRY. -/
def clearExpiry (s : State) : State :=
  if s.hearthRuns ∧ s.hearth.fwState = .deferred ∧ s.power.level < 2 ∧ 3125000 ≤ s.power.calm then activateSoon s else s

/-- FW_CANCEL: ends a deferral, which leaves the image verified. -/
def cancelAct (_ : List Byte) (s : State) : Reply :=
  if s.hearth.fwState = .deferred then
    .now 0 [] (fwEvent 0x0708 2 (imgField s (otherSlot s) 12 4) (setFw .verified 0x0708 s))
  else .now 0 [] s

/-- FW_COMMIT. -/
def commitAct (_ : List Byte) (s : State) : Reply :=
  let h := flashHdr s
  let s1 := (writeHdr h.active false h.tries s).setHearth fun x => { x with onTrial := false }
  let s2 := if s1.hearth.fwState = .trial then setFw .idle 0 s1 else s1
  .now 0 [] (if svnCount s < runningSvn s then raiseSvn (runningSvn s) s2 else s2)

/-! Other requests -/

/-- The most data that a response with a status carries. -/
def dataMax : Nat := 4076

/-- OTP_READ. -/
def otpReadAct (pay : List Byte) (s : State) : Reply :=
  let a := recField pay 0 4
  let n := recField pay 4 4
  if 4064 < n ∨ 4096 < a + n then .now 0x0704 [] s else .now 0 (s.otpBytes a n) s

/-- OTP_WRITE_GEN. -/
def writeGenAct (pay : List Byte) (s : State) : Reply :=
  match writeGen pay s with
  | (s1, st) => .now st [] s1

/-- OTP_REVOKE: only while a different key, present and not revoked, signed the running image. -/
def revokeAct (pay : List Byte) (s : State) : Reply :=
  let k := recField pay 0 1
  let own := runningField s 7 1
  if 3 < k ∨ k = own ∨ !keyPresent s own ∨ keyRevoked s own then .now 0x0902 [] s
  else .now 0 [] (otpProgram 0x200 (leBytes (2 ^ k) 1) s)

/-- LOG_READ. -/
def logReadAct (pay : List Byte) (s : State) : Reply :=
  let a := recField pay 0 8
  let n := recField pay 8 4
  if dataMax < n ∨ logBytes < a + n then .now 0x0704 [] s else .now 0 (s.flashBytes (logBase + a) n) s

/-- Where byte `j` of CRASH_READ's records stands: the most recent record first (R555). -/
def crashByte (s : State) (j : Nat) : Byte :=
  let slot := (s.hearth.crashSeq + 255 - j / 4096) % 256
  s.hearth.flash.get flashBlank (crashBase + 4096 * slot + j % 4096)

/-- CRASH_READ. -/
def crashReadAct (pay : List Byte) (s : State) : Reply :=
  let a := recField pay 0 4
  let n := recField pay 4 4
  if dataMax < n ∨ 2 ^ 20 < a + n then .now 0x0704 [] s else .now 0 ((iota a n).map (crashByte s)) s

/-! Released frames (R510) -/

/-- The die whose pending pseudo-channel waits for its frames. -/
def releaseDie (s : State) : Option Nat := [0, 1].find? fun d => (s.die d).mapPending && (s.die d).frames.isEmpty

/-- A 64 KiB frame number lies in a die's home view and outside the frame pool. -/
def frameOk (s : State) (d f : Nat) : Bool :=
  let a := f * 65536
  decide (d * hbmDie1Base ≤ a) && decide (a + 65536 ≤ d * hbmDie1Base + hbmDieBytes) && !s.inPool a

/-- MAP_RELEASE_ANS: the list is read and checked. -/
def releaseAct (pay : List Byte) (s : State) : Reply :=
  let n := recField pay 8 4
  match releaseDie s with
  | none => .now 0x070A [] s
  | some d =>
    let refuse (s : State) : Reply := .now 0x070A [] (s.setDie d fun m => { m with refusedAt := some s.now })
    if n ≠ 18432 then refuse s
    else match physRead s 0 false (recField pay 0 8) (4 * n) with
      | none => refuse s
      | some (s1, st, bs) =>
        let fs := (List.range n).map fun k => recField bs (4 * k) 4
        if st ≠ 0 ∨ !(fs.all (frameOk s d)) ∨ fs.eraseDups.length ≠ n then refuse s1
        else .now 0 [] (s1.setDie d fun m => { m with frames := fs })

/-- A die's pending pseudo-channel has waited 3,125,000 ticks since its list was refused (R510). -/
def retryDue (s : State) (die : Nat) : Bool :=
  let m := s.die die
  m.mapPending && m.frames.isEmpty && m.refusedAt.any fun t => decide (t + 3125000 ≤ s.now)

/-- MAP_RELEASE_RETRY. -/
def releaseRetry (die : Nat) (s : State) : State :=
  if die < 2 ∧ s.hearthRuns ∧ retryDue s die then askRelease die (s.setDie die fun m => { m with refusedAt := none }) else s

end Sys2Proof.Machine
end

