-- ==== Sys2Proof/Machine/Spdm.lean ====
section
/-! DEFINITION. SPDM answers, the endpoint ID and PLDM activation (R504, R505, R519, R520). The spec names SPDM 1.2,
MCTP and PLDM; the byte forms are those of DSP0274, DSP0236 and DSP0267 (PRESUMED). -/

namespace Sys2Proof.Machine

/-- A path on which Hearth answers: 0 DOE, 1 MCTP over PCIe VDM, 2 MCTP over SMBus. -/
def pathOpen (s : State) (path : Nat) : Bool := s.hearthRuns && (path == 2 || (decide (path < 2) && s.conn.linkUp))

/-- A message of SPDM: version, code, two parameters, body. -/
def spdmMsg (ver code p1 p2 : Nat) (body : List Byte) : List Byte :=
  leBytes ver 1 ++ leBytes code 1 ++ leBytes p1 1 ++ leBytes p2 1 ++ body

def spdmError (err data : Nat) : List Byte := spdmMsg 0x12 0x7F err data []
def spdmInvalid : List Byte := spdmError 1 0

/-- A request code that Hearth supports (R504). -/
def spdmSupported (code : Nat) : Bool := [0x84, 0xE1, 0xE3, 0x81, 0x82, 0x83, 0xE0].contains code

/-- The module's SMBus address, from the sampled straps (R566). -/
def smbAddress (s : State) : Nat := 0x60 + s.conn.straps.toNat % 8

/-- An answer leaves on a path's channel; on SMBus it names the module's address. -/
def answerOn (base path : Nat) (bs : List Byte) (s : State) : State :=
  s.emit (.answer (base + path) (if path = 2 then smbAddress s else 0) bs)

/-- How far a path's connection must have come for a request, and how far it takes it (DSP0274, PRESUMED). -/
def spdmNeeds (code : Nat) : Nat := if code = 0x84 then 0 else if code = 0xE1 then 1 else if code = 0xE3 then 2 else 3
def spdmReaches (code : Nat) : Nat := if code = 0x84 then 1 else if code = 0xE1 then 2 else 3

/-- Is a request of the connection in order? CAPABILITIES and ALGORITHMS are negotiated once. -/
def spdmInOrder (s : State) (path code : Nat) : Bool :=
  let at_ := s.hearth.spdm.get 0 path
  code == 0x84 || (if code == 0xE1 || code == 0xE3 then at_ == spdmNeeds code else decide (3 ≤ at_))

/-- Answer a request of one code; one out of order is answered with ERROR UnexpectedRequest. -/
def spdmAnswer (path code : Nat) (body : List Byte) (f : State → List Byte × State) (s : State) : State :=
  if !pathOpen s path ∨ recField body 1 1 ≠ code then s
  else if !spdmInOrder s path code then answerOn 8 path (spdmError 4 0) s
  else
    let r := f s
    answerOn 8 path r.1 (r.2.setHearth fun h => { h with spdm := SMap.set 0 h.spdm path (spdmReaches code) })

/-- VERSION: 1.2 alone. -/
def spdmVersion (s : State) : List Byte × State := (spdmMsg 0x10 0x04 0 0 (leBytes 0 1 ++ leBytes 1 1 ++ leBytes 0x1200 2), s)

/-- CAPABILITIES: certificates, challenge, signed measurements; timing and sizes are not given. -/
def spdmCaps (s : State) : List Byte × State :=
  (spdmMsg 0x12 0x61 0 0 (leBytes 0 1 ++ [Config.docByte 2 0] ++ leBytes 0 2 ++ leBytes 0x16 4 ++ (iota 1 8).map (Config.docByte 2)), s)

/-- ALGORITHMS: ECDSA on P-521 and SHA-512, each where the requester offers it. -/
def spdmAlgorithms (body : List Byte) (s : State) : List Byte × State :=
  let asym := if bit (recField body 8 4) 8 then 0x100 else 0
  let hash := if bit (recField body 12 4) 2 then 0x4 else 0
  let meas := if bit (recField body 6 1) 0 then 1 else 0
  (spdmMsg 0x12 0x63 0 0 (leBytes 36 2 ++ leBytes meas 1 ++ leBytes 0 1 ++ leBytes (8 * meas) 4 ++ leBytes asym 4 ++ leBytes hash 4
    ++ leBytes 0 16), s)

/-- The chain of certificate slot 0: its length and bytes, as the certificate store holds them. -/
def chainLen (s : State) : Nat := (Config.storeChainLen s.hearth.store).toNat
def chainBytes (s : State) : List Byte := (iota 0 (chainLen s)).map (Config.storeChain s.hearth.store)

def spdmDigests (s : State) : List Byte × State := (spdmMsg 0x12 0x01 0 1 (sha512 (chainBytes s)), s)

/-- CERTIFICATE: a portion of the chain of slot 0; slots 1–7 are empty. -/
def spdmCertificate (body : List Byte) (s : State) : List Byte × State :=
  let off := recField body 4 2
  if recField body 2 1 % 16 ≠ 0 ∨ chainLen s ≤ off then (spdmInvalid, s)
  else
    let n := min (recField body 6 2) (chainLen s - off)
    (spdmMsg 0x12 0x02 0 0 (leBytes n 2 ++ leBytes (chainLen s - off - n) 2 ++ ((chainBytes s).drop off).take n), s)

/-- A fresh nonce. -/
def nonce (s : State) : List Byte × State := ((iota s.fresh 32).map Config.freeByte, { s with fresh := s.fresh + 32 })
/-- The identity key's signature over a request and its answer. -/
def withSignature (req ans : List Byte) : List Byte := ans ++ (iota 0 132).map (Config.identitySign (req ++ ans))

/-! Measurements (R503, R504) -/

/-- Kind of a measurement value: 0 immutable ROM, 1 mutable firmware, 3 firmware configuration. -/
def measKind : Nat → Nat
  | 0 => 0
  | 1 => 3
  | _ => 1

/-- The block of measurement index k + 1: slot k. -/
def measBlock (s : State) (k : Nat) : List Byte :=
  leBytes (k + 1) 1 ++ leBytes 1 1 ++ leBytes 67 2 ++ leBytes (measKind k) 1 ++ leBytes 64 2
    ++ leBytes (SMap.get (0 : BitVec 512) s.hearth.meas k).toNat 64

/-- The block of index 0xFE: the measurement log, slot index and digest of each entry, then the count of lost ones. -/
def logBlock (s : State) : List Byte :=
  let v := (s.hearth.mlog.map fun e => leBytes e.1 1 ++ leBytes e.2.toNat 64).flatten ++ leBytes s.hearth.mlogLost 4
  leBytes 0xFE 1 ++ leBytes 1 1 ++ leBytes (v.length + 3) 2 ++ leBytes 0x81 1 ++ leBytes v.length 2 ++ v

/-- Every block: the seven slots, then the measurement log. -/
def allBlocks (s : State) : List (List Byte) := (List.range 7).map (measBlock s) ++ [logBlock s]

/-- Blocks that an operation names: none for an index that the module does not report. -/
def blocksOf (s : State) (op : Nat) : Option (List (List Byte)) :=
  if op = 0 then some []
  else if op = 0xFF then some (allBlocks s)
  else if op = 0xFE then some [logBlock s]
  else if op ≤ 7 then some [measBlock s (op - 1)]
  else none

/-- MEASUREMENTS. -/
def spdmMeasure (body : List Byte) (s : State) : List Byte × State :=
  let op := recField body 3 1
  match blocksOf s op with
  | none => (spdmInvalid, s)
  | some bs =>
    let rec_ := bs.flatten
    let r := nonce s
    let m := spdmMsg 0x12 0x60 (if op = 0 then 8 else 0) 0
      (leBytes bs.length 1 ++ leBytes rec_.length 3 ++ rec_ ++ r.1 ++ leBytes 0 2)
    (if bit (recField body 2 1) 0 then withSignature body m else m, r.2)

/-- CHALLENGE_AUTH: chain hash, nonce, a summary of the measurements where one is asked for, signature. -/
def spdmChallenge (body : List Byte) (s : State) : List Byte × State :=
  if recField body 2 1 ≠ 0 then (spdmInvalid, s)
  else
    let r := nonce s
    let sum := if recField body 3 1 = 0 then [] else sha512 (allBlocks s).flatten
    (withSignature body (spdmMsg 0x12 0x03 0 1 (sha512 (chainBytes s) ++ r.1 ++ sum ++ leBytes 0 2)), r.2)

/-- Any other request: ERROR UnsupportedRequest. -/
def spdmOther (path : Nat) (body : List Byte) (s : State) : State :=
  let code := recField body 1 1
  if !pathOpen s path ∨ spdmSupported code then s else answerOn 8 path (spdmError 7 code) s

/-! MCTP and PLDM (R519, R520) -/

/-- Set Endpoint ID: the two reserved IDs are refused. -/
def setEid (path : Nat) (eid : BitVec 8) (s : State) : State :=
  if !pathOpen s path ∨ path = 0 then s
  else if eid = 0 ∨ eid = 0xFF then answerOn 16 path [0x02] s
  else answerOn 16 path [0, 0, eid, 0] (s.setHearth fun h => { h with eid := eid })

/-- ActivateFirmware: the same conditions as FW_ACTIVATE. A deferral, or an unverified image, is told by a PLDM
completion code. -/
def pldmActivate (path : Nat) (s : State) : State :=
  if !pathOpen s path ∨ path = 0 then s
  else match tryActivate s with
    | (st, _, s1) => answerOn 24 path [if st = 0x0707 then 0x85 else 0] s1

end Sys2Proof.Machine
end

