-- ==== Sys2Proof/Machine/Repair.lean ====
section
/-! DEFINITION. Patrol scrub, mapping out, tests, fencing and repair (R341–R347, R361, R536, R545–R551, R556). -/

namespace Sys2Proof.Machine

/-! Patrol scrub (R341, R345, R346) -/

/-- Hearth marks a pseudo-channel for mapping out: a seventeenth of a die stays in service. -/
def markChannel (die pc : Nat) (s : State) : State :=
  let m := s.die die
  if !s.hearthRuns ∨ bit m.mapout.toNat pc ∨ m.mapPending then s
  else if 16 ≤ s.mappedOut die then
    if m.limit then s else raiseAlarm (s.setDie die fun m => { m with limit := true }) 2 0x0306 3
  else askRelease die (s.setDie die fun m => { m with mapPending := true, pendingPc := pc, frames := [] })

/-- Hearth marks the pseudo-channels of a die that R341 has it mark, as far as one can be marked now. -/
def markFailing (die : Nat) (s : State) : State :=
  match (s.die die).failing with
  | [] => s
  | pc :: rest =>
    if !s.hearthRuns ∨ (s.die die).mapPending then s
    else markChannel die pc (s.setDie die fun m => { m with failing := rest })

/-- Corrections of the worst symbol position of a pseudo-channel this period, with that position. -/
def worstSymbol (m : DieMem) (pc : Nat) : Nat × Nat :=
  (List.range 36).foldl (fun b k =>
    let n := m.symbols.get 0 (64 * pc + k)
    if b.2 < n then (k, n) else b) (0, 0)

/-- Place of a burst in its die's memory, and the size of that memory. -/
def scrubPlace (b : Nat) : Nat × Nat :=
  if isFallow b then
    let g := (b - fallowBase) / 256
    ((g / 64 * 32 + g % 32) * 256 + b % 256, fallowBytes / 2)
  else (b % hbmDie1Base, hbmDieBytes)

/-- Position of the pass after a burst of a die; the last burst ends the pass and, for HBM, the period of the symbol
counts. -/
def scrubPos (die b : Nat) (s : State) : State :=
  let p := scrubPlace b
  let last := decide (p.2 ≤ p.1 + burstBytes b)
  let at_ := if last then 0 else p.1 * 1024 / p.2
  s.setDie die fun m =>
    if isFallow b then { m with fallowProgress := at_, fallowPasses := min 65535 (m.fallowPasses + b2n last) }
    else { m with hbmProgress := at_, hbmPasses := min 65535 (m.hbmPasses + b2n last), symbols := if last then [] else m.symbols, retrained := if last then [] else m.retrained }

/-- A burst that scrub passes by: mapped out, released, or newer in the Lintel cache (R345, R346). -/
def scrubSkips (s : State) (die b : Nat) : Bool :=
  (!isFallow b && (bit (s.die die).mapout.toNat (homeChannel b) ||
    (s.die die).released.contains (b % hbmDie1Base / 65536 + die * (hbmDie1Base / 65536))))
  || decide ((s.line (b / 256)).dirty &&& sectorMask b ≠ 0)

/-- Read one burst and write back what was corrected or lost; one that stays uncorrectable has its pseudo-channel marked
(R340, R341, R345). -/
def scrubOne (die b : Nat) (s : State) : State :=
  let r := memRead s b
  match r.2.1 with
  | .clean => r.1
  | .corrected _ => memWrite r.1 b
  | .poisoned => memPoison (doomWaits b r.2.2 r.1) b
  | .uncorrectable =>
    let q := memRead (memPoison (doomWaits b r.2.2 r.1) b) b
    if q.2.1 = .uncorrectable ∧ !isFallow b then
      q.1.setDie die fun m => { m with failing := m.failing ++ [homeChannel (q.1.phys b)] }
    else q.1

/-- Corrections of a stack's 32 pseudo-channels this scrub period. -/
def stackErrors (m : DieMem) (k : Nat) : Nat :=
  ((m.symbols.filter fun e => e.1 / 2048 == k).map (·.2)).foldl (· + ·) 0

/-- A stack of the die whose corrections exceed ten times HBM_MAPOUT_THRESH, for which Hearth has not asked for a retraining in
this period (R536). -/
def failingStack (m : DieMem) : Option Nat :=
  (List.range 6).find? fun k => decide (10 * m.mapoutThresh < stackErrors m k) && !m.retrained.contains k

/-- SCRUB_BURST: one burst of a die, and the place of the pass. -/
def scrubBurst (die addr : Nat) (s : State) : State :=
  match canonAddr addr with
  | none => s
  | some ca =>
    let b := burstBase ca
    if 2 ≤ die ∨ homeDie b ≠ die then s
    else markFailing die (scrubPos die b (if scrubSkips s die b then s else scrubOne die b s))

/-! Mapping out (R343, R344, R551) -/

/-- MAPOUT_COPY_START: no run owns the array, the driver has named the frames, and Hearth starts the copy engine. -/
def mapoutStart (die : Nat) (s : State) : State :=
  let m := s.die die
  if die < 2 ∧ s.hearthRuns ∧ s.stile.array = .free ∧ m.mapPending ∧ m.frames ≠ [] ∧ !m.mapBusy then
    s.setDie die fun m => { m with mapBusy := true }
  else s

/-- Granules of the die's HBM per pseudo-channel. -/
def channelGranules : Nat := 4718592

/-- The granule whose cells serve a granule of a die's home view: its own, or its target (R343). -/
def DieMem.cells (m : DieMem) (g : Nat) : Nat :=
  match m.remap.get 0 g with
  | 0 => g
  | t + 1 => t

/-- The granules of a die's home view that mapping out moves, with their targets: those which the channel's cells serve outside
the released frames, paired in order with the cells in service that serve the frames just released. -/
def remapOf (die pc : Nat) (m : DieMem) : List (Nat × Nat) :=
  let base := die * (hbmDie1Base / 65536)
  let held := fun (g : Nat) => m.frames.contains (base + g / 256) || m.released.contains (base + g / 256)
  let own := ((List.range channelGranules).map fun k => 192 * k + pc).filter fun g => m.remap.get 0 g == 0
  let moved := (m.remap.filter fun e => e.2 != 0 && (e.2 - 1) % 192 == pc).map (·.1)
  ((own ++ moved).filter fun g => !held g).zip
    (((m.frames.map fun f => (iota ((f - base) * 256) 256).map m.cells).flatten).filter fun g =>
      !bit m.mapout.toNat (g % 192) && g % 192 != pc)

/-- Bursts of a granule of a die's home view. -/
def granuleBursts (die g : Nat) : List Nat := (List.range 8).map fun j => die * hbmDie1Base + 256 * g + 32 * j

/-- The copy engine reads bursts and counts what it meets (R338); the bursts with what they decoded to. -/
def copyReads : List Nat → State → State × List (Nat × Decoded)
  | [], s => (s, [])
  | b :: t, s =>
    let r := memRead s b
    let q := copyReads t r.1
    (q.1, (b, r.2.1) :: q.2)

/-- A copied burst arrives at its target, a lost one as poison (R344). -/
def copyArrives (s : State) (e : Nat × Decoded) : State :=
  if e.2 = .uncorrectable ∨ e.2 = .poisoned then memPoison s e.1 else memWrite s e.1

/-- Granules of a die's home view that a 64 KiB page of a client holds; none where the tables do not map it. -/
def pageGranules (s : State) (die client va : Nat) : List Nat :=
  (List.range 256).filterMap fun k => match translate s { client := client, objs := none, mortar := false } .read (va + 256 * k) with
    | .ok (.dev ca) => if isFallow ca ∨ homeDie ca ≠ die then none else some (ca % hbmDie1Base / 256)
    | _ => none

/-- Does mapping out move a line of the object that a residency entry stands for? -/
def Resident.moved (s : State) (die : Nat) (gs : List Nat) (e : Resident) : Bool :=
  (List.range (e.objBytes / 65536)).any fun p => (pageGranules s die e.client (e.va + 65536 * p)).any gs.contains

/-- Stile removes the residency entries of the objects of which a line has moved (R332, R343). -/
def dropMoved (die : Nat) (gs : List Nat) (s : State) : State :=
  { s with stile := { s.stile with residency := [0, 1].foldl (fun m d =>
      SMap.modify [] m d (fun l => l.filter fun e => !e.moved s die gs)) s.stile.residency } }

/-- MAPOUT_COMMIT: the copy has ended, and the controller puts the mapping in force; Hearth writes the repair-log entry, and
an activation that waited for the copy runs. -/
def mapoutCommit (die : Nat) (s : State) : State :=
  let m := s.die die
  if 2 ≤ die ∨ !m.mapBusy then s
  else
    let pc := m.pendingPc
    let moves := remapOf die pc m
    let r := copyReads ((moves.map fun e => granuleBursts die e.1).flatten) s
    let s1 := r.1.setDie die fun k => { k with
      mapBusy := false, mapPending := false, mapout := k.mapout ||| (1#192 <<< pc), frames := []
      released := k.released ++ m.frames
      remap := moves.foldl (fun t e => SMap.set 0 t e.1 (e.2 + 1))
        (k.remap.filter fun e => !m.frames.contains (die * (hbmDie1Base / 65536) + e.1 / 256))
      symbols := SMap.clear k.symbols (64 * pc) 64, failing := k.failing.filter (· != pc) }
    let s2 := dropMoved die (moves.map (·.1)) (r.2.foldl copyArrives s1)
    let s3 := if s.hearth.halt ∨ !s.powered then s2 else writeRepair 2 die pc 0x01 s2
    if s3.hearthRuns ∧ s3.hearth.fwState = .activating ∧ !s3.hearth.recovery ∧ !copyRuns s3 then activate s3 else s3

/-! TEST_CMD (R545–R547, R556, R558) -/

/-- Fields of TEST_CMD as a command sets them. -/
def cmdWord (j : TestJob) : W32 :=
  BitVec.ofNat 32 (b2n j.urgent * 2 ^ 30 + b2n j.persist * 2 ^ 29 + j.op * 2 ^ 24 + j.unit * 2 ^ 20 + j.index % 512)

def setCode (code : Nat) (s : State) : State := { s with test := { s.test with code := code } }

/-- A written command: ignored with 0x0A01 while another runs. -/
def testCmd (j : TestJob) (f : State → State) (s : State) : State :=
  if s.test.job.isSome then setCode 0x0A01 s else f { s with test := { s.test with cmd := cmdWord j, code := 0 } }

/-- Does the running run own a sett: every sett in service that serves a logical one (R22)? -/
def ownedBy (s : State) (i : Nat) : Bool := s.stile.cur.isSome && (s.logicalOf i).isSome && !s.test.fenced.get false i

def setFenced (i : Nat) (on : Bool) (s : State) : State :=
  { s with test := { s.test with fenced := SMap.set false s.test.fenced i on } }

/-- FENCE: the run that owns the sett is placed again where it has not issued yet (R294); else it ends with 0x0203, unless it is
saving for pre-emption (R32, R547, R556). -/
def fenceSett (i : Nat) (s : State) : State :=
  if 407 < i then setCode 0x0A04 s
  else
    let s1 := (setFenced i true s).setSett i fun t => { t with phase := .fenced, retained := none }
    match s.stile.cur with
    | none => s1
    | some r =>
      if s.stile.array = .saving ∨ !ownedBy s i then s1
      else if s.stile.array = .admitting ∧ !r.issued then placeAgain s1 r
      else failRun i 0x0203 s1

/-- UNFENCE. -/
def unfenceSett (i : Nat) (s : State) : State :=
  if 407 < i then setCode 0x0A04 s
  else (setFenced i false s).setSett i fun t => if t.phase = .fenced then { t with phase := .idle } else t

/-- A free value of `n` bytes. -/
def freeWide (k n : Nat) : Nat := leNat ((iota k n).map Config.freeByte)

/-- `n` free entries of `w` bytes each, from key `lo` on. -/
def freeMap {α : Type} [DecidableEq α] (d : α) (lo n w k : Nat) (f : Nat → α) : SMap α :=
  (List.range n).foldl (fun m x => SMap.set d m (lo + x) (f (freeWide (k + w * x) w))) []

def freeLedger (x : Nat) : Ledger := ⟨BitVec.ofNat 136 x, bit x 136, bit x 137, bit x 138⟩

/-- Free values that a sett's registers, ledgers and scratch take. -/
def marchBytes : Nat := 5242880

/-- Both banks take other ledgers. -/
def Sett.setLedgers (t : Sett) (f : Nat → SMap Ledger) : Sett :=
  [0, 1].foldl (fun t b => t.setBank b { t.bank b with led := f b }) t

/-- March patterns have gone through every scratch bank, ledger and register file of a sett: what they leave is free (R545). -/
def marched (k : Nat) (t : Sett) : Sett :=
  { t with
    s := freeMap 0 1 31 8 k (BitVec.ofNat 64)
    p := freeMap 0 1 7 16 (k + 256) (BitVec.ofNat 128)
    a := freeMap 0 0 16 32 (k + 512) (BitVec.ofNat 256)
    evt := freeMap 0 0 16 8 (k + 1024) (BitVec.ofNat 64)
    stats := freeMap StatPair.zero 0 128 16 (k + 2048) fun x => ⟨((x % 2 ^ 64 : Nat) : Rat), ((x / 2 ^ 64 : Nat) : Rat)⟩
    v := freeMap 0 0 32 512 (k + 4096) (BitVec.ofNat 4096)
    banks := freeMap Bank.zero 0 2 4 (k + 3840) fun x => ⟨(x % 1024 : Nat) - 512, [], []⟩
    scratch := freeMap 0 0 4194304 1 (k + 1048576) (BitVec.ofNat 8)
    statsParity := false, badWords := [], softWords := [], retained := none }.setLedgers fun b =>
      freeMap Ledger.zero 0 16384 18 (k + 32768 + 294912 * b) freeLedger

def startJob (j : TestJob) (s : State) : State :=
  let s1 := { s with test := { s.test with job := some j } }
  if j.op = 3 ∧ j.unit = 0 then
    { s1.setSett j.index fun t => { marched s.fresh t with
        phase := .selfTest, asleep := false, mode := 1, queue := [], stall := none, fetchMiss := false, ended := false
        stage := [], stagePaused := none } with fresh := s.fresh + marchBytes }
  else s1

/-- Keep a request for the job boundary: an urgent one before those that are not. -/
def keepJob (j : TestJob) (s : State) : State :=
  let w := s.test.waiting
  let w' := if j.urgent then w.filter (fun x => x.urgent) ++ j :: w.filter (fun x => !x.urgent) else w ++ [j]
  { s with test := { s.test with waiting := w' } }

/-- May a job start at the job boundary? Hearth loads and starts the training engine of a retraining (R536). -/
def mayStart (j : TestJob) (s : State) : Bool :=
  decide (s.stile.array = .free) && !copyRuns s && s.test.job.isNone && (j.op != 4 || s.hearthRuns)

/-- A request that needs the job boundary starts at one, and else waits for it; an urgent one pre-empts the run (R536,
R545). -/
def atBoundary (j : TestJob) (s : State) : State :=
  if mayStart j s then startJob j s
  else if j.urgent then startPreempt (keepJob j s)
  else keepJob j s

/-- SELF_TEST: of a fenced sett, which no run owns, or the loopback of a disabled port, at once where no route names it. -/
def startTest (j : TestJob) (s : State) : State :=
  match j.unit with
  | 0 =>
    if 407 < j.index then setCode 0x0A04 s
    else if s.test.fenced.get false j.index then startJob j s else setCode 0x0A03 s
  | 3 =>
    if 11 < j.index then setCode 0x0A04 s
    else if (s.port j.index).phase ≠ .disabled then setCode 0x0A03 s
    else if routeNames s j.index then atBoundary j s
    else startJob j s
  | _ => setCode 0x0A04 s

/-- RETRAIN: an HBM stack or a fallow package, at the next job boundary; an urgent one pre-empts the run. -/
def startRetrain (j : TestJob) (s : State) : State :=
  if (j.unit = 1 ∧ j.index ≤ 11) ∨ (j.unit = 2 ∧ j.index ≤ 15) then atBoundary j s else setCode 0x0A04 s

/-- Hearth asks for the urgent retraining of a stack whose corrected-error rate calls for it, once in a scrub period (R536). -/
def hearthRetrain (die : Nat) (s : State) : State :=
  match failingStack (s.die die) with
  | some k =>
    if !s.hearthRuns ∨ 2 ≤ die then s
    else atBoundary ⟨4, 1, 6 * die + k, true, false⟩ (s.setDie die fun m => { m with retrained := k :: m.retrained })
  | none => s

/-- TEST_DEFERRED_START: at a job boundary the first waiting request starts. -/
def deferredStart (s : State) : State :=
  match s.test.waiting with
  | [] => s
  | j :: rest =>
    if s.powered ∧ mayStart j s then
      let s1 := { s with test := { s.test with waiting := rest, code := 0 } }
      if j.op = 3 then startTest j s1 else startJob j s1
    else s

/-- A loopback or retraining fails: the spec gives its status no value. -/
def failedCode (s : State) : State := setCode (freeStatus 10 s).1 (freeStatus 10 s).2

/-- SELF_TEST_COMPLETE: the running test ends; with none running, that of the lowest codec core under test. -/
def testDone (pass : Bool) (s : State) : State :=
  match s.test.job with
  | some j =>
    if j.op ≠ 3 ∨ !s.powered then s
    else
      let s0 := { s with test := { s.test with job := none } }
      let s1 := if pass then setCode 0 s0 else if j.unit = 0 then setCode 0x0204 s0 else failedCode s0
      if j.unit ≠ 0 then s1
      else
        let s2 := { s1.setSett j.index fun t => { marched s1.fresh t with
            phase := .fenced, mode := 0, queue := [], stall := none, status := if pass then t.status else 0x0204 } with
          fresh := s1.fresh + marchBytes }
        if !pass ∧ j.persist ∧ s.hearthRuns then writeRepair 1 (j.index / 204) (j.index % 17) 0x04 s2 else s2
  | none => match (List.range 24).find? fun c => (s.core c).testing with
    | some c => if s.powered then s.setCore c fun q => { q with testing := false, testFail := !pass } else s
    | none => s

/-- RETRAIN_COMPLETE: the device is in service again, and the accesses of codec streams that waited for it go on. -/
def retrainDone (ok : Bool) (s : State) : State :=
  match s.test.job with
  | some j => if j.op ≠ 4 ∨ !s.powered then s else
      let s0 := { s with test := { s.test with job := none } }
      workAll (if ok then setCode 0 s0 else failedCode s0)
  | none => s

end Sys2Proof.Machine
end

