-- ==== Sys2Proof/Machine/Reset.lean ====
section
/-! DEFINITION. Module resets, boot, input power, pins and the TAP (R499–R502, R551–R555, R566–R573, R580). -/

namespace Sys2Proof.Machine

/-! Reset levels (R552–R554) -/

/-- What a warm reset keeps of a die's controllers: the repairs and the remapping table in the always-on domain. -/
def keptDie (warm : Bool) (m : DieMem) : DieMem :=
  if warm then { DieMem.reset with mapout := m.mapout, released := m.released, remap := m.remap } else DieMem.reset

/-- Dirty Lintel lines reach memory, lost bursts as poison (R355). -/
def writtenBack (s : State) : State := (s.mem.lines.map (·.1)).foldl cleanLine s

/-- Memory after a reset: a warm one keeps what is stored; cells that do not hold a symbol stay so. -/
def resetMem (warm : Bool) (m : Mem) : Mem :=
  { m with
    dev := if warm then m.dev else []
    errs := if warm then m.errs else []
    groupCrc := if warm then m.groupCrc else []
    lines := []
    dies := [0, 1].foldl (fun t d => SMap.set DieMem.reset t d (keptDie warm (m.dies.get DieMem.reset d))) []
    waits := [] }

/-- Hearth in reset: flash, OTP, the number of crash records and the state of the log ring stay. -/
def resetHearth (h : Hearth) : Hearth := { Hearth.reset with flash := h.flash, otp := h.otp, crashSeq := h.crashSeq, log := h.log }

/-- Alarm latches and the crash buffer are always on; the telemetry block's ring and counts are not. -/
def resetTelem (t : Telem) : Telem :=
  { Telem.reset with alarm := t.alarm, alarmCnt := t.alarmCnt, inFlash := t.inFlash, later := t.later, crash := t.crash }

/-- A self-test or retraining that the reset cuts short ends with 0x0A05 (R546). -/
def resetTest (last : Nat) (t : Test) : Test :=
  { Test.reset with
    code := if t.job.isSome then 0x0A05 else 0
    last := last, memKept := decide (last = 1), count := satAdd t.count 1 }

/-- What every module reset clears; an FW_STAGE that runs is cut short. -/
def resetCommon (last : Nat) (s0 : State) : State :=
  let warm := decide (last = 1)
  let s := cutStaging s0
  { s with
    shadow := [], staging := [], woLow := [], setts := [], cairn := []
    mem := resetMem warm s.mem, xlat := Xlat.reset, stile := Stile.reset, mortar := Mortar.reset, codec := Codec.reset
    hearth := resetHearth s.hearth, telem := resetTelem s.telem, test := resetTest last s.test
    conn := { s.conn with linkUp := false, sris := false, strapped := false, cfg := [], msix := [], pba := [] } }

/-- Golger ports, routes and identifier stay; what Mortar had to take or to hear of is gone with it. -/
def keepGolger (g : Golger) : Golger :=
  let untag (p : GPort) : GPort := { p with msgs := p.msgs.map fun m => { m with tag := 0 } }
  { g with inbox := [], lost := [], ports := g.ports.foldl (fun t e => SMap.set GPort.reset t e.1 (untag e.2)) [] }

/-- A group has a collective in flight on this module. -/
def groupInFlight (s : State) (g : Group) : Bool :=
  match g.ctx with
  | none => false
  | some k => ((s.ctx k).cur.any fun c => c.gid == g.gid) || (s.ctx k).queue.any fun r => r.gid == g.gid

/-- A warm reset: a mapping-out copy completes first, and peers hear of the epochs that advance. -/
def warmReset (s : State) : State :=
  if !s.powered then s
  else
    let s1 := mapoutCommit 1 (mapoutCommit 0 s)
    let s2 := advanceGroups (groupInFlight s1) s1
    let s3 := resetCommon 1 (writtenBack s2)
    { s3 with golger := keepGolger s3.golger }

/-- A cold reset; it releases a trip, and the rails come up again. -/
def coldReset (s : State) : State :=
  if !s.conn.vin then s
  else
    let s1 := resetCommon 2 s
    let s2 := { s1 with golger := Golger.reset, conn := { s1.conn with pwrGood := true, tripLow := false } }
    let s3 := s2.setPower fun p => { p with trip := none }
    if s.power.trip.isSome then (s3.emit (.pin 1 false)).emit (.pin 2 true) else s3

/-- POWER_LOSS: the always-on domain goes too. -/
def powerLoss (s : State) : State :=
  let s1 := resetCommon 3 s
  { s1 with
    aon := 0, golger := Golger.reset, power := Power.reset, telem := Telem.reset
    test := { Test.reset with last := 3 }
    conn := { s1.conn with vin := false, pwrGood := false, tripLow := false } }

/-- POWER_UP: the always-on domain starts its counter at 0, and the rails come into regulation (R571). -/
def powerUp (s : State) : State :=
  if s.conn.vin then s
  else ({ s with aon := 0, conn := { s.conn with vin := true, pwrGood := true } }).emit (.pin 2 true)

/-! Reset inputs -/

/-- PERST# falls; with MRST# low the reset is of level M already (R573). -/
def perstFall (s : State) : State :=
  let s1 := { s with conn := { s.conn with perstLow := true } }
  if s.conn.mrstLow ∨ s.conn.perstLow then s1 else warmReset s1

/-- MRST# falls. -/
def mrstFall (s : State) : State := if s.conn.mrstLow then s else coldReset { s with conn := { s.conn with mrstLow := true } }

/-- MRST# rises: the straps are sampled, and an instruction that needs MRST# low gives way to BYPASS. -/
def mrstRise (straps : BitVec 4) (s : State) : State :=
  if !s.conn.mrstLow then s
  else
    { s with conn := { s.conn with
        mrstLow := false, straps := straps, strapped := true
        tap := match s.conn.tap with
          | .bypass => .bypass
          | .idcode => .idcode
          | .samplePreload => .samplePreload
          | .extest | .clamp | .highz | .extestPulse | .extestTrain => .bypass } }

/-- A hot reset, or a link disable, comes over the PCIe link. -/
def hotReset (s : State) : State := if s.conn.linkUp then warmReset s else s

/-- REFCLK_LOSS: the link goes down, and its next training uses SRIS (R569). -/
def refclkLoss (s : State) : State :=
  if s.conn.linkUp ∧ !s.conn.sris then { s with conn := { s.conn with linkUp := false, sris := true } } else s

/-! Boot (R499–R502) -/

/-- The slot that the Boot ROM chooses, the header it writes, and whether a trial has run out (R500). -/
def chooseSlot (s : State) : Nat × Bool × State :=
  let h := flashHdr s
  if h.trial then
    if h.tries = 0 then (1 - h.active, true, writeHdr (1 - h.active) false 0 s)
    else (h.active, false, writeHdr h.active true (h.tries - 1) s)
  else (h.active, false, s)

/-- Enter Recovery mode: cores 1 to 3 stay halted, and slot 2 is extended with zeros (R502, R503). -/
def enterRecovery (code : Nat) (s : State) : State :=
  extend 2 (leBytes 0 64) (s.setHearth fun h => { h with
    recovery := true, code := code, running := [], onTrial := false
    cores := [1, 2, 3].foldl (fun m k => SMap.modify HCore.reset m k fun c => { c with halted := true }) h.cores })

/-- The image of a slot runs. -/
def runSlot (slot : Nat) (s : State) : State :=
  let trial := (flashHdr s).trial
  measureImage slot (s.setHearth fun h => { h with
    slot := slot, onTrial := trial, running := s.flashBytes (slotBase slot) 1024, fwState := if trial then .trial else .idle })

/-- Steps 1 to 3: choose, verify, measure; whether a trial ran out goes with the state. -/
def bootImage (env : BootEnv) (s : State) : Bool × State :=
  let s0 := measureOtp (extend 0 (leBytes Config.romDigest.toNat 64) s)
  if !env.flashOk then (false, enterRecovery 0 s0)
  else
    let c := chooseSlot s0
    if !s.conn.straps.getLsbD 3 then (c.2.1, enterRecovery 0 c.2.2)
    else
      let code := verifyImage c.2.2 c.1
      if code = 0 then (c.2.1, runSlot c.1 c.2.2)
      else
        let other := 1 - c.1
        if verifyImage c.2.2 other = 0 then
          (c.2.1, (runSlot other (writeHdr other false 0 c.2.2)).setHearth fun h => { h with fallback := true, code := code })
        else (c.2.1, enterRecovery 0x0905 c.2.2)

/-- Step 4: the ruling settings generation's nonzero fields, clamped as writes of their registers are (R512). -/
def applySettings (s : State) : State :=
  match rulingGen s with
  | none => s
  | some g =>
    let f (i n : Nat) : Nat := recField g i n
    let s1 := if f 4 4 = 0 then s else s.setPower fun p => { p with limit := clampNat 800 2400 (f 4 4) }
    let s2 := if f 8 4 = 0 then s1 else s1.setHearth fun h => { h with wdogPeriod := BitVec.ofNat 32 (max 3125 (f 8 4)) }
    [0, 1].foldl (fun s d => s.setDie d fun m => { m with
      mapoutThresh := if f 12 2 = 0 then m.mapoutThresh else f 12 2
      hbmScrubPeriod := if f 14 4 = 0 then m.hbmScrubPeriod else clampNat 3600 86400 (f 14 4 % 131072)
      fallowScrubPeriod := if f 18 4 = 0 then m.fallowScrubPeriod else clampNat 3600 86400 (f 18 4 % 131072) }) s2

/-- Step 5: none where training fails. Contents that are not kept are zeroed (R553, R580). -/
def bootMemory (env : BootEnv) (s : State) : Option State :=
  let kept := s.test.memKept && env.quickTrain
  if !kept ∧ !env.fullTrain then none
  else
    let s1 := if kept then s
      else { s with mem := { s.mem with dev := [], errs := s.mem.stuck, groupCrc := [], lines := [] }, test := { s.test with memKept := false } }
    some (([0, 1].foldl (fun s d => s.setDie d fun m => { m with
      hbmReady := true, fallowReady := true
      fallowRetrains := min 15 (if d = 0 then env.retrains.1 else env.retrains.2) }) s1))

/-- Lintel slices in service, with those repaired (R356). -/
def bootLintel (env : BootEnv) (s : State) : State :=
  [0, 1].foldl (fun s d => s.setDie d fun m => { m with
    lintelReady := true, lintelRepaired := min 32 (if d = 0 then env.lintelRepaired.1 else env.lintelRepaired.2) }) s

/-- Fence the twelve setts of a column. -/
def fenceColumn (die col status : Nat) (s : State) : State :=
  (List.range 12).foldl (fun s r =>
    let i := 204 * die + 17 * r + col
    (setFenced i true s).setSett i fun t => { t with phase := .fenced, status := if status = 0 then t.status else BitVec.ofNat 16 status }) s

/-- Apply one repair-log entry (R551). -/
def applyRepair (s : State) (e : Nat × Nat × Nat) : State :=
  match e.1 with
  | 1 => if e.2.2 < 17 then fenceColumn e.2.1 e.2.2 0 s else s
  | 2 => if e.2.2 < 192 then s.setDie e.2.1 fun m => { m with mapout := m.mapout ||| (1#192 <<< e.2.2) } else s
  | 3 => if e.2.2 < 24 then s.setCore e.2.2 fun q => { q with fence := true } else s
  | _ => s

/-- Step 6: failing columns enter the log, and every entry is applied. -/
def bootRepairs (env : BootEnv) (s : State) : State :=
  let fails := env.failCols.filter fun c => decide (c < 34)
  let s1 := fails.foldl (fun s c =>
    if s.repairs.contains (1, c / 17, c % 17) then s else writeRepair 1 (c / 17) (c % 17) 0x04 s) s
  let s2 := s1.repairs.foldl applyRepair s1
  fails.foldl (fun s c => fenceColumn (c / 17) (c % 17) 0x0204 s) s2

/-- Boot stops at a step. -/
def bootStops (stage code : Nat) (s : State) : State :=
  s.setHearth fun h => { h with stage := stage, code := if h.code = 0 then code else h.code }

/-- Steps 5 to 8. -/
def bootRest (env : BootEnv) (fell : Bool) (s : State) : State :=
  match bootMemory env s with
  | none => bootStops 5 0x0307 s
  | some s1 =>
    if !env.lintelOk then bootStops 6 0x0308 s1
    else
      let s2 := bootRepairs env (bootLintel env s1)
      let s3 := s2.setHearth fun h => { h with stage := 8, ready := true }
      if fell then fwEvent 0 3 (runningVersion s3) s3 else s3

/-- BOOT_START: with both reset inputs high, boot runs from step 1. -/
def bootStart (env : BootEnv) (s : State) : State :=
  if s.conn.mrstLow ∨ !s.powered ∨ s.hearth.stage ≠ 0 then s
  else
    let s0 := { s with conn := { s.conn with
      perstLow := false, straps := if s.conn.strapped then s.conn.straps else env.straps, linkUp := true, sris := !env.refclk } }
    let r := bootImage env s0
    let s1 := r.2.setHearth fun h => { h with
      stage := 4
      cores := [0, 1, 2, 3].foldl (fun m k => SMap.modify HCore.reset m k fun c => { c with kick := s.now }) h.cores }
    bootRest env r.1 (applySettings s1)

/-! The TAP (R572) -/

/-- Select an instruction; one that needs MRST# low selects BYPASS while it is high. -/
def selectTap (t : TapInstr) (needsLow : Bool) (s : State) : State :=
  if !s.conn.vin then s
  else { s with conn := { s.conn with tap := if needsLow && !s.conn.mrstLow then .bypass else t } }

/-- The identification registers of both dies: die 1 stands next to TDO. -/
def showIdcode (s : State) : State := if s.conn.vin then s.emit (.tdo [0x1C193A6B, 0x1C192A6B]) else s

end Sys2Proof.Machine
end

