-- ==== Sys2Proof/Machine/RegRead.lean ====
section
/-! DEFINITION. What a read of a BAR0 register shows (R11–R18, R74, R174, R248, R361, R385, R410, R429, R459, R491, R523,
R543, R558, R574, R575). Offsets are those of the physical function's BAR0. -/

namespace Sys2Proof.Machine

/-- Instance number and offset within it, for `n` instances of a stride from a base. -/
def inBlock (base stride n off : Nat) : Option (Nat × Nat) :=
  if base ≤ off ∧ off < base + stride * n then some ((off - base) / stride, (off - base) % stride) else none

/-- The BAR0 offset of the physical function that a function's own offset names (R18, R575). -/
def mapOffset (fn off : Nat) : Option Nat :=
  if fn = 0 then some off
  else if off < 0x1000 then some (0x10000 + fn * 0x1000 + off)
  else if 0x1008 ≤ off ∧ off < 0x1030 then some (0x800000 + fn * 0x100 + (off - 0x1000))
  else none

/-- INDEX and PHASE of a ring's HEAD. -/
def headWord (idx : Nat) (phase : Bool) : Nat := idx + b2n phase * 65536

/-- LOG2N as it reads: the nearest limit. -/
def clampLog (lo : Nat) (w : W32) : Nat := w.toNat / 32 * 32 + clampNat lo 16 (w.toNat % 32)

/-! Stile -/

def ArrayState.code : ArrayState → Nat
  | .free => 0
  | .admitting => 1
  | .running => 2
  | .saving => 3
  | .restoring => 4
  | .stopping => 5

/-- STILE_RUN_STATUS. -/
def runStatus (s : State) : Nat :=
  let r := s.stile.cur
  s.stile.array.code * 2 ^ 28 + ((r.map (·.cls)).getD 0) * 2 ^ 26 + ((r.map (·.client)).getD 0) * 2 ^ 21
    + ((r.map (·.queue)).getD 0) * 2 ^ 18 + min 256 s.readyRuns.length * 2 ^ 9

def stileReg (s : State) (o : Nat) : Nat :=
  match o with
  | 0x08 => 2 * b2n s.stile.stop + b2n s.stile.preempt
  | 0x0C => runStatus s
  | 0x14 => s.stile.affinity.toNat
  | 0x20 => (s.stile.slices.get 0 0).toNat
  | 0x24 => (s.stile.slices.get 0 1).toNat
  | 0x28 => (s.stile.slices.get 0 2).toNat
  | 0x2C => (s.stile.slices.get 0 3).toNat
  | 0xE018 => s.stile.esc.statusWord
  | _ => 0

def stileReg64 (s : State) (o : Nat) : Option Nat :=
  match o with
  | 0x18 => some s.stile.wdogMax.toNat
  | 0x30 => some s.stile.bar2Base.toNat
  | 0x38 => some s.stile.bar2Err.toNat
  | 0x40 => some s.stile.bar2ErrCnt.toNat
  | 0xE000 => some s.stile.esc.cnt.toNat
  | 0xE008 => some s.stile.esc.exhCnt.toNat
  | 0xE010 => some s.stile.esc.budget.toNat
  | 0xE020 => some s.stile.esc.worst
  | _ => none

def cqStatus (k : Client) : Nat :=
  b2n (!k.held.isEmpty) * 2 ^ 31 + b2n k.bad * 2 ^ 30 + min 256 k.held.length

def queueReg (q : Queue) (o : Nat) : Nat :=
  match o with
  | 0x08 => clampLog 4 q.ctrl
  | 0x0C => q.fetched.toNat
  | 0x10 => b2n q.err * 2 ^ 31 + q.k % 8 * 2 ^ 16 + min 32 q.descs.length
  | _ => 0

def clientReg (k : Client) (o : Nat) : Nat :=
  match o with
  | 0x000 => k.policy.toNat / 256 * 256 + max 1 (k.policy.toNat % 256)
  | 0x010 => clampLog 4 k.cqCtrl
  | 0x014 => headWord k.headIdx k.headPhase
  | 0x018 => k.tail.toNat
  | 0x01C => cqStatus k
  | 0x038 => k.acctPreempts.toNat
  | 0x03C => k.acctRuns.toNat
  | _ => if 0x100 ≤ o ∧ o < 0x200 then queueReg (k.q ((o - 0x100) / 0x20)) (o % 0x20) else 0

def clientReg64 (k : Client) (o : Nat) : Option Nat :=
  match o with
  | 0x008 => some k.cqBase.toNat
  | 0x020 => some k.acctWait.toNat
  | 0x028 => some k.acctRun.toNat
  | 0x030 => some k.acctSave.toNat
  | 0x040 => some (k.deficit % 2 ^ 64).toNat
  | _ => if 0x100 ≤ o ∧ o < 0x200 ∧ o % 0x20 = 0 then some (k.q ((o - 0x100) / 0x20)).base.toNat else none

/-! Hearth and security -/

/-- A word of a byte buffer. -/
def bufWord (m : SMap Byte) (o : Nat) : Nat := leNat (SMap.getMany 0 m o 4)

/-- A request of mailbox 0 is in progress. -/
def mbBusy (s : State) : Bool := s.hearth.staging.any fun g => g.mb == 0 && !g.lost

def mbStatus (s : State) : Nat :=
  b2n s.hearth.response * 2 ^ 31 + b2n s.hearth.notify * 2 ^ 30 + b2n (mbBusy s) * 2 ^ 29
    + s.hearth.waiting.length * 2 ^ 16 + s.hearth.lost.toNat

/-- HEARTH_BOOT_STATUS. -/
def bootStatus (h : Hearth) : Nat :=
  h.stage * 2 ^ 28 + b2n h.ready * 2 ^ 27 + b2n h.recovery * 2 ^ 26 + b2n h.halt * 2 ^ 25 + h.slot % 2 * 2 ^ 24
    + b2n h.onTrial * 2 ^ 23 + b2n h.fallback * 2 ^ 22 + h.code % 65536

def coreStatus (s : State) (k : Nat) : Nat :=
  b2n (s.hcore k).halted * 2 ^ 29 + dutyMask s k * 2 ^ 24 + (s.hcore k).restarts.toNat

def hearthReg (s : State) (o : Nat) : Nat :=
  if o < 0x1000 then bufWord s.hearth.reqBuf o
  else if o < 0x2000 then bufWord s.hearth.respBuf (o - 0x1000)
  else if o < 0x3000 then bufWord s.hearth.noteBuf (o - 0x2000)
  else match o with
    | 0x3000 => b2n s.hearth.posted
    | 0x3004 => mbStatus s
    | 0x3008 => s.hearth.vector.toNat
    | 0x3010 => bootStatus s.hearth
    | 0x3014 => fwStatusWord s
    | 0x3018 => runningVersion s
    | 0x3020 => coreStatus s 0
    | 0x3024 => coreStatus s 1
    | 0x3028 => coreStatus s 2
    | 0x302C => coreStatus s 3
    | 0x3040 => s.hearth.wdogPeriod.toNat
    | 0x3044 => s.hearth.wdogLimit.toNat
    | _ => 0

/-- SEC_KEYS. -/
def secKeys (s : State) : Nat :=
  svnCount s * 2 ^ 8 + ((List.range 4).map fun k => b2n (keyPresent s k) * 2 ^ (4 + k) + b2n (keyRevoked s k) * 2 ^ k).foldl (· + ·) 0

def secReg (s : State) (o : Nat) : Nat :=
  if o < 0x400 then (SMap.get (0 : BitVec 512) s.hearth.meas (o / 64)).toNat / 2 ^ (o % 64 * 8) % 2 ^ 32
  else if o = 0x800 then secKeys s
  else if 0x1000 ≤ o ∧ o < 0x2000 then bufWord s.hearth.otp (o - 0x1000)
  else 0

/-! Mortar and Golger -/

/-- STATE of MORTAR_CTX_STATUS: a bound context that works is active. -/
def ctxState (x : Ctx) : Nat :=
  match x.phase with
  | .free => 0
  | .bound => if x.cur.isSome ∨ !x.ending.isEmpty then 2 else 1
  | .frozen => 3
  | .down => 4

def ctxReg (s : State) (c o : Nat) : Nat :=
  let x := s.ctx c
  match o with
  | 0x00 => x.ctrl.toNat
  | 0x04 =>
    let n := (s.mortar.groups.filter fun g => g.ctx == some c).length
    ctxState x * 2 ^ 28 + x.client * 2 ^ 23 + min 64 x.queue.length * 2 ^ 16 + min 4096 n
  | _ => 0

def ctxReg64 (s : State) (c o : Nat) : Option Nat :=
  match o with
  | 0x08 => some (s.ctx c).chunkCnt.toNat
  | 0x10 => some (s.ctx c).resendCnt.toNat
  | 0x18 => some (s.ctx c).failCnt.toNat
  | _ => none

def mortarReg (s : State) (o : Nat) : Nat :=
  match o with
  | 0x0 => s.mortar.timeoutDefault.toNat
  | 0x4 => s.mortar.ackLimit.toNat
  | 0x8 => groupsUsed s * 2 ^ 16 + membersUsed s
  | _ => 0

def mortarReg64 (s : State) (o : Nat) : Option Nat :=
  match o with
  | 0x10 => some s.mortar.epochCnt.toNat
  | 0x18 => some s.mortar.lastFail.toNat
  | _ => none

def PortPhase.code : PortPhase → Nat
  | .down => 0
  | .training => 1
  | .up => 2
  | .draining => 3
  | .disabled => 4

def portReg (g : GPort) (o : Nat) : Nat :=
  match o with
  | 0x0 => if field g.ctrl.toNat 7 4 = 0 then g.ctrl.toNat + 16 else g.ctrl.toNat
  | 0x4 => g.phase.code * 2 ^ 28 + g.lanes.toNat * 2 ^ 20 + b2n g.saved * 2 ^ 19 + g.lastCode % 65536
  | 0x8 => match g.peer with
    | some p => 2 ^ 31 + p % 2 ^ 17
    | none => 0
  | _ => 0

def portReg64 (g : GPort) (o : Nat) : Option Nat :=
  if 0x10 ≤ o ∧ o < 0x50 ∧ o % 8 = 0 then some (g.cnt.get 0 ((o - 0x10) / 8)).toNat else none

def golgerReg (s : State) (o : Nat) : Nat :=
  match o with
  | 0x0 => s.golger.moduleId
  | 0x4 => s.golger.hopLimit
  | 0x8 => s.golger.stallLimit.toNat
  | 0xC => s.golger.drainLimit.toNat
  | _ => if 0x10000 ≤ o ∧ o < 0x18000 then (s.route ((o - 0x10000) / 4)).toNat else 0

def golgerReg64 (s : State) (o : Nat) : Option Nat :=
  match o with
  | 0x10 => some s.golger.norouteCnt.toNat
  | 0x18 => some s.golger.ttlCnt.toNat
  | 0x20 => some s.golger.stallCnt.toNat
  | _ => none

/-! Codec -/

/-- STATE of CODEC_CORE_STATUS. -/
def coreState (s : State) (c : Nat) : Nat :=
  let q := s.core c
  if q.testing then 7
  else if q.fault.isSome then 5
  else match q.ctx.bind s.strm with
    | some x => if !q.awake then 0 else if q.busy ∨ !q.acts.isEmpty then (if x.isEnc then 3 else 2) else 4
    | none => if q.fence then 6 else if q.awake then 1 else 0

def codecCoreReg (s : State) (c o : Nat) : Nat :=
  let q := s.core c
  match o with
  | 0x0 => 2 * b2n q.testing + b2n q.fence
  | 0x4 =>
    let x := q.ctx.bind s.strm
    coreState s c * 2 ^ 28 + ((x.map (·.client)).getD 0) * 2 ^ 23 + (q.ctx.getD 0) % 256 * 2 ^ 15 + ((x.map (·.cls)).getD 0) % 4 * 2 ^ 13
      + b2n q.testFail * 2 ^ 12
  | _ => 0

def codecCoreReg64 (s : State) (c o : Nat) : Option Nat :=
  match o with
  | 0x08 => some (s.core c).pix.toNat
  | 0x10 => some (s.core c).budgets.toNat
  | _ => none

def openStreams (s : State) : Nat := (s.codec.streams.filter fun e => e.2.isSome).length

/-- The four words of an entry record. -/
def entryReg (s : State) (e w : Nat) : Nat :=
  match s.entry e with
  | none => 0
  | some x =>
    match w with
    | 0 => 2 ^ 31 + x.mark % 4 * 2 ^ 29 + b2n x.pending * 2 ^ 28 + min 63 (refCount s x) * 2 ^ 22
        + (((s.strm x.ctx).map (·.client)).getD 0) * 2 ^ 17 + x.ctx % 256 * 2 ^ 9 + x.slot % 512
    | 1 => x.pic % 2 ^ 32
    | 2 => x.dpa / 65536 % 2 ^ 25
    | _ => (((s.strm x.ctx).map fun y => entSize y.block / 65536).getD 0) % 65536

def codecReg (s : State) (o : Nat) : Nat :=
  match o with
  | 0x20 => (freeEntries s).length
  | 0x24 => s.codec.faultLimit.toNat
  | 0x28 => openStreams s
  | _ => if 0x8000 ≤ o ∧ o < 0xA000 then entryReg s ((o - 0x8000) / 16) (o % 16 / 4) else 0

def codecReg64 (s : State) (o : Nat) : Option Nat :=
  match o with
  | 0x00 => some (s.codec.poolBase.get 0 0).toNat
  | 0x08 => some (s.codec.poolSize.get 0 0).toNat
  | 0x10 => some (s.codec.poolBase.get 0 1).toNat
  | 0x18 => some (s.codec.poolSize.get 0 1).toNat
  | 0x30 => some s.codec.concealCnt.toNat
  | 0x38 => some s.codec.capCnt.toNat
  | _ => none

/-! Memory, Lintel and Cairn -/

def hbmReg (s : State) (d o : Nat) : Nat :=
  let m := s.die d
  match o with
  | 0x000 => b2n m.mapPending * 2 ^ 31 + b2n m.mapBusy * 2 ^ 30 + b2n m.limit * 2 ^ 29 + m.pendingPc % 256 * 2 ^ 16 + min 16 (s.mappedOut d)
  | 0x004 => m.hbmScrubPeriod
  | 0x008 => m.hbmPasses * 2 ^ 16 + m.hbmProgress % 1024
  | 0x00C => m.mapoutThresh
  | 0x030 => m.pcSel
  | 0x034 =>
    let w := worstSymbol m m.pcSel
    let n := ((List.range 36).map fun k => m.symbols.get 0 (64 * m.pcSel + k)).foldl (· + ·) 0
    b2n (bit m.mapout.toNat m.pcSel) * 2 ^ 31 + w.1 * 2 ^ 25 + min (2 ^ 24 - 1) n
  | _ => if 0x040 ≤ o ∧ o < 0x058 then m.mapout.toNat / 2 ^ (8 * (o - 0x040)) % 2 ^ 32 else 0

def hbmReg64 (m : DieMem) (o : Nat) : Option Nat :=
  match o with
  | 0x010 => some m.ceCnt.toNat
  | 0x018 => some m.ueCnt.toNat
  | 0x020 => some m.poisonCnt.toNat
  | 0x028 => some m.errAddr.toNat
  | _ => none

def fallowReg (m : DieMem) (o : Nat) : Nat :=
  match o with
  | 0x000 => b2n m.fallowReady * 2 ^ 31 + m.fallowRetrains % 16
  | 0x004 => m.fallowScrubPeriod
  | 0x008 => m.fallowPasses * 2 ^ 16 + m.fallowProgress % 1024
  | _ => 0

def fallowReg64 (m : DieMem) (o : Nat) : Option Nat :=
  match o with
  | 0x010 => some m.fCeCnt.toNat
  | 0x018 => some m.fUeCnt.toNat
  | 0x020 => some m.fLinkCnt.toNat
  | 0x028 => some m.fErrAddr.toNat
  | _ => none

/-- Waits held in the fullest slice of a die. -/
def fullestSlice (s : State) (d : Nat) : Nat :=
  ((List.range 32).map fun k => (s.waitAddrs.filter fun a =>
    homeDie a == d && (Config.lintelSlice (a / 256)).toNat == k).length).foldl max 0

def lintelReg (s : State) (d o : Nat) : Nat :=
  let m := s.die d
  match o with
  | 0x000 => b2n m.lintelReady * 2 ^ 31 + min 63 m.lintelRepaired
  | 0x004 => m.lintelPinned % 2 ^ 26
  | 0x008 => min 1024 (fullestSlice s d)
  | _ => 0

def lintelReg64 (m : DieMem) (o : Nat) : Option Nat :=
  match o with
  | 0x010 => some m.lEccCnt.toNat
  | 0x018 => some m.lWaitOvfCnt.toNat
  | 0x020 => some m.lTileCrcCnt.toNat
  | _ => none

/-- Flips of a table that wait. -/
def flipsWait (s : State) (tb : Nat) : Nat :=
  s.entries fun i q => match q.instr with
    | .cairnFlip _ _ f => decide (q.st = .waiting .cairnFlip) && cairnTable (s.sett i) f == tb
    | _ => false

def cairnReg (s : State) (tb o : Nat) : Nat :=
  let c := s.cairnT tb
  let e := c.epoch.toNat
  match o with
  | 0x008 => b2n c.owned * 2 ^ 31 + b2n c.clearing * 2 ^ 30 + b2n (flipsWait s tb != 0) * 2 ^ 29 + e % 2 * 2 ^ 28
      + min 4095 (if e = 0 then 0 else lookupsBound s tb (e - 1)) * 2 ^ 16 + min 8191 (fillsBound s tb e) * 2 ^ 3
  | _ => 0

def cairnReg64 (c : Cairn) (o : Nat) : Option Nat :=
  match o with
  | 0x000 => some c.epoch.toNat
  | 0x010 => some c.lookupCnt.toNat
  | 0x018 => some c.unsetCnt.toNat
  | 0x020 => some c.fillCnt.toNat
  | 0x028 => some c.dropCnt.toNat
  | _ => none

/-! Translation -/

def fqStatus (x : XlatClient) : Nat :=
  b2n (!x.held.isEmpty) * 2 ^ 31 + b2n x.bad * 2 ^ 30 + min 2047 x.held.length * 2 ^ 16 + min 2047 (x.waiting.filter fun f => !(x.held.any fun g => g.id == f.id)).length

def xlatReg (x : XlatClient) (o : Nat) : Nat :=
  match o with
  | 0x10 => clampLog 6 x.fqCtrl
  | 0x14 => headWord x.headIdx x.headPhase
  | 0x18 => x.tail.toNat
  | 0x1C => fqStatus x
  | _ => 0

def xlatReg64 (x : XlatClient) (o : Nat) : Option Nat :=
  match o with
  | 0x00 => some x.root.toNat
  | 0x08 => some x.fqBase.toNat
  | 0x20 => some 0
  | 0x28 => some x.faultCnt.toNat
  | _ => none

def xlatCommonReg64 (x : Xlat) (o : Nat) : Option Nat :=
  match o with
  | 0x00 => some x.invVa.toNat
  | 0x10 => some x.missCnt.toNat
  | 0x18 => some x.walkCnt.toNat
  | _ => none

/-! Telemetry, power and test -/

/-- TELEM_CRASH. -/
def crashWord (t : Telem) : Nat :=
  match t.crash with
  | none => 0
  | some r => 2 ^ 31 + b2n t.inFlash * 2 ^ 30 + t.later * 2 ^ 16 + r.code % 65536

def telemReg (t : Telem) (o : Nat) : Nat :=
  match o with
  | 0x00 => t.alarm.toNat
  | 0x04 => clampLog 6 t.ctrl
  | 0x18 => t.evtHead.toNat
  | 0x1C => t.evtTail.toNat
  | 0x28 => t.gapCnt.toNat
  | 0x2C => crashWord t
  | _ => if 0x40 ≤ o ∧ o < 0x60 then (t.alarmCnt.get 0 ((o - 0x40) / 4)).toNat else 0

def telemReg64 (s : State) (o : Nat) : Option Nat :=
  match o with
  | 0x08 => some s.aon.toNat
  | 0x10 => some s.telem.evtBase.toNat
  | 0x20 => some s.telem.evtLost.toNat
  | _ => none

def powerReg (p : Power) (o : Nat) : Nat :=
  match o with
  | 0x00 => pwrStatus p
  | 0x04 => p.fmax
  | 0x08 => p.limit
  | 0x0C => p.gateIdle.toNat
  | 0x10 => p.sample.toNat
  | _ => 0

def fencedWord (s : State) (k : Nat) : Nat :=
  ((List.range 32).map fun j =>
    if 32 * k + j < 408 ∧ s.test.fenced.get false (32 * k + j) then 2 ^ j else 0).foldl (· + ·) 0

/-- Physical columns of a die that serve no logical one, and the lowest of them. A column that maps nothing while in
service is spare, and one out of service is counted by OUT. -/
def spareWord (s : State) (d : Nat) : Nat :=
  let mapped := s.cols d
  let un := (List.range 17).filter fun c => !mapped.contains c
  un.length * 32 + un.headD 31

def testReg (s : State) (o : Nat) : Nat :=
  match o with
  | 0x00 => s.test.cmd.toNat
  | 0x04 => b2n s.test.job.isSome * 2 ^ 31 + b2n (!s.test.waiting.isEmpty) * 2 ^ 30 + s.test.code % 65536
  | 0x50 => spareWord s 1 * 2 ^ 16 + spareWord s 0
  | 0x64 => s.test.last % 16 * 2 ^ 28 + b2n s.test.memKept * 2 ^ 27 + s.test.count.toNat
  | 0x68 => repairsUsed s
  | _ => if 0x10 ≤ o ∧ o < 0x44 then fencedWord s ((o - 0x10) / 4) else 0

/-! Sett windows (R74) -/

def phaseCode (t : Sett) : Nat :=
  match t.phase with
  | .gated => 0
  | .idle => 1
  | .running => if t.asleep then 0 else if t.cause = 0 then 2 else 3
  | .draining => 4
  | .saved => 5
  | .fenced => 6
  | .selfTest => 7
  | .completed => 8

def settId (s : State) (i : Nat) : Nat :=
  let phys := i / 204 * 2 ^ 17 + i % 204 / 17 * 2 ^ 13 + i % 17 * 2 ^ 8
  match s.logicalOf i with
  | some (r, c) => c * 2 ^ 22 + r * 2 ^ 18 + phys
  | none => 2 ^ 27 + i % 204 / 17 * 2 ^ 18 + phys

def settReg (s : State) (i o : Nat) : Nat :=
  let t := s.sett i
  match o with
  | 0x00 => settId s i
  | 0x04 => b2n t.compat * 2 ^ 19 + b2n t.warm * 2 ^ 18 + s.settMode i % 4 * 2 ^ 16 + t.cause * 2 ^ 8 + phaseCode t
  | 0x08 => t.status.toNat
  | 0x0C => t.flags.toNat
  | 0x30 => t.eccCnt.toNat
  | _ => 0

def settReg64 (t : Sett) (o : Nat) : Option Nat :=
  match o with
  | 0x10 => some (field t.pc.toNat 47 3 * 8)
  | 0x20 => some t.shedCnt.toNat
  | 0x28 => some t.satCnt.toNat
  | _ => if 0x100 ≤ o ∧ o < 0x180 ∧ o % 8 = 0 then some (t.evt.get 0 ((o - 0x100) / 8)).toNat else none

/-! The whole of BAR0 (R574) -/

/-- A 32-bit register; an unlisted offset reads zero. -/
def reg32 (s : State) (off : Nat) : Nat :=
  let go (b stride n : Nat) (f : Nat → Nat → Nat) (rest : Nat) : Nat := match inBlock b stride n off with
    | some (i, o) => f i o
    | none => rest
  go 0 0x10000 1 (fun _ => stileReg s) <| go 0x10000 0x1000 32 (fun c => clientReg (s.cl c)) <|
  go 0x100000 0x100000 1 (fun _ => hearthReg s) <| go 0x200000 0x100 256 (ctxReg s) <|
  go 0x210000 0x100 1 (fun _ => mortarReg s) <| go 0x300000 0x10000 12 (fun p => portReg (s.port p)) <|
  go 0x3C0000 0x20000 1 (fun _ => golgerReg s) <| go 0x400000 0x4000 24 (codecCoreReg s) <|
  go 0x460000 0x10000 1 (fun _ => codecReg s) <| go 0x500000 0x8000 2 (hbmReg s) <|
  go 0x510000 0x8000 2 (fun d => fallowReg (s.die d)) <| go 0x600000 0x8000 2 (lintelReg s) <|
  go 0x700000 0x1000 2 (cairnReg s) <| go 0x800000 0x100 32 (fun c => xlatReg (s.client c)) <|
  go 0x804000 0x100 1 (fun _ o => if o = 0x0C then s.xlat.invDone.toNat else 0) <|
  go 0x900000 0x100 1 (fun _ => telemReg s.telem) <| go 0xA00000 0x100 1 (fun _ => powerReg s.power) <|
  go 0xB00000 0x2000 1 (fun _ => secReg s) <| go 0xC00000 0x100 1 (fun _ => testReg s) <|
  go 0x1000000 0x8000 408 (settReg s) 0

/-- A 64-bit register whose low word lies at the offset. -/
def reg64 (s : State) (off : Nat) : Option Nat :=
  let go (b stride n : Nat) (f : Nat → Nat → Option Nat) (rest : Option Nat) : Option Nat := match inBlock b stride n off with
    | some (i, o) => f i o
    | none => rest
  go 0 0x10000 1 (fun _ => stileReg64 s) <| go 0x10000 0x1000 32 (fun c => clientReg64 (s.cl c)) <|
  go 0x200000 0x100 256 (ctxReg64 s) <| go 0x210000 0x100 1 (fun _ => mortarReg64 s) <|
  go 0x300000 0x10000 12 (fun p => portReg64 (s.port p)) <| go 0x3C0000 0x20000 1 (fun _ => golgerReg64 s) <|
  go 0x400000 0x4000 24 (codecCoreReg64 s) <| go 0x460000 0x10000 1 (fun _ => codecReg64 s) <|
  go 0x500000 0x8000 2 (fun d => hbmReg64 (s.die d)) <| go 0x510000 0x8000 2 (fun d => fallowReg64 (s.die d)) <|
  go 0x600000 0x8000 2 (fun d => lintelReg64 (s.die d)) <| go 0x700000 0x1000 2 (fun t => cairnReg64 (s.cairnT t)) <|
  go 0x800000 0x100 32 (fun c => xlatReg64 (s.client c)) <| go 0x804000 0x100 1 (fun _ => xlatCommonReg64 s.xlat) <|
  go 0x900000 0x100 1 (fun _ => telemReg64 s) <|
  go 0xA00000 0x100 1 (fun _ o => if o = 0x18 then some s.power.emergCnt.toNat else none) <|
  go 0x1000000 0x8000 408 (fun i => settReg64 (s.sett i)) none

/-- A function's read of a register (R12): a low word captures the high word in the function's shadow, and the next
read of that high word returns it. -/
def readReg (fn off : Nat) (s : State) : State :=
  let show_ (v : Nat) (s : State) : State := s.emit (.data (BitVec.ofNat 32 v))
  match bar4Off off, (if off % 4 = 0 then mapOffset fn off else none) with
  | some o, _ => show_ (if o % 4 = 0 then s.bar4Read fn o else 0) s
  | none, none => show_ 0 s
  | none, some a =>
    match reg64 s a with
    | some v => show_ v { s with shadow := SMap.set none s.shadow fn (some (a, BitVec.ofNat 32 (v / 2 ^ 32))) }
    | none => match (if 4 ≤ a then reg64 s (a - 4) else none) with
      | some v => match s.shadow.get none fn with
        | some (b, h) =>
          if b = a - 4 then show_ h.toNat { s with shadow := SMap.set none s.shadow fn none } else show_ (v / 2 ^ 32) s
        | none => show_ (v / 2 ^ 32) s
      | none => show_ (reg32 s a) s

end Sys2Proof.Machine
end

