-- ==== Sys2Proof/Machine/RegWrite.lean ====
section
/-! DEFINITION. What a write of a BAR0 register does (R11–R15, R18, R361, R385, R389, R410, R429, R459, R491, R523, R543,
R558, R575). A write that has a command of its own does what that command does. -/

namespace Sys2Proof.Machine

/-- Run TEST_CMD's command (R545, R558). -/
def runTest (j : TestJob) (s : State) : State :=
  testCmd j (fun s => match j.op with
    | 1 => if j.unit = 0 then fenceSett j.index s else setCode 0x0A04 s
    | 2 => if j.unit = 0 then unfenceSett j.index s else setCode 0x0A04 s
    | 3 => startTest j s
    | 4 => startRetrain j s
    | _ => setCode 0x0A04 s) s

/-! 32-bit registers -/

def stileWrite (o : Nat) (v : W32) (s : State) : State :=
  let slice (k : Nat) : State := { s with stile := { s.stile with slices := SMap.set 0 s.stile.slices k v } }
  match o with
  | 0x08 => if bit v.toNat 1 then stopRun s else if bit v.toNat 0 then requestPreempt s else s
  | 0x10 => resetClient (v.toNat % 32) s
  | 0x14 => { s with stile := { s.stile with affinity := v } }
  | 0x20 => slice 0
  | 0x24 => slice 1
  | 0x28 => slice 2
  | 0x2C => slice 3
  | _ => s

/-- A client's registers; its POLICY is written by the physical function alone. -/
def clientWrite (fn c o : Nat) (v : W32) (s : State) : State :=
  match o with
  | 0x000 => if fn = 0 then s.setCl c fun k => { k with policy := v &&& 0x3FF#32 } else s
  | 0x010 => writeCqCtrl c v s
  | 0x018 => writeCqTail c v s
  | _ => if 0x100 ≤ o ∧ o < 0x200 ∧ o % 0x20 = 0x08 then writeQueueCtrl c ((o - 0x100) / 0x20) v s else s

/-- HEARTH_MB_CTRL: RESET, then NACK, then POST. -/
def mbCtrl (v : Nat) (s : State) : State :=
  let s1 := if bit v 2 then resetBox 0 s else s
  let s2 := if bit v 1 then nackNote s1 else s1
  if bit v 0 then s2.setHearth fun h => { h with posted := true } else s2

def hearthWrite (o : Nat) (v : W32) (s : State) : State :=
  if o < 0x1000 then s.setHearth fun h => { h with reqBuf := SMap.setMany 0 h.reqBuf o (leBytes v.toNat 4) }
  else match o with
    | 0x3000 => mbCtrl v.toNat s
    | 0x3004 => if bit v.toNat 31 then s.setHearth fun h => { h with response := false } else s
    | 0x3008 => s.setHearth fun h => { h with vector := v &&& 0xFF#32 }
    | 0x3040 => s.setHearth fun h => { h with wdogPeriod := BitVec.ofNat 32 (max 3125 v.toNat) }
    | 0x3044 => s.setHearth fun h => { h with wdogLimit := v &&& 0xFF#32 }
    | _ => s

def ctxRegWrite (c o : Nat) (v : W32) (s : State) : State :=
  match o with
  | 0x00 => fabricDone (if bit v.toNat 0 then ctxTakeDown c s else ctxReturn c s)
  | _ => s

def mortarWrite (o : Nat) (v : W32) (s : State) : State :=
  match o with
  | 0x0 => { s with mortar := { s.mortar with timeoutDefault := v } }
  | 0x4 => { s with mortar := { s.mortar with ackLimit := v } }
  | _ => s

/-- GOLGER_PORT_CTRL: TRIES, AUTO and ROLE are stored; ADMIN trains the port or takes it down. -/
def portWrite (p o : Nat) (v : W32) (s : State) : State :=
  match o with
  | 0x0 =>
    let s1 := s.setPort p fun g => { g with ctrl := (v &&& 0xF6#32) ||| (g.ctrl &&& 1#32) }
    fabricDone (if bit v.toNat 0 then golgerTakeDown p s1 else golgerTrain p s1)
  | _ => s

def golgerWrite (o : Nat) (v : W32) (s : State) : State :=
  match o with
  | 0x0 => golgerSetId v s
  | 0x4 => { s with golger := { s.golger with hopLimit := v.toNat % 16 } }
  | 0x8 => { s with golger := { s.golger with stallLimit := v } }
  | 0xC => { s with golger := { s.golger with drainLimit := v } }
  | _ =>
    if 0x10000 ≤ o ∧ o < 0x18000 then
      { s with golger := { s.golger with routes := SMap.set 0 s.golger.routes ((o - 0x10000) / 4) (v &&& 0x6FFF#32) } }
    else s

/-- CODEC_CORE_CTRL: FENCE is stored, and TEST starts the self-test of a fenced core. -/
def codecCoreWrite (c o : Nat) (v : W32) (s : State) : State :=
  match o with
  | 0x0 =>
    let s1 := if bit v.toNat 0 then fenceCore c s else unfenceCore c s
    if bit v.toNat 1 then testCore c s1 else s1
  | _ => s

def codecWrite (o : Nat) (v : W32) (s : State) : State :=
  match o with
  | 0x24 => { s with codec := { s.codec with faultLimit := v } }
  | _ => s

def hbmWrite (d o : Nat) (v : W32) (s : State) : State :=
  match o with
  | 0x004 => s.setDie d fun m => { m with hbmScrubPeriod := clampNat 3600 86400 (v.toNat % 131072) }
  | 0x00C => s.setDie d fun m => { m with mapoutThresh := v.toNat % 65536 }
  | 0x030 => s.setDie d fun m => { m with pcSel := min 191 (v.toNat % 256) }
  | _ => s

def fallowWrite (d o : Nat) (v : W32) (s : State) : State :=
  match o with
  | 0x004 => s.setDie d fun m => { m with fallowScrubPeriod := clampNat 3600 86400 (v.toNat % 131072) }
  | _ => s

def xlatWrite (c o : Nat) (v : W32) (s : State) : State :=
  match o with
  | 0x10 => writeFqCtrl c v s
  | 0x18 => writeFqTail c v s
  | _ => s

/-- TELEM_ALARM: written ones clear; ALERT# follows (R537, R568). -/
def clearAlarms (v : W32) (s : State) : State :=
  let a := s.telem.alarm &&& ~~~(v.setWidth 8)
  let s1 := s.setTelem fun t => { t with alarm := a }
  if a = 0 ∧ s.telem.alarm ≠ 0 then s1.emit (.pin 0 false) else s1

def telemWrite (o : Nat) (v : W32) (s : State) : State :=
  match o with
  | 0x00 => clearAlarms v s
  | 0x04 => s.setTelem fun t => { t with ctrl := v &&& 0xC7FF001F#32 }
  | 0x1C => s.setTelem fun t => { t with evtTail := v }
  | 0x2C => if bit v.toNat 29 then rearmCrash s else s
  | _ => s

def powerWrite (o : Nat) (v : W32) (s : State) : State :=
  match o with
  | 0x04 => setFmax (v.toNat % 64) s
  | 0x08 => s.setPower fun p => { p with limit := clampNat 800 2400 (v.toNat % 4096) }
  | 0x0C => s.setPower fun p => { p with gateIdle := v }
  | 0x10 => s.setPower fun p => { p with sample := v }
  | _ => s

/-- The command that a word of TEST_CMD spells. -/
def cmdJob (v : Nat) : TestJob :=
  { op := field v 27 24, unit := field v 23 20, index := field v 8 0, urgent := bit v 30, persist := bit v 29 }

def testWrite (o : Nat) (v : W32) (s : State) : State :=
  match o with
  | 0x00 =>
    if s.test.job.isSome then setCode 0x0A01 s
    else if bit v.toNat 31 then runTest (cmdJob v.toNat) s
    else { s with test := { s.test with cmd := v &&& 0x6FF001FF#32 } }
  | 0x60 => if bit v.toNat 1 then coldReset s else if bit v.toNat 0 then warmReset s else s
  | _ => s

/-- SETT_FLAGS clears by ones; SETT_ECC_CNT takes the value. -/
def settWrite (i o : Nat) (v : W32) (s : State) : State :=
  match o with
  | 0x0C => s.setSett i fun t => { t with flags := t.flags &&& ~~~(v.setWidth 8) }
  | 0x30 => s.setSett i fun t => { t with eccCnt := v }
  | _ => s

/-- A write of a 32-bit register; an unlisted offset ignores it. -/
def write32 (fn off : Nat) (v : W32) (s : State) : State :=
  let go (b stride n : Nat) (f : Nat → Nat → State) (rest : State) : State := match inBlock b stride n off with
    | some (i, o) => f i o
    | none => rest
  go 0 0x10000 1 (fun _ o => stileWrite o v s) <| go 0x10000 0x1000 32 (fun c o => clientWrite fn c o v s) <|
  go 0x100000 0x100000 1 (fun _ o => hearthWrite o v s) <| go 0x200000 0x100 256 (fun c o => ctxRegWrite c o v s) <|
  go 0x210000 0x100 1 (fun _ o => mortarWrite o v s) <| go 0x300000 0x10000 12 (fun p o => portWrite p o v s) <|
  go 0x3C0000 0x20000 1 (fun _ o => golgerWrite o v s) <| go 0x400000 0x4000 24 (fun c o => codecCoreWrite c o v s) <|
  go 0x460000 0x10000 1 (fun _ o => codecWrite o v s) <| go 0x500000 0x8000 2 (fun d o => hbmWrite d o v s) <|
  go 0x510000 0x8000 2 (fun d o => fallowWrite d o v s) <| go 0x800000 0x100 32 (fun c o => xlatWrite c o v s) <|
  go 0x804000 0x100 1 (fun _ o => if o = 0x08 then invalidate s.xlat.invVa v s else s) <|
  go 0x900000 0x100 1 (fun _ o => telemWrite o v s) <| go 0xA00000 0x100 1 (fun _ o => powerWrite o v s) <|
  go 0xC00000 0x100 1 (fun _ o => testWrite o v s) <| go 0x1000000 0x8000 408 (fun i o => settWrite i o v s) s

/-! 64-bit registers -/

def stileCommit (o : Nat) (v : W64) (s : State) : State :=
  match o with
  | 0x18 => { s with stile := { s.stile with wdogMax := v } }
  | 0x30 => { s with stile := { s.stile with bar2Base := v &&& 0xFFFFFFFF0000#64 } }
  | 0x38 => if bit v.toNat 63 then { s with stile := { s.stile with bar2Err := s.stile.bar2Err &&& 0x7FFFFFFFFFFFFFFF#64 } } else s
  | _ => s

/-- STILE_Qn_BASE is written only while EN is 0. -/
def writeQueueBase (c n : Nat) (v : W64) (s : State) : State :=
  s.setQ c n fun q => if q.enabled then q else { q with base := v &&& 0x800FFFFFFFFFF000#64 }

def clientCommit (c o : Nat) (v : W64) (s : State) : State :=
  if o = 0x008 then writeCqBase c v s
  else if 0x100 ≤ o ∧ o < 0x200 ∧ o % 0x20 = 0 then writeQueueBase c ((o - 0x100) / 0x20) v s
  else s

/-- XLAT_FAULT_RESP: 1 RESUME, 2 FAIL (R375). -/
def faultAnswer (c : Nat) (v : W64) (s : State) : State :=
  match field v.toNat 63 62 with
  | 1 => answerResume c (v.setWidth 48) s
  | 2 => answerFail c (v.setWidth 48) s
  | _ => s

def xlatCommit (c o : Nat) (v : W64) (s : State) : State :=
  match o with
  | 0x00 => s.setClient c fun x => { x with root := v &&& 0xFFFFFFFFFF001#64 }
  | 0x08 => writeFqBase c v s
  | 0x20 => faultAnswer c v s
  | _ => s

/-- The frame-pool registers ignore writes while any stream is open. -/
def codecCommit (o : Nat) (v : W64) (s : State) : State :=
  let w := v &&& 0x1FFFFE00000#64
  if openStreams s ≠ 0 then s
  else match o with
    | 0x00 => { s with codec := { s.codec with poolBase := SMap.set 0 s.codec.poolBase 0 w } }
    | 0x08 => { s with codec := { s.codec with poolSize := SMap.set 0 s.codec.poolSize 0 w } }
    | 0x10 => { s with codec := { s.codec with poolBase := SMap.set 0 s.codec.poolBase 1 w } }
    | 0x18 => { s with codec := { s.codec with poolSize := SMap.set 0 s.codec.poolSize 1 w } }
    | _ => s

/-- HBM_ERR_ADDR and FALLOW_ERR_ADDR: clearing VALID rearms the capture. -/
def errClear (old v : W64) : W64 := if bit v.toNat 63 then old &&& 0x7FFFFFFFFFFFFFFF#64 else old

/-- A write of both words of a 64-bit register. -/
def commit64 (off : Nat) (v : W64) (s : State) : State :=
  let go (b stride n : Nat) (f : Nat → Nat → State) (rest : State) : State := match inBlock b stride n off with
    | some (i, o) => f i o
    | none => rest
  go 0 0x10000 1 (fun _ o => stileCommit o v s) <| go 0x10000 0x1000 32 (fun c o => clientCommit c o v s) <|
  go 0x460000 0x10000 1 (fun _ o => codecCommit o v s) <|
  go 0x500000 0x8000 2 (fun d o => if o = 0x28 then s.setDie d (fun m => { m with errAddr := errClear m.errAddr v }) else s) <|
  go 0x510000 0x8000 2 (fun d o => if o = 0x28 then s.setDie d (fun m => { m with fErrAddr := errClear m.fErrAddr v }) else s) <|
  go 0x800000 0x100 32 (fun c o => xlatCommit c o v s) <|
  go 0x804000 0x100 1 (fun _ o => if o = 0 then { s with xlat := { s.xlat with invVa := v &&& 0xFFFFFFFF0000#64 } } else s) <|
  go 0x900000 0x100 1 (fun _ o => if o = 0x10 then s.setTelem (fun t => { t with evtBase := v &&& 0xFFFFFFFFFF000#64 }) else s) s

/-- A write-only 64-bit register keeps the low word of its last commit (R12). -/
def isWo (off : Nat) : Bool := decide (0x800000 ≤ off) && decide (off < 0x802000) && off % 0x100 == 0x20

/-- A function writes the high word: it commits with the low word that the function staged, or with the one that the
register holds. DESIGN CHOICE: a function has one shadow and one staging register, each tagged with its register; another
register's high word uses that register's live or held word and leaves the staged one standing (R12). -/
def commitHigh (fn low cur : Nat) (v : W32) (s : State) : State :=
  let staged := match s.staging.get none fn with
    | some (b, w) => if b = low then some w.toNat else none
    | none => none
  let lo := staged.getD (if isWo low then (s.woLow.get 0 low).toNat else cur % 2 ^ 32)
  let s1 := if staged.isSome then { s with staging := SMap.set none s.staging fn none } else s
  let s2 := if isWo low then { s1 with woLow := SMap.set 0 s1.woLow low (BitVec.ofNat 32 lo) } else s1
  commit64 low (BitVec.ofNat 64 (v.toNat * 2 ^ 32 + lo)) s2

/-- A function's write of a register (R12, R13). -/
def writeReg (fn off : Nat) (v : W32) (s : State) : State :=
  match bar4Off off, (if off % 4 = 0 then mapOffset fn off else none) with
  | some o, _ => if o % 4 = 0 then bar4Write fn o v s else s
  | none, none => s
  | none, some a =>
    match reg64 s a with
    | some _ => { s with staging := SMap.set none s.staging fn (some (a, v)) }
    | none => match (if 4 ≤ a then reg64 s (a - 4) else none) with
      | some cur => commitHigh fn (a - 4) cur v s
      | none => write32 fn a v s

end Sys2Proof.Machine
end

