-- ==== Sys2Proof/Machine/StileRows.lean ====
section
/-! DEFINITION. Commands of Stile, translation and the codec complex (14, 15, 18), with the host's COLL descriptors
(17). -/

namespace Sys2Proof.Machine

/-- One of the 32 clients (R387). -/
def forClient (c : Nat) (f : State → State) (s : State) : State := if c < 32 then f s else s
/-- One of a client's eight queues (R391), served once boot has ended (R501); what its work finds bad ends the run that
waits on it (R340). -/
def forQueue (c n : Nat) (f : State → State) (s : State) : State :=
  if c < 32 ∧ n < 8 ∧ s.hearth.ready ∧ s.powered then settleDoom (f s) else s
/-- An effect of a powered block, likewise. -/
def live (f : State → State) (s : State) : State := if s.powered then settleDoom (f s) else s

/-- BAR2_READ within the aperture's size (R388, R389). -/
def bar2Read (c off len : Nat) (s : State) : State := if off + len ≤ s.bar2Size then bar2ReadAt c off len s else s
/-- BAR2_WRITE within the aperture's size. -/
def bar2Write (c off : Nat) (bs : List Byte) (s : State) : State :=
  if off + bs.length ≤ s.bar2Size then bar2WriteAt c off bs s else s

/-! Translation -/

/-- RESUME (R375). -/
def execResume (client : Nat) (faultId : BitVec 48) (s : State) : Answer :=
  .next (fromHost (forClient client (fun s => answerResume client faultId (writeResp client faultId s))) s)
/-- FAIL (R375). -/
def execFail (client : Nat) (faultId : BitVec 48) (s : State) : Answer :=
  .next (fromHost (forClient client (fun s => answerFail client faultId (writeResp client faultId s))) s)
/-- XLAT_FQ_TAIL_WRITE (R374). -/
def execXlatFqTailWrite (client : Nat) (value : W32) (s : State) : Answer :=
  .next (fromHost (forClient client (writeFqTail client value)) s)
/-- XLAT_FQ_BASE_WRITE (R373). -/
def execXlatFqBaseWrite (client : Nat) (value : W64) (s : State) : Answer :=
  .next (fromHost (forClient client (fun s => writeFqBase client value (rowWrite client none s))) s)
/-- XLAT_FQ_CTRL_WRITE (R373). -/
def execXlatFqCtrlWrite (client : Nat) (value : W32) (s : State) : Answer :=
  .next (fromHost (forClient client (writeFqCtrl client value)) s)
/-- INVALIDATE (R369). -/
def execInvalidate (va : W64) (ctrl : W32) (s : State) : Answer := .next (fromHost (fun s => invalidate va ctrl (rowWrite 0 none s)) s)
/-- INVALIDATION_DONE (R369). -/
def execInvalidationDone (s : State) : Answer := .next (live invalDone s)

/-! Queues -/

/-- QUEUE_POLL (R396). -/
def execQueuePoll (client queue : Nat) (s : State) : Answer := .next (forQueue client queue (pollQueue client queue) s)
/-- NOP (R392). -/
def execNop (client queue : Nat) (s : State) : Answer := .next (forQueue client queue (nopDesc client queue) s)
/-- RUN (R399). -/
def execRun (client queue : Nat) (manifest : Manifest) (s : State) : Answer :=
  .next (forQueue client queue (runDesc client queue manifest) s)
/-- COPY (R394). -/
def execCopy (client queue : Nat) (s : State) : Answer := .next (forQueue client queue (copyDesc client queue) s)
/-- COPY_COMPLETE (R394). -/
def execCopyComplete (client queue : Nat) (s : State) : Answer := .next (forQueue client queue (copyDone client queue) s)
/-- QUEUE_ENABLE (R395). -/
def execQueueEnable (client queue : Nat) (value : W32) (s : State) : Answer :=
  .next (fromHost (forQueue client queue (writeQueueCtrl client queue value)) s)
/-- STILE_CQ_TAIL_WRITE (R405). -/
def execStileCqTailWrite (client : Nat) (value : W32) (s : State) : Answer :=
  .next (fromHost (forClient client (writeCqTail client value)) s)
/-- STILE_CQ_BASE_WRITE (R405). -/
def execStileCqBaseWrite (client : Nat) (value : W64) (s : State) : Answer :=
  .next (fromHost (forClient client (fun s => writeCqBase client value (rowWrite client none s))) s)
/-- STILE_CQ_CTRL_WRITE (R405). -/
def execStileCqCtrlWrite (client : Nat) (value : W32) (s : State) : Answer :=
  .next (fromHost (forClient client (writeCqCtrl client value)) s)
/-- HOLDOFF_EXPIRY (R406). -/
def execHoldoffExpiry (client : Nat) (s : State) : Answer := .next (live (forClient client (holdoffOver client)) s)

/-! Runs -/

/-- SCHEDULE_RUN (R400). -/
def execScheduleRun (s : State) : Answer := .next (live scheduleRun s)
/-- SLICE_EXPIRY (R401). -/
def execSliceExpiry (s : State) : Answer := .next (live sliceExpiry s)
/-- PREEMPT (R376). -/
def execPreempt (s : State) : Answer := .next (fromHost requestPreempt s)
/-- PREEMPTION_SAVE_DONE (R377). -/
def execPreemptionSaveDone (s : State) : Answer := .next (live saveDone s)
/-- STOP (R410). -/
def execStop (s : State) : Answer := .next (fromHost stopRun s)
/-- RUN_WATCHDOG_EXPIRY (R404). -/
def execRunWatchdogExpiry (s : State) : Answer := .next (live watchdogExpiry s)
/-- CLIENT_RESET (R407). -/
def execClientReset (client : Nat) (s : State) : Answer := .next (settleDoom (fromHost (forClient client (resetClient client)) s))
/-- VF_FLR (R387). -/
def execVfFlr (client : Nat) (s : State) : Answer :=
  .next (if 1 ≤ client then settleDoom (fromHost (forClient client (flr client)) s) else s)
/-- PF_FLR (R387). -/
def execPfFlr (s : State) : Answer := .next (settleDoom (fromHost (flr 0) s))

/-! The aperture and configuration -/

/-- BAR2_READ (R389). -/
def execBar2Read (client offset len : Nat) (s : State) : Answer := .next (settleDoom (bar2Read client offset len s))
/-- BAR2_WRITE (R389). -/
def execBar2Write (client offset : Nat) (bytes : List Byte) (s : State) : Answer :=
  .next (settleDoom (bar2Write client offset bytes s))
/-- CONFIG_REQUEST (R386, R501): Request Retry Status until boot step 8. The link must be up to bring a request. -/
def execConfigRequest (client : Nat) (offset : Nat) (write : Option W32) (s : State) : Answer :=
  .next (live (forClient client fun s =>
    if !s.conn.linkUp then s
    else if s.hearth.ready then settleDoom (cfgRequest client offset write s) else s.emit (.config true)) s)

/-! The codec complex -/

/-- STREAM_OPEN (R469). -/
def execStreamOpen (client queue : Nat) (s : State) : Answer :=
  .next (forQueue client queue (streamOpenDesc client queue) s)
/-- STREAM_FLUSH (R487). -/
def execStreamFlush (client queue : Nat) (s : State) : Answer :=
  .next (forQueue client queue (streamFlushDesc client queue) s)
/-- STREAM_CLOSE (R487). -/
def execStreamClose (client queue : Nat) (s : State) : Answer :=
  .next (forQueue client queue (streamCloseDesc client queue) s)
/-- CODEC_SLICE_START (R478). -/
def execCodecSliceStart (core : Nat) (s : State) : Answer := .next (live (sliceStart core) s)
/-- CODEC_SLICE_COMPLETE (R477). -/
def execCodecSliceComplete (core : Nat) (part : Nat) (s : State) : Answer := .next (live (sliceComplete core part) s)
/-- BUDGET_EXPIRY (R481). -/
def execBudgetExpiry (core : Nat) (s : State) : Answer := .next (live (budgetExpiry core) s)
/-- CODEC_FAULT_LIMIT_EXPIRY (R484). -/
def execCodecFaultLimitExpiry (core : Nat) (s : State) : Answer := .next (live (codecLimit core) s)
/-- CODEC_CORE_FENCE (R488). -/
def execCodecCoreFence (core : Nat) (s : State) : Answer := .next (fromHost (fenceCore core) s)
/-- CODEC_CORE_UNFENCE (R488). -/
def execCodecCoreUnfence (core : Nat) (s : State) : Answer := .next (fromHost (unfenceCore core) s)
/-- CODEC_CORE_TEST (R545). -/
def execCodecCoreTest (core : Nat) (s : State) : Answer := .next (fromHost (testCore core) s)
/-- LINTEL_WAIT_RELEASE (R354): waits of setts, and the counters that codec streams wait on (R468). -/
def execLintelWaitRelease (addr : Nat) (s : State) : Answer :=
  .next (live (fun s => settleCodec (if s.arrayRuns then lintelRelease addr s else s)) s)

/-! COLL descriptors of the host -/

/-- HOST_COLL_POST (R455). -/
def execHostCollPost (client queue : Nat) (s : State) : Answer :=
  .next (settleDoom (forQueue client queue (collPostDesc client queue) s))
/-- HOST_COLL_OPEN (R455). -/
def execHostCollOpen (client queue : Nat) (s : State) : Answer :=
  .next (forQueue client queue (collOpenDesc client queue) s)
/-- HOST_COLL_CLOSE (R455). -/
def execHostCollClose (client queue : Nat) (s : State) : Answer :=
  .next (settleDoom (forQueue client queue (collCloseDesc client queue) s))

end Sys2Proof.Machine
end

