-- ==== Sys2Proof/Machine/HearthRows.lean ====
section
/-! DEFINITION. Commands of memory maintenance, power, Hearth, tests, resets, connectors and registers (13, 19–23). -/

namespace Sys2Proof.Machine

/-! Memory maintenance -/

/-- SCRUB_BURST (R345); what it counts can call for a retraining (R536). -/
def execScrubBurst (die addr : Nat) (s : State) : Answer := .next (live (fun s => hearthRetrain die (scrubBurst die addr s)) s)
/-- MAP_RELEASE_RETRY (R510). -/
def execMapReleaseRetry (die : Nat) (s : State) : Answer := .next (releaseRetry die s)
/-- MAP_RELEASE_ANS (R510). -/
def execMapReleaseAns (mb : Nat) (msg : List Byte) (s : State) : Answer :=
  .next (request mb 0x41 msg (sized 12 releaseAct) s)
/-- MAPOUT_COPY_START (R343). -/
def execMapoutCopyStart (die : Nat) (s : State) : Answer := .next (mapoutStart die s)
/-- MAPOUT_COMMIT (R343). -/
def execMapoutCommit (die : Nat) (s : State) : Answer := .next (live (mapoutCommit die) s)
/-- ZQ_CALIBRATION (R535): it blocks one device for at most 1 µs and changes no result. -/
def execZqCalibration (_die _device : Nat) (s : State) : Answer := .next s
/-- TIMING_ADJUSTMENT (R535): it stands inside refresh windows and changes no result. -/
def execTimingAdjustment (_die _pc : Nat) (s : State) : Answer := .next s

/-! Power, clocks and telemetry -/

/-- AGING_READOUT (R535). -/
def execAgingReadout (slack : Int) (s : State) : Answer := .next (agingReadout slack s)
/-- TELEMETRY_SAMPLE (R539). -/
def execTelemetrySample (s : State) : Answer := .next (telemSample s)
/-- SUPPLY_SAMPLE (R529). -/
def execSupplySample (watts millivolts amps : Nat) (s : State) : Answer := .next (supplySample watts millivolts amps s)
/-- JUNCTION_SAMPLE (R525). -/
def execJunctionSample (tj : Int) (s : State) : Answer := .next (junctionSample tj s)
/-- LEVEL_FALL (R529). -/
def execLevelFall (s : State) : Answer := .next (levelFall s)
/-- CLOCK_STEP_DOWN (R529). -/
def execClockStepDown (s : State) : Answer := .next (clockDown s)
/-- CLOCK_STEP_UP (R529). -/
def execClockStepUp (s : State) : Answer := .next (clockUp s)
/-- REGULATOR_FAULT (R540): a trip with 0x0805 (R526). -/
def execRegulatorFault (_rail : Nat) (s : State) : Answer := .next (tripOff 0x0805 s)
/-- GATE_IDLE_EXPIRY (R533). -/
def execGateIdleExpiry (s : State) : Answer := .next (gateArray s)
/-- WAKE_COMPLETE (R534). -/
def execWakeComplete (unit : Nat) (locked : Bool) (s : State) : Answer := .next (wakeUnit unit locked s)
/-- CRASH_COPY_COMPLETE (R555). -/
def execCrashCopyComplete (s : State) : Answer := .next (crashCopied s)
/-- REARM (R540). -/
def execRearm (s : State) : Answer := .next (fromHost rearmCrash s)

/-! Hearth -/

/-- HEARTH_WDOG_EXPIRY (R493). -/
def execHearthWdogExpiry (core : Nat) (s : State) : Answer := .next (wdogExpiry core s)
/-- KICK (R493). -/
def execKick (core : Nat) (s : State) : Answer := .next (live (kickCore core) s)
/-- HEARTH_MEMORY_UNCORRECTABLE (R540): the spec gives the record's cause no value. -/
def execHearthMemoryUncorrectable (_core : Nat) (s : State) : Answer :=
  .next (live (fun s => freezeCrash (freeStatus 7 s).1 (freeStatus 7 s).2) s)
/-- NACK (R509). -/
def execNack (s : State) : Answer := .next (fromHost nackNote s)
/-- MAILBOX_RESET (R508). -/
def execMailboxReset (s : State) : Answer := .next (fromHost (resetBox 0) s)
/-- HELLO (R508). -/
def execHello (mb : Nat) (msg : List Byte) (s : State) : Answer := .next (request mb 0x01 msg (sized 3 (helloAct mb)) s)
/-- GET_INFO (R508). -/
def execGetInfo (mb : Nat) (msg : List Byte) (s : State) : Answer := .next (request mb 0x02 msg (sized 0 (reads infoData)) s)
/-- A request that needs the slot which a running FW_STAGE writes waits for it. -/
def slotFree (mb : Nat) (msg : List Byte) (f : State → State) (s : State) : State :=
  if s.hearth.staging.any fun g => g.mb != mb || (g.lost && g.seq != mailSeq msg) then s else f s
/-- FW_STAGE (R515). -/
def execFwStage (mb : Nat) (msg : List Byte) (s : State) : Answer :=
  .next (slotFree mb msg (request mb 0x10 msg (sized 12 (stageAct mb (mailSeq msg)))) s)
/-- FW_STAGE_COMPLETE (R515). -/
def execFwStageComplete (ok : Bool) (s : State) : Answer := .next (stageDone ok s)
/-- FW_VERIFY (R498). -/
def execFwVerify (mb : Nat) (msg : List Byte) (s : State) : Answer :=
  .next (slotFree mb msg (request mb 0x11 msg (sized 0 verifyAct)) s)
/-- FW_ACTIVATE (R517). -/
def execFwActivate (mb : Nat) (msg : List Byte) (s : State) : Answer := .next (request mb 0x12 msg (sized 0 activateAct) s)
/-- ACTIVATION_CLEAR_EXPIRY (R516). -/
def execActivationClearExpiry (s : State) : Answer := .next (clearExpiry s)
/-- FW_CANCEL (R516). -/
def execFwCancel (mb : Nat) (msg : List Byte) (s : State) : Answer := .next (request mb 0x13 msg (sized 0 cancelAct) s)
/-- FW_COMMIT (R518). -/
def execFwCommit (mb : Nat) (msg : List Byte) (s : State) : Answer := .next (request mb 0x14 msg (sized 0 commitAct) s)
/-- FW_STATUS (R508). -/
def execFwStatus (mb : Nat) (msg : List Byte) (s : State) : Answer :=
  .next (request mb 0x15 msg (sized 0 (reads fun s => leBytes (fwStatusWord s) 4)) s)
/-- OTP_READ (R508). -/
def execOtpRead (mb : Nat) (msg : List Byte) (s : State) : Answer := .next (request mb 0x20 msg (sized 8 otpReadAct) s)
/-- OTP_WRITE_GEN (R513). -/
def execOtpWriteGen (mb : Nat) (msg : List Byte) (s : State) : Answer := .next (request mb 0x21 msg (sized 252 writeGenAct) s)
/-- OTP_REVOKE (R514). -/
def execOtpRevoke (mb : Nat) (msg : List Byte) (s : State) : Answer := .next (request mb 0x22 msg (sized 1 revokeAct) s)
/-- LOG_READ (R508). -/
def execLogRead (mb : Nat) (msg : List Byte) (s : State) : Answer := .next (request mb 0x30 msg (sized 12 logReadAct) s)
/-- CRASH_READ (R555). -/
def execCrashRead (mb : Nat) (msg : List Byte) (s : State) : Answer := .next (request mb 0x31 msg (sized 8 crashReadAct) s)
/-- UNKNOWN_MESSAGE_TYPE (R507). -/
def execUnknownMessageType (mb : Nat) (msg : List Byte) (s : State) : Answer := .next (unknownType mb msg s)

/-! SPDM, MCTP and PLDM -/

/-- GET_VERSION (R504). -/
def execGetVersion (path : Nat) (body : List Byte) (s : State) : Answer := .next (spdmAnswer path 0x84 body spdmVersion s)
/-- GET_CAPABILITIES (R504). -/
def execGetCapabilities (path : Nat) (body : List Byte) (s : State) : Answer := .next (spdmAnswer path 0xE1 body spdmCaps s)
/-- NEGOTIATE_ALGORITHMS (R504). -/
def execNegotiateAlgorithms (path : Nat) (body : List Byte) (s : State) : Answer :=
  .next (spdmAnswer path 0xE3 body (spdmAlgorithms body) s)
/-- GET_DIGESTS (R504). -/
def execGetDigests (path : Nat) (body : List Byte) (s : State) : Answer := .next (spdmAnswer path 0x81 body spdmDigests s)
/-- GET_CERTIFICATE (R505). -/
def execGetCertificate (path : Nat) (body : List Byte) (s : State) : Answer :=
  .next (spdmAnswer path 0x82 body (spdmCertificate body) s)
/-- CHALLENGE (R505). -/
def execChallenge (path : Nat) (body : List Byte) (s : State) : Answer :=
  .next (spdmAnswer path 0x83 body (spdmChallenge body) s)
/-- GET_MEASUREMENTS (R504). -/
def execGetMeasurements (path : Nat) (body : List Byte) (s : State) : Answer :=
  .next (spdmAnswer path 0xE0 body (spdmMeasure body) s)
/-- SPDM_UNSUPPORTED_REQUEST (R504). -/
def execSpdmUnsupportedRequest (path : Nat) (body : List Byte) (s : State) : Answer := .next (spdmOther path body s)
/-- SET_ENDPOINT_ID (R519). -/
def execSetEndpointId (path : Nat) (eid : BitVec 8) (s : State) : Answer := .next (setEid path eid s)
/-- ACTIVATE_FIRMWARE (R520). -/
def execActivateFirmware (path : Nat) (_body : List Byte) (s : State) : Answer := .next (pldmActivate path s)

/-! Tests -/

/-- FENCE (R547). -/
def execFence (index : Nat) (s : State) : Answer :=
  .next (fromHost (testCmd ⟨1, 0, index, false, false⟩ (fenceSett index)) s)
/-- UNFENCE (R546). -/
def execUnfence (index : Nat) (s : State) : Answer :=
  .next (fromHost (testCmd ⟨2, 0, index, false, false⟩ (unfenceSett index)) s)
/-- SELF_TEST (R545). -/
def execSelfTest (unit index : Nat) (urgent persist : Bool) (s : State) : Answer :=
  let j : TestJob := ⟨3, unit, index, urgent, persist⟩
  .next (fromHost (testCmd j (startTest j)) s)
/-- RETRAIN (R536): the host's request, or Hearth's own. -/
def execRetrain (unit index : Nat) (urgent : Bool) (s : State) : Answer :=
  let j : TestJob := ⟨4, unit, index, urgent, false⟩
  .next (if s.hearthRuns then testCmd j (startRetrain j) s else fromHost (testCmd j (startRetrain j)) s)
/-- TEST_DEFERRED_START (R545). -/
def execTestDeferredStart (s : State) : Answer := .next (deferredStart s)
/-- SELF_TEST_COMPLETE (R546). -/
def execSelfTestComplete (pass : Bool) (s : State) : Answer := .next (testDone pass s)
/-- RETRAIN_COMPLETE (R536). -/
def execRetrainComplete (ok : Bool) (s : State) : Answer := .next (retrainDone ok s)

/-! Resets, power and boot -/

/-- WARM_RESET (R553). -/
def execWarmReset (s : State) : Answer := .next (fromHost warmReset s)
/-- COLD_RESET (R552). -/
def execColdReset (s : State) : Answer := .next (fromHost coldReset s)
/-- PERST (R552). -/
def execPerst (s : State) : Answer := .next (perstFall s)
/-- MRST (R552). -/
def execMrst (s : State) : Answer := .next (mrstFall s)
/-- MRST_RISE (R567). -/
def execMrstRise (straps : BitVec 4) (s : State) : Answer := .next (mrstRise straps s)
/-- PCIE_HOT_RESET (R552). -/
def execPcieHotReset (s : State) : Answer := .next (hotReset s)
/-- POWER_UP (R571). -/
def execPowerUp (s : State) : Answer := .next (powerUp s)
/-- POWER_LOSS (R552). -/
def execPowerLoss (s : State) : Answer := .next (powerLoss s)
/-- BOOT_START (R499). -/
def execBootStart (env : BootEnv) (s : State) : Answer := .next (bootStart env s)
/-- REFCLK_LOSS (R569). -/
def execRefclkLoss (s : State) : Answer := .next (refclkLoss s)

/-! The TAP -/

/-- BYPASS (R572). -/
def execBypass (s : State) : Answer := .next (selectTap .bypass false s)
/-- IDCODE (R572). -/
def execIdcode (s : State) : Answer := .next (showIdcode (selectTap .idcode false s))
/-- SAMPLE_PRELOAD (R572). -/
def execSamplePreload (s : State) : Answer := .next (selectTap .samplePreload false s)
/-- EXTEST (R572). -/
def execExtest (s : State) : Answer := .next (selectTap .extest true s)
/-- CLAMP (R572). -/
def execClamp (s : State) : Answer := .next (selectTap .clamp true s)
/-- HIGHZ (R572). -/
def execHighz (s : State) : Answer := .next (selectTap .highz true s)
/-- EXTEST_PULSE (R572). -/
def execExtestPulse (s : State) : Answer := .next (selectTap .extestPulse true s)
/-- EXTEST_TRAIN (R572). -/
def execExtestTrain (s : State) : Answer := .next (selectTap .extestTrain true s)

/-! Registers -/

/-- REG64_SHADOW_READ (R12). -/
def execReg64ShadowRead (client offset : Nat) (s : State) : Answer :=
  .next (fromHost (forClient client (readReg client offset)) s)
/-- REGISTER_WRITE (R13). -/
def execRegisterWrite (client offset : Nat) (value : W32) (s : State) : Answer :=
  .next (fromHost (forClient client (writeReg client offset value)) s)

end Sys2Proof.Machine
end

