-- ==== Sys2Proof/Machine/IssueRows.lean ====
section
/-! DEFINITION. The sett instructions as commands: each is the issue of that instruction by sett `st`
(R53, R54, R83, R96). -/

namespace Sys2Proof.Machine

/-- CTL_BR (R97). -/
def execCtlBr (st : Nat) (h : Hdr) (f : LayC) (s : State) : Answer :=
  .next (settIssue (.ctlBr st h f) s)
/-- CTL_LOOP (R97). -/
def execCtlLoop (st : Nat) (h : Hdr) (f : LayC) (s : State) : Answer :=
  .next (settIssue (.ctlLoop st h f) s)
/-- CTL_END (R71). -/
def execCtlEnd (st : Nat) (h : Hdr) (f : LayC) (s : State) : Answer :=
  .next (settIssue (.ctlEnd st h f) s)
/-- SCL_ADD (R98). -/
def execSclAdd (st : Nat) (h : Hdr) (f : LayS) (s : State) : Answer :=
  .next (settIssue (.sclAdd st h f) s)
/-- SCL_SUB (R98). -/
def execSclSub (st : Nat) (h : Hdr) (f : LayS) (s : State) : Answer :=
  .next (settIssue (.sclSub st h f) s)
/-- SCL_MUL (R98). -/
def execSclMul (st : Nat) (h : Hdr) (f : LayS) (s : State) : Answer :=
  .next (settIssue (.sclMul st h f) s)
/-- SCL_DIVU (R98). -/
def execSclDivu (st : Nat) (h : Hdr) (f : LayS) (s : State) : Answer :=
  .next (settIssue (.sclDivu st h f) s)
/-- SCL_REMU (R98). -/
def execSclRemu (st : Nat) (h : Hdr) (f : LayS) (s : State) : Answer :=
  .next (settIssue (.sclRemu st h f) s)
/-- SCL_AND (R98). -/
def execSclAnd (st : Nat) (h : Hdr) (f : LayS) (s : State) : Answer :=
  .next (settIssue (.sclAnd st h f) s)
/-- SCL_OR (R98). -/
def execSclOr (st : Nat) (h : Hdr) (f : LayS) (s : State) : Answer :=
  .next (settIssue (.sclOr st h f) s)
/-- SCL_XOR (R98). -/
def execSclXor (st : Nat) (h : Hdr) (f : LayS) (s : State) : Answer :=
  .next (settIssue (.sclXor st h f) s)
/-- SCL_SHL (R98). -/
def execSclShl (st : Nat) (h : Hdr) (f : LayS) (s : State) : Answer :=
  .next (settIssue (.sclShl st h f) s)
/-- SCL_SHR (R98). -/
def execSclShr (st : Nat) (h : Hdr) (f : LayS) (s : State) : Answer :=
  .next (settIssue (.sclShr st h f) s)
/-- SCL_SRA (R98). -/
def execSclSra (st : Nat) (h : Hdr) (f : LayS) (s : State) : Answer :=
  .next (settIssue (.sclSra st h f) s)
/-- SCL_MIN (R98). -/
def execSclMin (st : Nat) (h : Hdr) (f : LayS) (s : State) : Answer :=
  .next (settIssue (.sclMin st h f) s)
/-- SCL_MAX (R98). -/
def execSclMax (st : Nat) (h : Hdr) (f : LayS) (s : State) : Answer :=
  .next (settIssue (.sclMax st h f) s)
/-- SCL_MINU (R98). -/
def execSclMinu (st : Nat) (h : Hdr) (f : LayS) (s : State) : Answer :=
  .next (settIssue (.sclMinu st h f) s)
/-- SCL_MAXU (R98). -/
def execSclMaxu (st : Nat) (h : Hdr) (f : LayS) (s : State) : Answer :=
  .next (settIssue (.sclMaxu st h f) s)
/-- SCL_LI (R98). -/
def execSclLi (st : Nat) (h : Hdr) (f : LayS) (ext : W64) (s : State) : Answer :=
  .next (settIssue (.sclLi st h f ext) s)
/-- SCL_CMP_EQ (R98). -/
def execSclCmpEq (st : Nat) (h : Hdr) (f : LayS) (s : State) : Answer :=
  .next (settIssue (.sclCmpEq st h f) s)
/-- SCL_CMP_NE (R98). -/
def execSclCmpNe (st : Nat) (h : Hdr) (f : LayS) (s : State) : Answer :=
  .next (settIssue (.sclCmpNe st h f) s)
/-- SCL_CMP_LT (R98). -/
def execSclCmpLt (st : Nat) (h : Hdr) (f : LayS) (s : State) : Answer :=
  .next (settIssue (.sclCmpLt st h f) s)
/-- SCL_CMP_LE (R98). -/
def execSclCmpLe (st : Nat) (h : Hdr) (f : LayS) (s : State) : Answer :=
  .next (settIssue (.sclCmpLe st h f) s)
/-- SCL_CMP_LTU (R98). -/
def execSclCmpLtu (st : Nat) (h : Hdr) (f : LayS) (s : State) : Answer :=
  .next (settIssue (.sclCmpLtu st h f) s)
/-- SCL_CMP_LEU (R98). -/
def execSclCmpLeu (st : Nat) (h : Hdr) (f : LayS) (s : State) : Answer :=
  .next (settIssue (.sclCmpLeu st h f) s)
/-- DESC_SET (R90). -/
def execDescSet (st : Nat) (h : Hdr) (f : LayS) (s : State) : Answer :=
  .next (settIssue (.descSet st h f) s)
/-- DESC_ADJ (R98). -/
def execDescAdj (st : Nat) (h : Hdr) (f : LayS) (s : State) : Answer :=
  .next (settIssue (.descAdj st h f) s)
/-- DESC_VALID (R98). -/
def execDescValid (st : Nat) (h : Hdr) (f : LayS) (s : State) : Answer :=
  .next (settIssue (.descValid st h f) s)
/-- DESC_GET (R98). -/
def execDescGet (st : Nat) (h : Hdr) (f : LayS) (s : State) : Answer :=
  .next (settIssue (.descGet st h f) s)
/-- STR_LOAD (R578). -/
def execStrLoad (st : Nat) (h : Hdr) (f : LayT) (s : State) : Answer :=
  .next (settIssue (.strLoad st h f) s)
/-- STR_STORE (R578). -/
def execStrStore (st : Nat) (h : Hdr) (f : LayT) (s : State) : Answer :=
  .next (settIssue (.strStore st h f) s)
/-- STR_GATHER (R578). -/
def execStrGather (st : Nat) (h : Hdr) (f : LayT) (s : State) : Answer :=
  .next (settIssue (.strGather st h f) s)
/-- STR_SCAN (R147). -/
def execStrScan (st : Nat) (h : Hdr) (f : LayT) (s : State) : Answer :=
  .next (settIssue (.strScan st h f) s)
/-- STR_PREF (R578). -/
def execStrPref (st : Nat) (h : Hdr) (f : LayT) (s : State) : Answer :=
  .next (settIssue (.strPref st h f) s)
/-- STR_COPY (R578). -/
def execStrCopy (st : Nat) (h : Hdr) (f : LayT) (s : State) : Answer :=
  .next (settIssue (.strCopy st h f) s)
/-- MMA_WLD (R102). -/
def execMmaWld (st : Nat) (h : Hdr) (f : LayT) (s : State) : Answer :=
  .next (settIssue (.mmaWld st h f) s)
/-- MMA (R102). -/
def execMma (st : Nat) (h : Hdr) (f : LayT) (s : State) : Answer :=
  .next (settIssue (.mma st h f) s)
/-- LDG_ANCHOR (R144). -/
def execLdgAnchor (st : Nat) (h : Hdr) (f : LayT) (s : State) : Answer :=
  .next (settIssue (.ldgAnchor st h f) s)
/-- LDG_CVT (R150). -/
def execLdgCvt (st : Nat) (h : Hdr) (f : LayT) (s : State) : Answer :=
  .next (settIssue (.ldgCvt st h f) s)
/-- VEC_ADD (R138). -/
def execVecAdd (st : Nat) (h : Hdr) (f : LayV) (s : State) : Answer :=
  .next (settIssue (.vecAdd st h f) s)
/-- VEC_SUB (R138). -/
def execVecSub (st : Nat) (h : Hdr) (f : LayV) (s : State) : Answer :=
  .next (settIssue (.vecSub st h f) s)
/-- VEC_MUL (R138). -/
def execVecMul (st : Nat) (h : Hdr) (f : LayV) (s : State) : Answer :=
  .next (settIssue (.vecMul st h f) s)
/-- VEC_FMA (R138). -/
def execVecFma (st : Nat) (h : Hdr) (f : LayV) (s : State) : Answer :=
  .next (settIssue (.vecFma st h f) s)
/-- VEC_MAX (R138). -/
def execVecMax (st : Nat) (h : Hdr) (f : LayV) (s : State) : Answer :=
  .next (settIssue (.vecMax st h f) s)
/-- VEC_MIN (R138). -/
def execVecMin (st : Nat) (h : Hdr) (f : LayV) (s : State) : Answer :=
  .next (settIssue (.vecMin st h f) s)
/-- VEC_ABS (R138). -/
def execVecAbs (st : Nat) (h : Hdr) (f : LayV) (s : State) : Answer :=
  .next (settIssue (.vecAbs st h f) s)
/-- VEC_CMP (R104). -/
def execVecCmp (st : Nat) (h : Hdr) (f : LayV) (s : State) : Answer :=
  .next (settIssue (.vecCmp st h f) s)
/-- VEC_SEL (R104). -/
def execVecSel (st : Nat) (h : Hdr) (f : LayV) (s : State) : Answer :=
  .next (settIssue (.vecSel st h f) s)
/-- VEC_BCAST (R104). -/
def execVecBcast (st : Nat) (h : Hdr) (f : LayV) (s : State) : Answer :=
  .next (settIssue (.vecBcast st h f) s)
/-- VEC_LD (R579). -/
def execVecLd (st : Nat) (h : Hdr) (f : LayV) (s : State) : Answer :=
  .next (settIssue (.vecLd st h f) s)
/-- VEC_ST (R579). -/
def execVecSt (st : Nat) (h : Hdr) (f : LayV) (s : State) : Answer :=
  .next (settIssue (.vecSt st h f) s)
/-- VEC_IADD (R104). -/
def execVecIadd (st : Nat) (h : Hdr) (f : LayV) (s : State) : Answer :=
  .next (settIssue (.vecIadd st h f) s)
/-- VEC_PERM (R104). -/
def execVecPerm (st : Nat) (h : Hdr) (f : LayV) (s : State) : Answer :=
  .next (settIssue (.vecPerm st h f) s)
/-- VEC_RSUM (R104). -/
def execVecRsum (st : Nat) (h : Hdr) (f : LayV) (s : State) : Answer :=
  .next (settIssue (.vecRsum st h f) s)
/-- FN_TANH (R178). -/
def execFnTanh (st : Nat) (h : Hdr) (f : LayF) (s : State) : Answer :=
  .next (settIssue (.fnTanh st h f) s)
/-- FN_SIG (R178). -/
def execFnSig (st : Nat) (h : Hdr) (f : LayF) (s : State) : Answer :=
  .next (settIssue (.fnSig st h f) s)
/-- GATE_SIG (R178). -/
def execGateSig (st : Nat) (h : Hdr) (f : LayF) (s : State) : Answer :=
  .next (settIssue (.gateSig st h f) s)
/-- GATE_TANH (R178). -/
def execGateTanh (st : Nat) (h : Hdr) (f : LayF) (s : State) : Answer :=
  .next (settIssue (.gateTanh st h f) s)
/-- GATE_SILU (R178). -/
def execGateSilu (st : Nat) (h : Hdr) (f : LayF) (s : State) : Answer :=
  .next (settIssue (.gateSilu st h f) s)
/-- GATE_GELU (R178). -/
def execGateGelu (st : Nat) (h : Hdr) (f : LayF) (s : State) : Answer :=
  .next (settIssue (.gateGelu st h f) s)
/-- ROW_NORM (R185). -/
def execRowNorm (st : Nat) (h : Hdr) (f : LayT) (s : State) : Answer :=
  .next (settIssue (.rowNorm st h f) s)
/-- ROW_RMS (R185). -/
def execRowRms (st : Nat) (h : Hdr) (f : LayT) (s : State) : Answer :=
  .next (settIssue (.rowRms st h f) s)
/-- ROW_SMAX (R190). -/
def execRowSmax (st : Nat) (h : Hdr) (f : LayT) (s : State) : Answer :=
  .next (settIssue (.rowSmax st h f) s)
/-- ROW_STAT (R185). -/
def execRowStat (st : Nat) (h : Hdr) (f : LayT) (s : State) : Answer :=
  .next (settIssue (.rowStat st h f) s)
/-- WIN_CONV (R254). -/
def execWinConv (st : Nat) (h : Hdr) (f : LayW) (ext : W64) (s : State) : Answer :=
  .next (settIssue (.winConv st h f ext) s)
/-- WIN_POOL (R258). -/
def execWinPool (st : Nat) (h : Hdr) (f : LayW) (ext : W64) (s : State) : Answer :=
  .next (settIssue (.winPool st h f ext) s)
/-- FFT_R4 (R263). -/
def execFftR4 (st : Nat) (h : Hdr) (f : LayT) (s : State) : Answer :=
  .next (settIssue (.fftR4 st h f) s)
/-- FFT_R8 (R263). -/
def execFftR8 (st : Nat) (h : Hdr) (f : LayT) (s : State) : Answer :=
  .next (settIssue (.fftR8 st h f) s)
/-- FFT_CMUL (R265). -/
def execFftCmul (st : Nat) (h : Hdr) (f : LayT) (s : State) : Answer :=
  .next (settIssue (.fftCmul st h f) s)
/-- SORT_PAIRS (R231). -/
def execSortPairs (st : Nat) (h : Hdr) (f : LayT) (s : State) : Answer :=
  .next (settIssue (.sortPairs st h f) s)
/-- SORT_TOPK (R231). -/
def execSortTopk (st : Nat) (h : Hdr) (f : LayT) (s : State) : Answer :=
  .next (settIssue (.sortTopk st h f) s)
/-- SORT_MERGE (R233). -/
def execSortMerge (st : Nat) (h : Hdr) (f : LayT) (s : State) : Answer :=
  .next (settIssue (.sortMerge st h f) s)
/-- ATTN_STEP (R217). -/
def execAttnStep (st : Nat) (h : Hdr) (f : LayT) (s : State) : Answer :=
  .next (settIssue (.attnStep st h f) s)
/-- ATTN_MERGE (R223). -/
def execAttnMerge (st : Nat) (h : Hdr) (f : LayT) (s : State) : Answer :=
  .next (settIssue (.attnMerge st h f) s)
/-- KV_SCATTER (R206). -/
def execKvScatter (st : Nat) (h : Hdr) (f : LayT) (s : State) : Answer :=
  .next (settIssue (.kvScatter st h f) s)
/-- KV_LOAD (R212). -/
def execKvLoad (st : Nat) (h : Hdr) (f : LayT) (s : State) : Answer :=
  .next (settIssue (.kvLoad st h f) s)
/-- KV_SUMM (R215). -/
def execKvSumm (st : Nat) (h : Hdr) (f : LayT) (s : State) : Answer :=
  .next (settIssue (.kvSumm st h f) s)
/-- CAIRN_LOOKUP (R240). -/
def execCairnLookup (st : Nat) (h : Hdr) (f : LayT) (s : State) : Answer :=
  .next (settIssue (.cairnLookup st h f) s)
/-- CAIRN_FILL (R242). -/
def execCairnFill (st : Nat) (h : Hdr) (f : LayT) (s : State) : Answer :=
  .next (settIssue (.cairnFill st h f) s)
/-- CAIRN_FLIP (R243). -/
def execCairnFlip (st : Nat) (h : Hdr) (f : LayT) (s : State) : Answer :=
  .next (settIssue (.cairnFlip st h f) s)
/-- HALO_PUT (R278). -/
def execHaloPut (st : Nat) (h : Hdr) (f : LayT) (s : State) : Answer :=
  .next (settIssue (.haloPut st h f) s)
/-- HALO_TAKE (R279). -/
def execHaloTake (st : Nat) (h : Hdr) (f : LayT) (s : State) : Answer :=
  .next (settIssue (.haloTake st h f) s)
/-- HALO_SPILL (R282). -/
def execHaloSpill (st : Nat) (h : Hdr) (f : LayT) (s : State) : Answer :=
  .next (settIssue (.haloSpill st h f) s)
/-- HALO_FILL (R282). -/
def execHaloFill (st : Nat) (h : Hdr) (f : LayT) (s : State) : Answer :=
  .next (settIssue (.haloFill st h f) s)
/-- SYNC_WAIT (R59). -/
def execSyncWait (st : Nat) (h : Hdr) (f : LayB) (s : State) : Answer :=
  .next (settIssue (.syncWait st h f) s)
/-- SYNC_FENCE (R60). -/
def execSyncFence (st : Nat) (h : Hdr) (f : LayB) (s : State) : Answer :=
  .next (settIssue (.syncFence st h f) s)
/-- SYNC_WAITGE (R70). -/
def execSyncWaitge (st : Nat) (h : Hdr) (f : LayB) (s : State) : Answer :=
  .next (settIssue (.syncWaitge st h f) s)
/-- WC_TAKE (R286). -/
def execWcTake (st : Nat) (h : Hdr) (f : LayB) (s : State) : Answer :=
  .next (settIssue (.wcTake st h f) s)
/-- ATOM_MAX (R112). -/
def execAtomMax (st : Nat) (h : Hdr) (f : LayB) (s : State) : Answer :=
  .next (settIssue (.atomMax st h f) s)
/-- ATOM_MIN (R112). -/
def execAtomMin (st : Nat) (h : Hdr) (f : LayB) (s : State) : Answer :=
  .next (settIssue (.atomMin st h f) s)
/-- ATOM_XCHG (R112). -/
def execAtomXchg (st : Nat) (h : Hdr) (f : LayB) (s : State) : Answer :=
  .next (settIssue (.atomXchg st h f) s)
/-- ATOM_CAS (R112). -/
def execAtomCas (st : Nat) (h : Hdr) (f : LayB) (ext : W64) (s : State) : Answer :=
  .next (settIssue (.atomCas st h f ext) s)
/-- RED_ADD (R113). -/
def execRedAdd (st : Nat) (h : Hdr) (f : LayB) (s : State) : Answer :=
  .next (settIssue (.redAdd st h f) s)
/-- RED_MAX (R113). -/
def execRedMax (st : Nat) (h : Hdr) (f : LayB) (s : State) : Answer :=
  .next (settIssue (.redMax st h f) s)
/-- COLL_POST (R434). -/
def execCollPost (st : Nat) (h : Hdr) (f : LayT) (s : State) : Answer :=
  .next (settIssue (.collPost st h f) s)
/-- UPD_SWEEP (R310). -/
def execUpdSweep (st : Nat) (h : Hdr) (f : LayT) (s : State) : Answer :=
  .next (settIssue (.updSweep st h f) s)
/-- QNT_CVT (R155). -/
def execQntCvt (st : Nat) (h : Hdr) (f : LayT) (s : State) : Answer :=
  .next (settIssue (.qntCvt st h f) s)
/-- ESC_CHECK (R161). -/
def execEscCheck (st : Nat) (h : Hdr) (f : LayT) (s : State) : Answer :=
  .next (settIssue (.escCheck st h f) s)
/-- ESC_MARK (R168). -/
def execEscMark (st : Nat) (h : Hdr) (f : LayT) (s : State) : Answer :=
  .next (settIssue (.escMark st h f) s)
/-- ESC_PIN (R169). -/
def execEscPin (st : Nat) (h : Hdr) (f : LayT) (s : State) : Answer :=
  .next (settIssue (.escPin st h f) s)
/-- ESC_CLR (R168). -/
def execEscClr (st : Nat) (h : Hdr) (f : LayT) (s : State) : Answer :=
  .next (settIssue (.escClr st h f) s)
/-- SYS_NOP (R117). -/
def execSysNop (st : Nat) (h : Hdr) (f : LayS) (s : State) : Answer :=
  .next (settIssue (.sysNop st h f) s)
/-- SYS_CAPS (R119). -/
def execSysCaps (st : Nat) (h : Hdr) (f : LayS) (s : State) : Answer :=
  .next (settIssue (.sysCaps st h f) s)
/-- SYS_FLAGS (R118). -/
def execSysFlags (st : Nat) (h : Hdr) (f : LayS) (s : State) : Answer :=
  .next (settIssue (.sysFlags st h f) s)

end Sys2Proof.Machine
end

