-- ==== Sys2Proof/Machine/SettRows.lean ====
section
/-! DEFINITION. The events of setts, units and Cairn tables as commands (02, 07, 08, 10, 13). None of them has an
effect while the array clock stands (R529). -/

namespace Sys2Proof.Machine

/-- An effect of the array, which needs the array clock. -/
def onArray (f : State → State) (s : State) : State := if s.arrayRuns then f s else s

/-- The sett fetches: it misses words, or runs a stream of its run that has not ended. -/
def fetches (t : Sett) : Bool := t.fetchMiss || (t.phase == .running && !t.ended)

/-- A fetch meets a fault class: its record is posted as a fatal fault's, and the run ends with the class's fatal status, or with
0x0315 for a class that would wait (R370, R374). DESIGN CHOICE: the record's UNIT, for which R373 has no code, is free. -/
def fetchFault (st va cls : Nat) (s : State) : State :=
  let bad := fun s => failRun st (if fatalClass cls then classStatus cls else 0x0315) s
  match s.stile.cur with
  | none => bad s
  | some r =>
    let agent := settAgent s st .stream / 8 * 8 + (Config.freeWord s.fresh).toNat % 8
    bad (postFault (countRunFault { s with fresh := s.fresh + 1 }) r.client va cls .read r.seqNo agent (.sett st .stream) true)

/-- The words at the sett's pc arrive, with or without a miss that waits for them. A fetch that meets a fault class, or bad
memory, ends the run (R53, R370). -/
def fetchReturn (st : Nat) (s : State) : State :=
  if !fetches (s.sett st) then s
  else match readGranule s (settAg s st) .read (s.sett st).pc.toNat 8 with
    | .ok _ s1 => s1.setSett st fun t => { t with fetchMiss := false }
    | .fault c s1 => fetchFault st (s.sett st).pc.toNat c s1
    | .bad x s1 => failRun st x s1

/-- FETCH_RETURN (R53). -/
def execFetchReturn (st : Nat) (s : State) : Answer := .next (onArray (fetchReturn st) s)
/-- ISSUE_STALL_RELEASE (R54). -/
def execIssueStallRelease (st : Nat) (s : State) : Answer := .next (onArray (retryStall st [7]) s)
/-- INSTRUCTION_COMPLETE (R58). -/
def execInstructionComplete (st : Nat) (unit : UnitId) (s : State) : Answer :=
  .next (onArray (completeHead st unit) s)
/-- SYNC_WAIT_RELEASE (R59). -/
def execSyncWaitRelease (st : Nat) (s : State) : Answer := .next (onArray (retryStall st [1]) s)
/-- MMA_SWAP_RELEASE (R102). -/
def execMmaSwapRelease (st : Nat) (s : State) : Answer := .next (onArray (retry st (waitsFor .swap)) s)
/-- ESC_CHECK_RELEASE (R158). -/
def execEscCheckRelease (st : Nat) (s : State) : Answer := .next (onArray (retry st (waitsFor .escCheck)) s)
/-- HALO_CREDIT_ARRIVAL (R277). -/
def execHaloCreditArrival (st : Nat) (dir : BitVec 2) (s : State) : Answer :=
  .next (onArray (haloCredit st dir.toNat) s)
/-- HALO_SLOT_ARRIVAL (R281). -/
def execHaloSlotArrival (st : Nat) (dir : BitVec 2) (s : State) : Answer :=
  .next (onArray (haloSlot st dir.toNat) s)
/-- MERGE_PARTNER_ARRIVAL (R224). -/
def execMergePartnerArrival (st : Nat) (s : State) : Answer := .next (onArray (retry st (waitsFor .merge)) s)
/-- COLL_POST_QUEUE_RELEASE (R434). -/
def execCollPostQueueRelease (st : Nat) (s : State) : Answer := .next (onArray (retry st (waitsFor .mortar)) s)
/-- CAIRN_FILL_RELEASE (R242). -/
def execCairnFillRelease (st : Nat) (s : State) : Answer := .next (onArray (retry st (waitsFor .cairnFill)) s)
/-- CAIRN_FLIP_RELEASE (R243). -/
def execCairnFlipRelease (st : Nat) (s : State) : Answer := .next (onArray (retry st (waitsFor .cairnFlip)) s)
/-- CAIRN_CLEAR_START (R244). -/
def execCairnClearStart (table : Nat) (s : State) : Answer := .next (onArray (cairnClearStart table) s)
/-- CAIRN_CLEAR_DONE (R244). -/
def execCairnClearDone (table : Nat) (s : State) : Answer := .next (onArray (cairnClearDone table) s)
/-- WAIT_RESEND (R354). -/
def execWaitResend (st : Nat) (s : State) : Answer := .next (onArray (retry st (waitsFor .lintel)) s)
/-- SETT_COMPLETE (R71). -/
def execSettComplete (st : Nat) (s : State) : Answer := .next (onArray (settDone st) s)

end Sys2Proof.Machine
end

