-- ==== Sys2Proof/Machine/Dispatch.lean ====
section
/-! DEFINITION. One arm for each command of the table. -/

namespace Sys2Proof.Machine

def exec (i : Instr) (s : State) : Host.Outcome State Fault Refusal :=
  match i with
  | .ctlBr st h f => Sys2Proof.Machine.execCtlBr st h f s
  | .ctlLoop st h f => Sys2Proof.Machine.execCtlLoop st h f s
  | .ctlEnd st h f => Sys2Proof.Machine.execCtlEnd st h f s
  | .sclAdd st h f => Sys2Proof.Machine.execSclAdd st h f s
  | .sclSub st h f => Sys2Proof.Machine.execSclSub st h f s
  | .sclMul st h f => Sys2Proof.Machine.execSclMul st h f s
  | .sclDivu st h f => Sys2Proof.Machine.execSclDivu st h f s
  | .sclRemu st h f => Sys2Proof.Machine.execSclRemu st h f s
  | .sclAnd st h f => Sys2Proof.Machine.execSclAnd st h f s
  | .sclOr st h f => Sys2Proof.Machine.execSclOr st h f s
  | .sclXor st h f => Sys2Proof.Machine.execSclXor st h f s
  | .sclShl st h f => Sys2Proof.Machine.execSclShl st h f s
  | .sclShr st h f => Sys2Proof.Machine.execSclShr st h f s
  | .sclSra st h f => Sys2Proof.Machine.execSclSra st h f s
  | .sclMin st h f => Sys2Proof.Machine.execSclMin st h f s
  | .sclMax st h f => Sys2Proof.Machine.execSclMax st h f s
  | .sclMinu st h f => Sys2Proof.Machine.execSclMinu st h f s
  | .sclMaxu st h f => Sys2Proof.Machine.execSclMaxu st h f s
  | .sclLi st h f ext => Sys2Proof.Machine.execSclLi st h f ext s
  | .sclCmpEq st h f => Sys2Proof.Machine.execSclCmpEq st h f s
  | .sclCmpNe st h f => Sys2Proof.Machine.execSclCmpNe st h f s
  | .sclCmpLt st h f => Sys2Proof.Machine.execSclCmpLt st h f s
  | .sclCmpLe st h f => Sys2Proof.Machine.execSclCmpLe st h f s
  | .sclCmpLtu st h f => Sys2Proof.Machine.execSclCmpLtu st h f s
  | .sclCmpLeu st h f => Sys2Proof.Machine.execSclCmpLeu st h f s
  | .descSet st h f => Sys2Proof.Machine.execDescSet st h f s
  | .descAdj st h f => Sys2Proof.Machine.execDescAdj st h f s
  | .descValid st h f => Sys2Proof.Machine.execDescValid st h f s
  | .descGet st h f => Sys2Proof.Machine.execDescGet st h f s
  | .strLoad st h f => Sys2Proof.Machine.execStrLoad st h f s
  | .strStore st h f => Sys2Proof.Machine.execStrStore st h f s
  | .strGather st h f => Sys2Proof.Machine.execStrGather st h f s
  | .strScan st h f => Sys2Proof.Machine.execStrScan st h f s
  | .strPref st h f => Sys2Proof.Machine.execStrPref st h f s
  | .strCopy st h f => Sys2Proof.Machine.execStrCopy st h f s
  | .mmaWld st h f => Sys2Proof.Machine.execMmaWld st h f s
  | .mma st h f => Sys2Proof.Machine.execMma st h f s
  | .ldgAnchor st h f => Sys2Proof.Machine.execLdgAnchor st h f s
  | .ldgCvt st h f => Sys2Proof.Machine.execLdgCvt st h f s
  | .vecAdd st h f => Sys2Proof.Machine.execVecAdd st h f s
  | .vecSub st h f => Sys2Proof.Machine.execVecSub st h f s
  | .vecMul st h f => Sys2Proof.Machine.execVecMul st h f s
  | .vecFma st h f => Sys2Proof.Machine.execVecFma st h f s
  | .vecMax st h f => Sys2Proof.Machine.execVecMax st h f s
  | .vecMin st h f => Sys2Proof.Machine.execVecMin st h f s
  | .vecAbs st h f => Sys2Proof.Machine.execVecAbs st h f s
  | .vecCmp st h f => Sys2Proof.Machine.execVecCmp st h f s
  | .vecSel st h f => Sys2Proof.Machine.execVecSel st h f s
  | .vecBcast st h f => Sys2Proof.Machine.execVecBcast st h f s
  | .vecLd st h f => Sys2Proof.Machine.execVecLd st h f s
  | .vecSt st h f => Sys2Proof.Machine.execVecSt st h f s
  | .vecIadd st h f => Sys2Proof.Machine.execVecIadd st h f s
  | .vecPerm st h f => Sys2Proof.Machine.execVecPerm st h f s
  | .vecRsum st h f => Sys2Proof.Machine.execVecRsum st h f s
  | .fnTanh st h f => Sys2Proof.Machine.execFnTanh st h f s
  | .fnSig st h f => Sys2Proof.Machine.execFnSig st h f s
  | .gateSig st h f => Sys2Proof.Machine.execGateSig st h f s
  | .gateTanh st h f => Sys2Proof.Machine.execGateTanh st h f s
  | .gateSilu st h f => Sys2Proof.Machine.execGateSilu st h f s
  | .gateGelu st h f => Sys2Proof.Machine.execGateGelu st h f s
  | .rowNorm st h f => Sys2Proof.Machine.execRowNorm st h f s
  | .rowRms st h f => Sys2Proof.Machine.execRowRms st h f s
  | .rowSmax st h f => Sys2Proof.Machine.execRowSmax st h f s
  | .rowStat st h f => Sys2Proof.Machine.execRowStat st h f s
  | .winConv st h f ext => Sys2Proof.Machine.execWinConv st h f ext s
  | .winPool st h f ext => Sys2Proof.Machine.execWinPool st h f ext s
  | .fftR4 st h f => Sys2Proof.Machine.execFftR4 st h f s
  | .fftR8 st h f => Sys2Proof.Machine.execFftR8 st h f s
  | .fftCmul st h f => Sys2Proof.Machine.execFftCmul st h f s
  | .sortPairs st h f => Sys2Proof.Machine.execSortPairs st h f s
  | .sortTopk st h f => Sys2Proof.Machine.execSortTopk st h f s
  | .sortMerge st h f => Sys2Proof.Machine.execSortMerge st h f s
  | .attnStep st h f => Sys2Proof.Machine.execAttnStep st h f s
  | .attnMerge st h f => Sys2Proof.Machine.execAttnMerge st h f s
  | .kvScatter st h f => Sys2Proof.Machine.execKvScatter st h f s
  | .kvLoad st h f => Sys2Proof.Machine.execKvLoad st h f s
  | .kvSumm st h f => Sys2Proof.Machine.execKvSumm st h f s
  | .cairnLookup st h f => Sys2Proof.Machine.execCairnLookup st h f s
  | .cairnFill st h f => Sys2Proof.Machine.execCairnFill st h f s
  | .cairnFlip st h f => Sys2Proof.Machine.execCairnFlip st h f s
  | .haloPut st h f => Sys2Proof.Machine.execHaloPut st h f s
  | .haloTake st h f => Sys2Proof.Machine.execHaloTake st h f s
  | .haloSpill st h f => Sys2Proof.Machine.execHaloSpill st h f s
  | .haloFill st h f => Sys2Proof.Machine.execHaloFill st h f s
  | .syncWait st h f => Sys2Proof.Machine.execSyncWait st h f s
  | .syncFence st h f => Sys2Proof.Machine.execSyncFence st h f s
  | .syncWaitge st h f => Sys2Proof.Machine.execSyncWaitge st h f s
  | .wcTake st h f => Sys2Proof.Machine.execWcTake st h f s
  | .atomMax st h f => Sys2Proof.Machine.execAtomMax st h f s
  | .atomMin st h f => Sys2Proof.Machine.execAtomMin st h f s
  | .atomXchg st h f => Sys2Proof.Machine.execAtomXchg st h f s
  | .atomCas st h f ext => Sys2Proof.Machine.execAtomCas st h f ext s
  | .redAdd st h f => Sys2Proof.Machine.execRedAdd st h f s
  | .redMax st h f => Sys2Proof.Machine.execRedMax st h f s
  | .collPost st h f => Sys2Proof.Machine.execCollPost st h f s
  | .updSweep st h f => Sys2Proof.Machine.execUpdSweep st h f s
  | .qntCvt st h f => Sys2Proof.Machine.execQntCvt st h f s
  | .escCheck st h f => Sys2Proof.Machine.execEscCheck st h f s
  | .escMark st h f => Sys2Proof.Machine.execEscMark st h f s
  | .escPin st h f => Sys2Proof.Machine.execEscPin st h f s
  | .escClr st h f => Sys2Proof.Machine.execEscClr st h f s
  | .sysNop st h f => Sys2Proof.Machine.execSysNop st h f s
  | .sysCaps st h f => Sys2Proof.Machine.execSysCaps st h f s
  | .sysFlags st h f => Sys2Proof.Machine.execSysFlags st h f s
  | .fetchReturn st => Sys2Proof.Machine.execFetchReturn st s
  | .issueStallRelease st => Sys2Proof.Machine.execIssueStallRelease st s
  | .instructionComplete st unit => Sys2Proof.Machine.execInstructionComplete st unit s
  | .syncWaitRelease st => Sys2Proof.Machine.execSyncWaitRelease st s
  | .mmaSwapRelease st => Sys2Proof.Machine.execMmaSwapRelease st s
  | .escCheckRelease st => Sys2Proof.Machine.execEscCheckRelease st s
  | .haloCreditArrival st dir => Sys2Proof.Machine.execHaloCreditArrival st dir s
  | .haloSlotArrival st dir => Sys2Proof.Machine.execHaloSlotArrival st dir s
  | .mergePartnerArrival st => Sys2Proof.Machine.execMergePartnerArrival st s
  | .collPostQueueRelease st => Sys2Proof.Machine.execCollPostQueueRelease st s
  | .cairnFillRelease st => Sys2Proof.Machine.execCairnFillRelease st s
  | .cairnFlipRelease st => Sys2Proof.Machine.execCairnFlipRelease st s
  | .cairnClearStart table => Sys2Proof.Machine.execCairnClearStart table s
  | .cairnClearDone table => Sys2Proof.Machine.execCairnClearDone table s
  | .lintelWaitRelease addr => Sys2Proof.Machine.execLintelWaitRelease addr s
  | .waitResend st => Sys2Proof.Machine.execWaitResend st s
  | .settComplete st => Sys2Proof.Machine.execSettComplete st s
  | .resume client faultId => Sys2Proof.Machine.execResume client faultId s
  | .fail client faultId => Sys2Proof.Machine.execFail client faultId s
  | .xlatFqTailWrite client value => Sys2Proof.Machine.execXlatFqTailWrite client value s
  | .xlatFqBaseWrite client value => Sys2Proof.Machine.execXlatFqBaseWrite client value s
  | .xlatFqCtrlWrite client value => Sys2Proof.Machine.execXlatFqCtrlWrite client value s
  | .invalidate va ctrl => Sys2Proof.Machine.execInvalidate va ctrl s
  | .invalidationDone => Sys2Proof.Machine.execInvalidationDone s
  | .queuePoll client queue => Sys2Proof.Machine.execQueuePoll client queue s
  | .nop client queue => Sys2Proof.Machine.execNop client queue s
  | .run client queue manifest => Sys2Proof.Machine.execRun client queue manifest s
  | .copy client queue => Sys2Proof.Machine.execCopy client queue s
  | .copyComplete client queue => Sys2Proof.Machine.execCopyComplete client queue s
  | .scheduleRun => Sys2Proof.Machine.execScheduleRun s
  | .sliceExpiry => Sys2Proof.Machine.execSliceExpiry s
  | .preempt => Sys2Proof.Machine.execPreempt s
  | .preemptionSaveDone => Sys2Proof.Machine.execPreemptionSaveDone s
  | .stop => Sys2Proof.Machine.execStop s
  | .runWatchdogExpiry => Sys2Proof.Machine.execRunWatchdogExpiry s
  | .clientReset client => Sys2Proof.Machine.execClientReset client s
  | .vfFlr client => Sys2Proof.Machine.execVfFlr client s
  | .pfFlr => Sys2Proof.Machine.execPfFlr s
  | .queueEnable client queue value => Sys2Proof.Machine.execQueueEnable client queue value s
  | .stileCqTailWrite client value => Sys2Proof.Machine.execStileCqTailWrite client value s
  | .stileCqBaseWrite client value => Sys2Proof.Machine.execStileCqBaseWrite client value s
  | .stileCqCtrlWrite client value => Sys2Proof.Machine.execStileCqCtrlWrite client value s
  | .holdoffExpiry client => Sys2Proof.Machine.execHoldoffExpiry client s
  | .bar2Read client offset len => Sys2Proof.Machine.execBar2Read client offset len s
  | .bar2Write client offset bytes => Sys2Proof.Machine.execBar2Write client offset bytes s
  | .configRequest client offset write => Sys2Proof.Machine.execConfigRequest client offset write s
  | .streamOpen client queue => Sys2Proof.Machine.execStreamOpen client queue s
  | .streamFlush client queue => Sys2Proof.Machine.execStreamFlush client queue s
  | .streamClose client queue => Sys2Proof.Machine.execStreamClose client queue s
  | .codecSliceStart core => Sys2Proof.Machine.execCodecSliceStart core s
  | .codecSliceComplete core part => Sys2Proof.Machine.execCodecSliceComplete core part s
  | .budgetExpiry core => Sys2Proof.Machine.execBudgetExpiry core s
  | .codecFaultLimitExpiry core => Sys2Proof.Machine.execCodecFaultLimitExpiry core s
  | .codecCoreFence core => Sys2Proof.Machine.execCodecCoreFence core s
  | .codecCoreUnfence core => Sys2Proof.Machine.execCodecCoreUnfence core s
  | .codecCoreTest core => Sys2Proof.Machine.execCodecCoreTest core s
  | .hostCollPost client queue => Sys2Proof.Machine.execHostCollPost client queue s
  | .hostCollOpen client queue => Sys2Proof.Machine.execHostCollOpen client queue s
  | .hostCollClose client queue => Sys2Proof.Machine.execHostCollClose client queue s
  | .collectiveStart ctx => Sys2Proof.Machine.execCollectiveStart ctx s
  | .chunkSend ctx => Sys2Proof.Machine.execChunkSend ctx s
  | .dataChunk source chunk => Sys2Proof.Machine.execDataChunk source chunk s
  | .ackChunk source chunk => Sys2Proof.Machine.execAckChunk source chunk s
  | .refetch source chunk => Sys2Proof.Machine.execRefetch source chunk s
  | .notice source chunk => Sys2Proof.Machine.execNotice source chunk s
  | .ackLimitExpiry ctx slot => Sys2Proof.Machine.execAckLimitExpiry ctx slot s
  | .groupTimeout ctx => Sys2Proof.Machine.execGroupTimeout ctx s
  | .collectiveComplete ctx => Sys2Proof.Machine.execCollectiveComplete ctx s
  | .contextTakeDown ctx => Sys2Proof.Machine.execContextTakeDown ctx s
  | .contextReturn ctx => Sys2Proof.Machine.execContextReturn ctx s
  | .portTrain port => Sys2Proof.Machine.execPortTrain port s
  | .trainingComplete port ok lanes peer => Sys2Proof.Machine.execTrainingComplete port ok lanes peer s
  | .portTakeDown port => Sys2Proof.Machine.execPortTakeDown port s
  | .drainLimitExpiry port => Sys2Proof.Machine.execDrainLimitExpiry port s
  | .linkFault port => Sys2Proof.Machine.execLinkFault port s
  | .dataFlit port flit => Sys2Proof.Machine.execDataFlit port flit s
  | .idleFlit port flit => Sys2Proof.Machine.execIdleFlit port flit s
  | .creditOnlyFlit port flit => Sys2Proof.Machine.execCreditOnlyFlit port flit s
  | .replayRequest port flit => Sys2Proof.Machine.execReplayRequest port flit s
  | .abortFlit port flit => Sys2Proof.Machine.execAbortFlit port flit s
  | .stallLimitExpiry port => Sys2Proof.Machine.execStallLimitExpiry port s
  | .golgerModuleIdWrite value => Sys2Proof.Machine.execGolgerModuleIdWrite value s
  | .scrubBurst die addr => Sys2Proof.Machine.execScrubBurst die addr s
  | .mapReleaseRetry die => Sys2Proof.Machine.execMapReleaseRetry die s
  | .mapReleaseAns mb msg => Sys2Proof.Machine.execMapReleaseAns mb msg s
  | .mapoutCopyStart die => Sys2Proof.Machine.execMapoutCopyStart die s
  | .mapoutCommit die => Sys2Proof.Machine.execMapoutCommit die s
  | .zqCalibration die device => Sys2Proof.Machine.execZqCalibration die device s
  | .timingAdjustment die pc => Sys2Proof.Machine.execTimingAdjustment die pc s
  | .agingReadout slack => Sys2Proof.Machine.execAgingReadout slack s
  | .telemetrySample => Sys2Proof.Machine.execTelemetrySample s
  | .supplySample watts millivolts amps => Sys2Proof.Machine.execSupplySample watts millivolts amps s
  | .junctionSample tj => Sys2Proof.Machine.execJunctionSample tj s
  | .levelFall => Sys2Proof.Machine.execLevelFall s
  | .clockStepDown => Sys2Proof.Machine.execClockStepDown s
  | .clockStepUp => Sys2Proof.Machine.execClockStepUp s
  | .regulatorFault rail => Sys2Proof.Machine.execRegulatorFault rail s
  | .gateIdleExpiry => Sys2Proof.Machine.execGateIdleExpiry s
  | .wakeComplete unit locked => Sys2Proof.Machine.execWakeComplete unit locked s
  | .crashCopyComplete => Sys2Proof.Machine.execCrashCopyComplete s
  | .rearm => Sys2Proof.Machine.execRearm s
  | .hearthWdogExpiry core => Sys2Proof.Machine.execHearthWdogExpiry core s
  | .kick core => Sys2Proof.Machine.execKick core s
  | .nack => Sys2Proof.Machine.execNack s
  | .mailboxReset => Sys2Proof.Machine.execMailboxReset s
  | .hello mb msg => Sys2Proof.Machine.execHello mb msg s
  | .getInfo mb msg => Sys2Proof.Machine.execGetInfo mb msg s
  | .fwStage mb msg => Sys2Proof.Machine.execFwStage mb msg s
  | .fwStageComplete ok => Sys2Proof.Machine.execFwStageComplete ok s
  | .fwVerify mb msg => Sys2Proof.Machine.execFwVerify mb msg s
  | .fwActivate mb msg => Sys2Proof.Machine.execFwActivate mb msg s
  | .activationClearExpiry => Sys2Proof.Machine.execActivationClearExpiry s
  | .fwCancel mb msg => Sys2Proof.Machine.execFwCancel mb msg s
  | .fwCommit mb msg => Sys2Proof.Machine.execFwCommit mb msg s
  | .fwStatus mb msg => Sys2Proof.Machine.execFwStatus mb msg s
  | .otpRead mb msg => Sys2Proof.Machine.execOtpRead mb msg s
  | .otpWriteGen mb msg => Sys2Proof.Machine.execOtpWriteGen mb msg s
  | .otpRevoke mb msg => Sys2Proof.Machine.execOtpRevoke mb msg s
  | .logRead mb msg => Sys2Proof.Machine.execLogRead mb msg s
  | .crashRead mb msg => Sys2Proof.Machine.execCrashRead mb msg s
  | .getVersion path body => Sys2Proof.Machine.execGetVersion path body s
  | .getCapabilities path body => Sys2Proof.Machine.execGetCapabilities path body s
  | .negotiateAlgorithms path body => Sys2Proof.Machine.execNegotiateAlgorithms path body s
  | .getDigests path body => Sys2Proof.Machine.execGetDigests path body s
  | .getCertificate path body => Sys2Proof.Machine.execGetCertificate path body s
  | .challenge path body => Sys2Proof.Machine.execChallenge path body s
  | .getMeasurements path body => Sys2Proof.Machine.execGetMeasurements path body s
  | .spdmUnsupportedRequest path body => Sys2Proof.Machine.execSpdmUnsupportedRequest path body s
  | .setEndpointId path eid => Sys2Proof.Machine.execSetEndpointId path eid s
  | .activateFirmware path body => Sys2Proof.Machine.execActivateFirmware path body s
  | .fence index => Sys2Proof.Machine.execFence index s
  | .unfence index => Sys2Proof.Machine.execUnfence index s
  | .selfTest unit index urgent persist => Sys2Proof.Machine.execSelfTest unit index urgent persist s
  | .retrain unit index urgent => Sys2Proof.Machine.execRetrain unit index urgent s
  | .testDeferredStart => Sys2Proof.Machine.execTestDeferredStart s
  | .selfTestComplete pass => Sys2Proof.Machine.execSelfTestComplete pass s
  | .retrainComplete ok => Sys2Proof.Machine.execRetrainComplete ok s
  | .warmReset => Sys2Proof.Machine.execWarmReset s
  | .coldReset => Sys2Proof.Machine.execColdReset s
  | .perst => Sys2Proof.Machine.execPerst s
  | .mrst => Sys2Proof.Machine.execMrst s
  | .pcieHotReset => Sys2Proof.Machine.execPcieHotReset s
  | .powerUp => Sys2Proof.Machine.execPowerUp s
  | .powerLoss => Sys2Proof.Machine.execPowerLoss s
  | .bootStart env => Sys2Proof.Machine.execBootStart env s
  | .refclkLoss => Sys2Proof.Machine.execRefclkLoss s
  | .bypass => Sys2Proof.Machine.execBypass s
  | .idcode => Sys2Proof.Machine.execIdcode s
  | .samplePreload => Sys2Proof.Machine.execSamplePreload s
  | .extest => Sys2Proof.Machine.execExtest s
  | .clamp => Sys2Proof.Machine.execClamp s
  | .highz => Sys2Proof.Machine.execHighz s
  | .extestPulse => Sys2Proof.Machine.execExtestPulse s
  | .extestTrain => Sys2Proof.Machine.execExtestTrain s
  | .reg64ShadowRead client offset => Sys2Proof.Machine.execReg64ShadowRead client offset s
  | .registerWrite client offset value => Sys2Proof.Machine.execRegisterWrite client offset value s
  | .unknownMessageType mb msg => Sys2Proof.Machine.execUnknownMessageType mb msg s
  | .hearthMemoryUncorrectable core => Sys2Proof.Machine.execHearthMemoryUncorrectable core s
  | .mrstRise straps => Sys2Proof.Machine.execMrstRise straps s

end Sys2Proof.Machine
end

