-- ==== Sys2Proof/Machine/Tick.lean ====
section
/-! DEFINITION. One tick of the always-on counter, with the accounts of Stile that count ticks (R4, R402–R404). -/

namespace Sys2Proof.Machine

/-- A run waits one more tick. -/
def waitTick (s : State) (r : Run) : State :=
  let s1 := s.setCl r.client fun k => { k with acctWait := satAdd k.acctWait 1 }
  { s1 with stile := { s1.stile with runs := s1.stile.runs.map fun x =>
      if x.client = r.client ∧ x.seqNo = r.seqNo then { x with wait := x.wait + 1 } else x } }

/-- A fault of the run waits for an answer. -/
def faultWaits (s : State) (r : Run) : Bool := (s.client r.client).waiting.any fun f => f.run == r.seqNo

/-- The run on the array: until its first issue it waits (R403); then its run time and watchdog, or, from a pre-emption stop
until the array is free and from a resume until it issues, its save time. -/
def ownerTick (s : State) (r : Run) : State :=
  let held (s : State) : State := { s with stile := { s.stile with held := s.stile.held + 1 } }
  match s.stile.array with
  | .admitting =>
    let s1 := s.setCl r.client fun k => { k with acctWait := satAdd k.acctWait 1 }
    { s1 with stile := { s1.stile with cur := some { r with wait := r.wait + 1 } } }
  | .saving | .restoring =>
    let s1 := held (s.setCl r.client fun k => { k with acctSave := satAdd k.acctSave 1 })
    { s1 with stile := { s1.stile with cur := some { r with save := r.save + 1 } } }
  | .free | .running | .stopping =>
    let s1 := held (s.setCl r.client fun k => { k with acctRun := satAdd k.acctRun 1 })
    let w := if faultWaits s r then r.wdog else r.wdog + 1
    { s1 with stile := { s1.stile with cur := some { r with runt := r.runt + 1, wdog := w } } }

/-- The timers of collectives advance, but not while their contexts are frozen or wait on a fault (R450). -/
def timerTick (s : State) : State :=
  { s with mortar := { s.mortar with ctxs := s.mortar.ctxs.map fun e =>
      if e.2.phase = .bound ∧ e.2.paused = none ∧ e.2.cur.isSome then (e.1, { e.2 with timer := e.2.timer + 1 }) else e } }

/-- Every port's waits (R424). -/
def portTick (s : State) : State := s.golger.ports.foldl (fun s e => s.setPort e.1 GPort.tick) s

/-- A tick: the counter advances while the always-on domain has power, and timers and accounts while the rails are on. DESIGN
CHOICE: Hearth takes note of a failing pseudo-channel at a tick or with a scrubbed burst (R341). -/
def tick (s : State) : State :=
  if !s.conn.vin then s
  else
    let s1 := { s with aon := s.aon + 1 }
    if !s.powered then s1
    else
      let s2 := markFailing 1 (markFailing 0 (s.readyRuns.foldl waitTick
        (codecTick (timerTick (portTick (s1.setPower (powerTick (arrayIdle s))))))))
      match s2.stile.cur with
      | none => s2
      | some r => ownerTick s2 r

end Sys2Proof.Machine
end

