-- ==== Sys2Proof/Machine/Step.lean ====
section
/-! DEFINITION. One step: the command at the front of the queue, or a tick of the always-on clock when none waits. -/

namespace Sys2Proof.Machine

/-- The state with a command put at the front of its queue. -/
def State.withCommand (s : State) (i : Instr) : State := { s with pending := i :: s.pending }

/-- The step of the block. DESIGN CHOICE (log entry 5): with no command waiting a tick of the always-on counter passes (R4). -/
def step (s : State) : Host.Outcome State Fault Refusal :=
  match s.pending with
  | [] => .next (tick s)
  | i :: rest => exec i { s with pending := rest }

/-- The command that a word spells, put in front. -/
def State.withFetchWord (s : State) (nbits w : Nat) : State :=
  match decodeTableWord nbits w with
  | none => s
  | some i => s.withCommand i

end Sys2Proof.Machine
end

