-- ==== Sys2Proof/WellFormed.lean ====
section
/-! DEFINITION. Which commands are well formed: every number names something the block has, and a message or flit has
the length and the type of its row. A meaning is total on ill-formed commands too (most change nothing). -/

namespace Sys2Proof

/-- 24 × 17 setts (R22). -/
def settOk (st : Nat) : Bool := st < 408
/-- Twelve Golger ports. -/
def portOk (port : Nat) : Bool := port < 12
/-- 256 Mortar contexts. -/
def ctxOk (ctx : Nat) : Bool := ctx < 256
/-- Send slots of a context. -/
def slotOk (slot : Nat) : Bool := slot < 16
/-- The PF and 31 VFs. -/
def clientOk (client : Nat) : Bool := client < 32
/-- Eight queues of a client. -/
def queueOk (queue : Nat) : Bool := queue < 8
/-- Two dies. -/
def dieOk (die : Nat) : Bool := die < 2
/-- Two Cairn tables. -/
def tableOk (table : Nat) : Bool := table < 2
/-- Three mailboxes. -/
def boxOk (mb : Nat) : Bool := mb < 3
/-- Message paths: DOE, PCIe VDM, SMBus. -/
def pathOk (path : Nat) : Bool := path < 3
/-- Pseudo-channels of a die. -/
def pcOk (pc : Nat) : Bool := pc < 192
/-- Codec cores. -/
def codecOk (core : Nat) : Bool := core < 24
/-- Hearth cores. -/
def hcoreOk (core : Nat) : Bool := core < 4
/-- Units that wake. -/
def unitOk (unit : Nat) : Bool := unit ≤ 70
/-- A register offset is a multiple of four. -/
def regOk (offset : Nat) : Bool := offset % 4 = 0
/-- A word of Lintel is aligned. -/
def alignedOk (addr : Nat) : Bool := addr % 8 = 0
/-- A flit is 256 bytes. -/
def flitOk (flit : Flit) : Bool := flit.bytes.length = 256
/-- A chunk has the header of 256 bytes. -/
def chunkOk (chunk : Chunk) : Bool := chunk.header.length = 64
/-- A mailbox message holds its header. -/
def lengthOk (msg : List Byte) : Bool := 16 ≤ msg.length
/-- A mailbox message of one TYPE (bytes 2–3). -/
def msgOk (type : Nat) (msg : List Byte) : Bool :=
  lengthOk msg && (msg.getD 2 0).toNat + 256 * (msg.getD 3 0).toNat == type
/-- An SPDM request of one code (byte 1). -/
def spdmOk (code : Nat) (body : List Byte) : Bool := 4 ≤ body.length && (body.getD 1 0).toNat == code
/-- An SPDM request of any code but the seven that Hearth serves. -/
def otherOk (body : List Byte) : Bool :=
  4 ≤ body.length && !(([0x81, 0x82, 0x83, 0x84, 0xE0, 0xE1, 0xE3] : List Nat).contains (body.getD 1 0).toNat)
/-- A manifest places rows × columns setts with a stream each. -/
def manifestOk (m : Manifest) : Bool := m.setts.length = m.rows * m.cols && m.streams.length = m.rows * m.cols
/-- Boot names columns that exist. -/
def envOk (env : BootEnv) : Bool := env.failCols.all fun c => c < 34

/-- The checks of each command. -/
def Instr.wf (i : Instr) : Bool :=
  match i with
  | .ctlBr st _ _ => settOk st
  | .ctlLoop st _ _ => settOk st
  | .ctlEnd st _ _ => settOk st
  | .sclAdd st _ _ => settOk st
  | .sclSub st _ _ => settOk st
  | .sclMul st _ _ => settOk st
  | .sclDivu st _ _ => settOk st
  | .sclRemu st _ _ => settOk st
  | .sclAnd st _ _ => settOk st
  | .sclOr st _ _ => settOk st
  | .sclXor st _ _ => settOk st
  | .sclShl st _ _ => settOk st
  | .sclShr st _ _ => settOk st
  | .sclSra st _ _ => settOk st
  | .sclMin st _ _ => settOk st
  | .sclMax st _ _ => settOk st
  | .sclMinu st _ _ => settOk st
  | .sclMaxu st _ _ => settOk st
  | .sclLi st _ _ _ => settOk st
  | .sclCmpEq st _ _ => settOk st
  | .sclCmpNe st _ _ => settOk st
  | .sclCmpLt st _ _ => settOk st
  | .sclCmpLe st _ _ => settOk st
  | .sclCmpLtu st _ _ => settOk st
  | .sclCmpLeu st _ _ => settOk st
  | .descSet st _ _ => settOk st
  | .descAdj st _ _ => settOk st
  | .descValid st _ _ => settOk st
  | .descGet st _ _ => settOk st
  | .strLoad st _ _ => settOk st
  | .strStore st _ _ => settOk st
  | .strGather st _ _ => settOk st
  | .strScan st _ _ => settOk st
  | .strPref st _ _ => settOk st
  | .strCopy st _ _ => settOk st
  | .mmaWld st _ _ => settOk st
  | .mma st _ _ => settOk st
  | .ldgAnchor st _ _ => settOk st
  | .ldgCvt st _ _ => settOk st
  | .vecAdd st _ _ => settOk st
  | .vecSub st _ _ => settOk st
  | .vecMul st _ _ => settOk st
  | .vecFma st _ _ => settOk st
  | .vecMax st _ _ => settOk st
  | .vecMin st _ _ => settOk st
  | .vecAbs st _ _ => settOk st
  | .vecCmp st _ _ => settOk st
  | .vecSel st _ _ => settOk st
  | .vecBcast st _ _ => settOk st
  | .vecLd st _ _ => settOk st
  | .vecSt st _ _ => settOk st
  | .vecIadd st _ _ => settOk st
  | .vecPerm st _ _ => settOk st
  | .vecRsum st _ _ => settOk st
  | .fnTanh st _ _ => settOk st
  | .fnSig st _ _ => settOk st
  | .gateSig st _ _ => settOk st
  | .gateTanh st _ _ => settOk st
  | .gateSilu st _ _ => settOk st
  | .gateGelu st _ _ => settOk st
  | .rowNorm st _ _ => settOk st
  | .rowRms st _ _ => settOk st
  | .rowSmax st _ _ => settOk st
  | .rowStat st _ _ => settOk st
  | .winConv st _ _ _ => settOk st
  | .winPool st _ _ _ => settOk st
  | .fftR4 st _ _ => settOk st
  | .fftR8 st _ _ => settOk st
  | .fftCmul st _ _ => settOk st
  | .sortPairs st _ _ => settOk st
  | .sortTopk st _ _ => settOk st
  | .sortMerge st _ _ => settOk st
  | .attnStep st _ _ => settOk st
  | .attnMerge st _ _ => settOk st
  | .kvScatter st _ _ => settOk st
  | .kvLoad st _ _ => settOk st
  | .kvSumm st _ _ => settOk st
  | .cairnLookup st _ _ => settOk st
  | .cairnFill st _ _ => settOk st
  | .cairnFlip st _ _ => settOk st
  | .haloPut st _ _ => settOk st
  | .haloTake st _ _ => settOk st
  | .haloSpill st _ _ => settOk st
  | .haloFill st _ _ => settOk st
  | .syncWait st _ _ => settOk st
  | .syncFence st _ _ => settOk st
  | .syncWaitge st _ _ => settOk st
  | .wcTake st _ _ => settOk st
  | .atomMax st _ _ => settOk st
  | .atomMin st _ _ => settOk st
  | .atomXchg st _ _ => settOk st
  | .atomCas st _ _ _ => settOk st
  | .redAdd st _ _ => settOk st
  | .redMax st _ _ => settOk st
  | .collPost st _ _ => settOk st
  | .updSweep st _ _ => settOk st
  | .qntCvt st _ _ => settOk st
  | .escCheck st _ _ => settOk st
  | .escMark st _ _ => settOk st
  | .escPin st _ _ => settOk st
  | .escClr st _ _ => settOk st
  | .sysNop st _ _ => settOk st
  | .sysCaps st _ _ => settOk st
  | .sysFlags st _ _ => settOk st
  | .fetchReturn st => settOk st
  | .issueStallRelease st => settOk st
  | .instructionComplete st _ => settOk st
  | .syncWaitRelease st => settOk st
  | .mmaSwapRelease st => settOk st
  | .escCheckRelease st => settOk st
  | .haloCreditArrival st _ => settOk st
  | .haloSlotArrival st _ => settOk st
  | .mergePartnerArrival st => settOk st
  | .collPostQueueRelease st => settOk st
  | .cairnFillRelease st => settOk st
  | .cairnFlipRelease st => settOk st
  | .cairnClearStart table => tableOk table
  | .cairnClearDone table => tableOk table
  | .lintelWaitRelease addr => alignedOk addr
  | .waitResend st => settOk st
  | .settComplete st => settOk st
  | .resume client _ => clientOk client
  | .fail client _ => clientOk client
  | .xlatFqTailWrite client _ => clientOk client
  | .xlatFqBaseWrite client _ => clientOk client
  | .xlatFqCtrlWrite client _ => clientOk client
  | .invalidate _ _ => true
  | .invalidationDone => true
  | .queuePoll client queue => clientOk client && queueOk queue
  | .nop client queue => clientOk client && queueOk queue
  | .run client queue manifest => clientOk client && queueOk queue && manifestOk manifest
  | .copy client queue => clientOk client && queueOk queue
  | .copyComplete client queue => clientOk client && queueOk queue
  | .scheduleRun => true
  | .sliceExpiry => true
  | .preempt => true
  | .preemptionSaveDone => true
  | .stop => true
  | .runWatchdogExpiry => true
  | .clientReset client => clientOk client
  | .vfFlr client => clientOk client
  | .pfFlr => true
  | .queueEnable client queue _ => clientOk client && queueOk queue
  | .stileCqTailWrite client _ => clientOk client
  | .stileCqBaseWrite client _ => clientOk client
  | .stileCqCtrlWrite client _ => clientOk client
  | .holdoffExpiry client => clientOk client
  | .bar2Read client _ _ => clientOk client
  | .bar2Write client _ _ => clientOk client
  | .configRequest client _ _ => clientOk client
  | .streamOpen client queue => clientOk client && queueOk queue
  | .streamFlush client queue => clientOk client && queueOk queue
  | .streamClose client queue => clientOk client && queueOk queue
  | .codecSliceStart core => codecOk core
  | .codecSliceComplete core _ => codecOk core
  | .budgetExpiry core => codecOk core
  | .codecFaultLimitExpiry core => codecOk core
  | .codecCoreFence core => codecOk core
  | .codecCoreUnfence core => codecOk core
  | .codecCoreTest core => codecOk core
  | .hostCollPost client queue => clientOk client && queueOk queue
  | .hostCollOpen client queue => clientOk client && queueOk queue
  | .hostCollClose client queue => clientOk client && queueOk queue
  | .collectiveStart ctx => ctxOk ctx
  | .chunkSend ctx => ctxOk ctx
  | .dataChunk _ chunk => chunkOk chunk
  | .ackChunk _ chunk => chunkOk chunk
  | .refetch _ chunk => chunkOk chunk
  | .notice _ chunk => chunkOk chunk
  | .ackLimitExpiry ctx slot => ctxOk ctx && slotOk slot
  | .groupTimeout ctx => ctxOk ctx
  | .collectiveComplete ctx => ctxOk ctx
  | .contextTakeDown ctx => ctxOk ctx
  | .contextReturn ctx => ctxOk ctx
  | .portTrain port => portOk port
  | .trainingComplete port _ _ _ => portOk port
  | .portTakeDown port => portOk port
  | .drainLimitExpiry port => portOk port
  | .linkFault port => portOk port
  | .dataFlit port flit => portOk port && flitOk flit
  | .idleFlit port flit => portOk port && flitOk flit
  | .creditOnlyFlit port flit => portOk port && flitOk flit
  | .replayRequest port flit => portOk port && flitOk flit
  | .abortFlit port flit => portOk port && flitOk flit
  | .stallLimitExpiry port => portOk port
  | .golgerModuleIdWrite _ => true
  | .scrubBurst die _ => dieOk die
  | .mapReleaseRetry die => dieOk die
  | .mapReleaseAns mb msg => boxOk mb && msgOk 0x41 msg
  | .mapoutCopyStart die => dieOk die
  | .mapoutCommit die => dieOk die
  | .zqCalibration die _ => dieOk die
  | .timingAdjustment die pc => dieOk die && pcOk pc
  | .agingReadout _ => true
  | .telemetrySample => true
  | .supplySample _ _ _ => true
  | .junctionSample _ => true
  | .levelFall => true
  | .clockStepDown => true
  | .clockStepUp => true
  | .regulatorFault _ => true
  | .gateIdleExpiry => true
  | .wakeComplete unit _ => unitOk unit
  | .crashCopyComplete => true
  | .rearm => true
  | .hearthWdogExpiry core => hcoreOk core
  | .kick core => hcoreOk core
  | .nack => true
  | .mailboxReset => true
  | .hello mb msg => boxOk mb && msgOk 0x01 msg
  | .getInfo mb msg => boxOk mb && msgOk 0x02 msg
  | .fwStage mb msg => boxOk mb && msgOk 0x10 msg
  | .fwStageComplete _ => true
  | .fwVerify mb msg => boxOk mb && msgOk 0x11 msg
  | .fwActivate mb msg => boxOk mb && msgOk 0x12 msg
  | .activationClearExpiry => true
  | .fwCancel mb msg => boxOk mb && msgOk 0x13 msg
  | .fwCommit mb msg => boxOk mb && msgOk 0x14 msg
  | .fwStatus mb msg => boxOk mb && msgOk 0x15 msg
  | .otpRead mb msg => boxOk mb && msgOk 0x20 msg
  | .otpWriteGen mb msg => boxOk mb && msgOk 0x21 msg
  | .otpRevoke mb msg => boxOk mb && msgOk 0x22 msg
  | .logRead mb msg => boxOk mb && msgOk 0x30 msg
  | .crashRead mb msg => boxOk mb && msgOk 0x31 msg
  | .getVersion path body => pathOk path && spdmOk 0x84 body
  | .getCapabilities path body => pathOk path && spdmOk 0xE1 body
  | .negotiateAlgorithms path body => pathOk path && spdmOk 0xE3 body
  | .getDigests path body => pathOk path && spdmOk 0x81 body
  | .getCertificate path body => pathOk path && spdmOk 0x82 body
  | .challenge path body => pathOk path && spdmOk 0x83 body
  | .getMeasurements path body => pathOk path && spdmOk 0xE0 body
  | .spdmUnsupportedRequest path body => pathOk path && otherOk body
  | .setEndpointId path _ => pathOk path
  | .activateFirmware path _ => pathOk path
  | .fence index => settOk index
  | .unfence index => settOk index
  | .selfTest _ _ _ _ => true
  | .retrain _ _ _ => true
  | .testDeferredStart => true
  | .selfTestComplete _ => true
  | .retrainComplete _ => true
  | .warmReset => true
  | .coldReset => true
  | .perst => true
  | .mrst => true
  | .pcieHotReset => true
  | .powerUp => true
  | .powerLoss => true
  | .bootStart env => envOk env
  | .refclkLoss => true
  | .bypass => true
  | .idcode => true
  | .samplePreload => true
  | .extest => true
  | .clamp => true
  | .highz => true
  | .extestPulse => true
  | .extestTrain => true
  | .reg64ShadowRead client offset => clientOk client && regOk offset
  | .registerWrite client offset _ => clientOk client && regOk offset
  | .unknownMessageType mb msg => boxOk mb && lengthOk msg
  | .hearthMemoryUncorrectable core => hcoreOk core
  | .mrstRise _ => true

end Sys2Proof
end

