-- ==== Sys2Proof/Safety.lean ====
section
/-! DEFINITION. What the statements call a command that runs, a sett that issues, a request that is taken, and a state in
good order. -/

namespace Sys2Proof.Machine

/-- The command runs: it answers a next state. -/
def runs (i : Instr) (s : State) : Prop := ∃ t, exec i s = .next t

/-- Sett `st` issues an instruction with header `h` at once: it runs, holds none back, no unit holds an
instruction of it or accesses memory for one, the array clock runs, and lane 0 of PRED is set (R54, R56, R83). -/
def issuesNow (s : State) (st : Nat) (h : Hdr) : Prop :=
  s.settIssues st = true ∧ s.arrayRuns = true ∧ (s.sett st).queue = [] ∧ (s.sett st).trace = none ∧ (s.sett st).lane0 h.pred = true

/-- The same but that lane 0 of PRED is clear (R84). -/
def suppressedNow (s : State) (st : Nat) (h : Hdr) : Prop :=
  s.settIssues st = true ∧ s.arrayRuns = true ∧ (s.sett st).queue = [] ∧ (s.sett st).trace = none ∧ (s.sett st).lane0 h.pred = false

/-- The state after sett `st` has executed an instruction of one word with effect `g` on itself: its run has issued one. -/
def issued (s : State) (st : Nat) (g : Sett → Sett) : State :=
  (markIssued st s).setSett st fun t => { g t with pc := t.pc + 8 }

/-- A sett as `issuesNow` has it, whatever PRED holds: a lane-wise instruction takes any PRED (R83). -/
def issuesAny (s : State) (st : Nat) : Prop :=
  s.settIssues st = true ∧ s.arrayRuns = true ∧ (s.sett st).queue = [] ∧ (s.sett st).trace = none

/-- The entry of instruction `ins` in the queue of unit `q`; what it binds it binds when its unit comes to it. -/
def entryOf (s : State) (st : Nat) (q : UnitId) (ins : Instr) (state : EntrySt) : QEntry :=
  { seq := (s.sett st).nextSeq, unit := q, instr := ins, st := state, prog := 0
    aux := if state = .queued then [] else boundAux s st ins, kept := [] }

/-- Sett `st` has accepted an instruction of `len` bytes for unit `q`, whose queue it enters (R54). -/
def accepted (s : State) (st : Nat) (q : UnitId) (ins : Instr) (len : W64) : State :=
  (markIssued st s).setSett st fun t => { t with pc := t.pc + len, nextSeq := t.nextSeq + 1, queue := [entryOf s st q ins .queued] }

/-- The state after unit `q` of sett `st` has executed an instruction with effect `g` on the sett alone: the entry
stands executed until INSTRUCTION_COMPLETE. -/
def executed (s : State) (st : Nat) (q : UnitId) (ins : Instr) (g : Sett → Sett) : State :=
  (markIssued st s).setSett st fun t =>
    { g t with pc := t.pc + 8, nextSeq := t.nextSeq + 1
               queue := [{ entryOf s st q ins .done with aux := [] }] }

/-- No scratch word of the sett has an uncorrectable error and no ledger's parity is broken (R45). -/
def Sett.sound (t : Sett) : Prop := t.badWords = [] ∧ ∀ e ∈ t.banks, e.2.parity = []

/-- Sett `t'` with the issue bookkeeping of `t`. -/
def Sett.asBefore (t' t : Sett) : Sett := { t' with pc := t.pc, nextSeq := t.nextSeq, queue := t.queue, phase := t.phase }

/-- The state in which unit `q` of sett `st`, whose queues are empty, starts the instruction that it has just accepted. -/
def started (s : State) (st : Nat) (q : UnitId) (ins : Instr) (len : W64) : State :=
  withTrace st (entryOf s st q ins .queued) (accepted s st q ins len)

/-- The state after an instruction whose effect ran to its end and left `s2`: destinations that overlap a source otherwise than
in place hold free values (R94), and the entry stands executed until INSTRUCTION_COMPLETE. -/
def settled (s : State) (st : Nat) (ins : Instr) (s2 : State) : State :=
  (endTrace st (clobber st (destsOf (s.sett st) ins) s2)).setSett st fun t =>
    t.setEntryOf (s.sett st).nextSeq fun e => { e with st := .done, prog := 0, aux := boundAux s st ins, kept := [] }

/-- Unit `q` of sett `st` executes `ins` of `len` bytes to its end on state `s`: the effect that the opcode's meaning gives runs
to its end, the command answers the next state `s'` that it leaves, the entry stands executed in the unit's queue, no other
sett changes, and `s'` and the sett in it satisfy `p`. -/
def completesAs (ins : Instr) (st : Nat) (q : UnitId) (len : W64) (s : State) (p : State → Sett → Prop) : Prop :=
  ∃ s2, unitEffect st (s.sett st).nextSeq 0 (boundAux s st ins) ins (started s st q ins len) = .done s2 ∧
    exec ins s = .next (settled s st ins s2) ∧
    let s' := settled s st ins s2
    let t := s'.sett st
    t.pc = (s.sett st).pc + len ∧ t.nextSeq = (s.sett st).nextSeq + 1 ∧ t.queue = [entryOf s st q ins .done] ∧
    t.phase = issuePhase (s.settMode st) (s.sett st).phase ∧ (∀ j, j ≠ st → s'.sett j = s.sett j) ∧ p s' t

/-- The same, and nothing outside the sett has changed but the mark of its run that it issues and the count of free values
drawn. -/
def completesIn (ins : Instr) (st : Nat) (q : UnitId) (len : W64) (s : State) (p : Sett → Prop) : Prop :=
  completesAs ins st q len s fun s' t => (∃ n, s' = { (markIssued st s).setSett st (fun _ => t) with fresh := n }) ∧ p t

/-- Entry `seq` of sett `st` now stands as `x`, with a fresh progress record. -/
def marked (st seq : Nat) (x : EntrySt) (s : State) : State :=
  s.setSett st fun t => t.setEntryOf seq fun e => { e with st := x, prog := 0, aux := [], kept := [] }

/-- Burst `b` stands in its Lintel line as data: its sectors are valid, not poisoned, and no word of it has an error. -/
def cached (s : State) (b : Nat) : Prop :=
  let l := s.line (b / 256)
  l.valid &&& sectorMask b = sectorMask b ∧ l.poison &&& sectorMask b = 0 ∧ l.hard.any (inBurst b) = false ∧
    l.soft.any (inBurst b) = false

/-- Sett `i` reaches address `va` of an object of its run through its TLB, for any kind of access, at canonical address `ca`;
the object is not pinned in the Lintel cache and not of class STREAM. -/
def mapsTo (s : State) (i va ca : Nat) : Prop :=
  let ag := settAg s i
  bit (s.client ag.client).root.toNat 0 = true ∧
  ∃ o, findObject (ag.objs.getD []) va = some o ∧ objTier o ≠ 2 ∧ objTier o ≠ 3 ∧ objPin o ≠ 2 ∧ objSclass o ≠ 1 ∧
    ∀ k, ∃ e, tlbFind ag (some o) k va (s.tlb ag.engine) = some (e, .dev ca)

/-- Accesses of sett `i` to `len` bytes at `va` find them at `ca` at once: the TLB maps the address and the Lintel cache
holds the bytes good. -/
def hitsAt (s : State) (i va ca len : Nat) : Prop := mapsTo s i va ca ∧ ∀ b ∈ burstsOf ca len, cached s b

/-- The same of every byte from `lo` up to `hi`, each `off` beyond its address. -/
def hitsIn (s : State) (i lo hi off : Nat) : Prop :=
  off % 65536 = 0 ∧ ∀ va, lo ≤ va → va < hi → hitsAt s i va (va + off) 1

/-- The memory's maps are canonical: addresses strictly rising, no entry equal to what an unlisted one reads as. -/
def Mem.wf (m : Mem) : Bool :=
  SMap.wf 0 m.dev && SMap.wf none m.host && SMap.wf [] m.errs && SMap.wf [] m.stuck && SMap.wf false m.groupCrc
    && SMap.wf [] m.link && SMap.wf Line.none m.lines && SMap.wf none m.hostEnd

/-! ## What operands hold and what an instruction leaves there

The results of the sett's instructions are stated on a view of the state: the sett, and device memory by the virtual addresses
through which the sett reaches it. Reading and writing an operand of a view knows no check bits, no cache and no fault. -/

/-- A sett, and the bytes of device memory that it reaches, by virtual address. -/
structure View where
  sett : Sett
  dev : Nat → Byte

/-- The view of sett `i`, which reaches a canonical address at `off` below it. -/
def viewOf (s : State) (i off : Nat) : View := ⟨s.sett i, fun va => s.devByte (va + off)⟩

def View.on (v : View) (f : Sett → Sett) : View := { v with sett := f v.sett }
def View.flag (v : View) (fl : Fl) : View := v.on fun t => t.flag fl
/-- EMPTY where one of these registers names no scratch operand (R577). -/
def View.flagEmpty (v : View) (rs : List (BitVec 4)) : View := if rs.any (isMemOp v.sett) then v.flag flEmpty else v
/-- `n` bytes of memory at `va`. -/
def View.mem (v : View) (va n : Nat) : List Byte := (iota va n).map v.dev
/-- A 64-bit word of memory. -/
def View.word (v : View) (va : Nat) : Nat := leNat (v.mem va 8)
def View.poke (v : View) (a : Nat) (bs : List Byte) : View :=
  { v with dev := fun x => if a ≤ x ∧ x < a + bs.length then bs.getD (x - a) 0 else v.dev x }

/-- The byte at position `x` of an operand; none outside the region of a scratch operand (R93). -/
def Tens.byteIn (t : Tens) (v : View) (x : Nat) : Option Byte :=
  if t.mem then some (v.dev x) else if t.lo ≤ x ∧ x < t.hi then some (SMap.get 0 v.sett.scratch x) else none

def Tens.bytesIn (t : Tens) (v : View) (a n : Nat) : List (Option Byte) := (iota a n).map (t.byteIn v)

/-- The scale byte of a block; 0x7F outside the region (R93). -/
def Tens.scaleIn (t : Tens) (v : View) (p : BlockAt) : Nat :=
  if t.fmt.narrow then ((t.byteIn v (t.scaleAddr p)).map BitVec.toNat).getD 0x7F else 0x7F

/-- Codes and scale of the valid elements of a block. -/
def Tens.blockIn (t : Tens) (v : View) (p : BlockAt) : List (Option Nat) × Nat :=
  let n := t.blockValid p
  if n = 0 then ([], 0x7F)
  else (unpack t.fmt.bits (t.bytesIn v (t.base + t.blockOff p) (ceilDiv (n * t.fmt.bits) 8)) n, t.scaleIn v p)

/-- Code and scale of one element; none where it is not valid. -/
def Tens.elemIn (t : Tens) (v : View) (c : Nat × Nat × Nat × Nat) : Option (Option Nat × Nat) :=
  if c.1 < t.valid 0 ∧ t.rowValid c.2.1 c.2.2.1 c.2.2.2 then
    let p : BlockAt := ⟨c.2.1, c.2.2.1, c.2.2.2, c.1 / 32⟩
    let bo := c.1 % 32 * t.fmt.bits
    let bs := t.bytesIn v (t.base + t.blockOff p + bo / 8) ((bo + t.fmt.bits - 1) / 8 - bo / 8 + 1)
    some (if bs.all (·.isSome) then some (leNat (bs.map fun b => b.getD 0) / 2 ^ (bo % 8) % 2 ^ t.fmt.bits) else none, t.scaleIn v p)
  else none

/-- The code of an element as a word; 0 where there is none. -/
def Tens.wordIn (t : Tens) (v : View) (c : Nat × Nat × Nat × Nat) : Nat :=
  match t.elemIn v c with
  | some (some x, _) => x
  | _ => 0

/-- The value of one element; none outside the valid region or the descriptor's region (R92, R93). -/
def Tens.optIn (t : Tens) (v : View) (c : Nat × Nat × Nat × Nat) : Option Val :=
  match t.elemIn v c with
  | some (some x, sc) => some (t.fmt.value sc x)
  | _ => none

/-- The values of a row's valid elements. -/
def Tens.rowOptIn (t : Tens) (v : View) (c : Nat × Nat × Nat) : List (Option Val) :=
  (List.range (ceilDiv (t.valid 0) 32)).flatMap fun b => blockOpts t.fmt (t.blockIn v ⟨c.1, c.2.1, c.2.2, b⟩)
def Tens.rowIn (t : Tens) (v : View) (c : Nat × Nat × Nat) : List Val := (t.rowOptIn v c).map fun x => x.getD (.fin 0)

/-- Bytes written at position `a`: those outside the region of a scratch operand are not (R93). -/
def Tens.put (t : Tens) (a : Nat) (bs : List Byte) (v : View) : View :=
  if t.mem then v.poke a bs
  else
    let one := fun (m : SMap Byte) (e : Nat × Byte) => if t.lo ≤ e.1 ∧ e.1 < t.hi then SMap.set 0 m e.1 e.2 else m
    v.on fun x => { x with scratch := ((iota a bs.length).zip bs).foldl one x.scratch }

/-- The valid prefix of a block written, and the scale byte of a narrow one; an element not wholly inside the region is not
(R93, R133, R271). -/
def Tens.putBlock (t : Tens) (p : BlockAt) (codes : List Nat) (scale : Nat) (v : View) : View :=
  if t.blockValid p = 0 then v
  else
    let v1 := t.put (t.base + t.blockOff p) (pack t.fmt.bits (codes.take (t.insideCount p))) v
    if t.fmt.narrow then t.put (t.scaleAddr p) [BitVec.ofNat 8 scale] v1 else v1

/-- One element of a wide format written, where it is valid and inside the region. -/
def Tens.putWide (t : Tens) (c : Nat × Nat × Nat × Nat) (code : Nat) (v : View) : View :=
  if c.1 < t.valid 0 ∧ t.rowValid c.2.1 c.2.2.1 c.2.2.2 ∧ (t.mem ∨ t.elemAddr c + t.fmt.bits / 8 ≤ t.hi) then
    t.put (t.elemAddr c) (leBytes code (t.fmt.bits / 8)) v
  else v

/-- Values from the start of a block converted from format `src` and written; the rest of a narrow block keeps its values and
is narrowed with them (R180). -/
def Tens.putPrefix (t : Tens) (src : Fmt) (p : BlockAt) (vs : List Val) (v : View) : View :=
  let mine := vs.take (t.blockValid p)
  if mine.isEmpty then v
  else
    let w := convertBlock src t.fmt (if mine.length = t.blockValid p ∨ !t.fmt.narrow then mine
      else mine ++ (blockVals t.fmt (t.blockIn v p)).drop mine.length)
    (t.putBlock p w.codes w.scale v).flag w.flags

/-- Values of a row from its first element on written block by block. -/
def Tens.putRow (t : Tens) (src : Fmt) (c : Nat × Nat × Nat) (n : Nat) (vs : List Val) (v : View) : View :=
  (List.range n).foldl (fun v b => t.putPrefix src ⟨c.1, c.2.1, c.2.2, b⟩ ((vs.drop (32 * b)).take 32) v) v

/-- Sett `st` and memory stand in `s'` as the view `v` has them, but for the issue bookkeeping and the counts and marks of
corrected words; nothing else of memory has changed since `s`. -/
def leaves (s s' : State) (st off : Nat) (v : View) : Prop :=
  let t' := s'.sett st
  t'.asBefore (s.sett st) = { v.sett with softWords := t'.softWords, eccCnt := t'.eccCnt } ∧ s'.mem.host = s.mem.host ∧
    (∀ va, s'.devByte (va + off) = v.dev va) ∧ ∀ c, c < off → s'.devByte c = s.devByte c

/-- No destination of the instruction overlaps a source otherwise than in place (R94). -/
def apart (t : Sett) (ins : Instr) : Prop := ∀ d ∈ destsOf t ins, ∀ x ∈ d.2, d.1.clashes x = false

/-- Unit `q` of sett `st` executes `ins` of `len` bytes to its end and leaves the view that `g` makes of what it found. -/
def does (ins : Instr) (st : Nat) (q : UnitId) (len : W64) (s : State) (off : Nat) (g : View → View) : Prop :=
  apart (s.sett st) ins → completesAs ins st q len s fun s' _ => leaves s s' st off (g (viewOf s st off))

/-- Every byte of these operands that lies in memory is reached at once, `off` beyond its address, and no object of the run is
tiled where one lies there. -/
def reaches (s : State) (st lo hi off : Nat) (l : List Tens) : Prop :=
  s.mem.wf = true ∧ hitsIn s st lo hi off ∧
    ∀ t ∈ l, t.mem = true → tiledObjs s = [] ∧ ∀ e ∈ t.storeRanges, lo ≤ e.1 ∧ e.1 + e.2 ≤ hi

/-! Transfers and scans (R99, R134, R135, R147, R155, R168, R578) -/

/-- What a transfer makes of a block for `n` elements of the destination. -/
def transferred (src dst : Fmt) (n : Nat) (r : List (Option Nat) × Nat) : Narrowed :=
  if src = dst then
    { scale := r.2, codes := ((r.1.map fun c : Option Nat => c.getD 0) ++ List.replicate n 0).take n, flags := flNone, clips := 0, qsheds := 0, ratio := 0 }
  else convertBlock src dst (padVals (blockVals src r) n)

/-- Block `k` of `dst` from the same place of `src`, measured into `slot` where it is narrowed. -/
def moved (slot : Option Nat) (src dst : Tens) (v : View) (k : Nat) : View :=
  let p := dst.blockAt k
  let w := transferred src.fmt dst.fmt (dst.blockValid p) (src.blockIn v p)
  let v1 := (dst.putBlock p w.codes w.scale v).flag w.flags
  match slot with
  | some n => if dst.fmt.narrow ∧ src.fmt ≠ dst.fmt then v1.on fun t => t.setSlot n fun x => x.addBlock w else v1
  | none => v1

def transfer (slot : Option Nat) (src dst : Tens) (v : View) : View := (List.range dst.blockCount).foldl (moved slot src dst) v

/-- STR.COPY of a block: codes and scale of the elements valid on both sides, the others of AD kept. -/
def copied (src dst : Tens) (v : View) (k : Nat) : View :=
  let p := src.blockAt k
  let n := min (src.blockValid p) (dst.blockValid p)
  let codes := fun (t : Tens) => (t.blockIn v p).1.map fun c : Option Nat => c.getD 0
  let cs := (codes src).take n
  let sc := (src.blockIn v p).2
  if n = 0 then v
  else if n = dst.blockValid p ∨ !dst.fmt.narrow then dst.putBlock p cs sc v
  else dst.put (dst.scaleAddr p) [BitVec.ofNat 8 sc] (dst.put (dst.base + dst.blockOff p)
    ((pack dst.fmt.bits (cs ++ (codes dst).drop n)).take (ceilDiv (n * dst.fmt.bits) 8)) v)

/-- The row of `src` that STR.GATHER names for row `j` of its destination: beyond every row for a bad index. -/
def gatherRow (src idx : Tens) (v : View) (j : Nat) : Nat × Nat × Nat :=
  match if (idx.fmt = .u32 ∨ idx.fmt = .i32) ∧ j < idx.validCount then idx.elemIn v (idx.validAt j) else none with
  | some (some r, _) => if r < src.ext 1 * src.ext 2 * src.ext 3 then rowCoords (src.ext 1) (src.ext 2) r else (src.ext 1, 0, 0)
  | _ => (src.ext 1, 0, 0)

/-- Block `k` of a gather, read from the view `r` (in place, the one before the first block is written). -/
def gathered (src idx dst : Tens) (r v : View) (k : Nat) : View :=
  let p := dst.blockAt k
  let c := gatherRow src idx r (k / ceilDiv (dst.valid 0) 32)
  let w := transferred src.fmt dst.fmt (dst.blockValid p) (src.blockIn r ⟨c.1, c.2.1, c.2.2, p.b⟩)
  (dst.putBlock p w.codes w.scale v).flag w.flags

def gather (src idx dst : Tens) (v : View) : View :=
  (List.range dst.blockCount).foldl (fun u k =>
    gathered src idx dst (if dst.sameExtent src || dst.sameExtent idx then v else u) u k) v

/-- Largest scale of an operand plus one, 0xFF excluded; of a wide format its largest exponent field, at least 1. -/
def scanned (t : Tens) (v : View) : Nat :=
  (List.range t.scanCount).foldl (fun m k =>
    let p := t.blockAt k
    max m (if t.fmt.narrow then (if t.scaleIn v p = 255 then 0 else t.scaleIn v p + 1)
      else ((t.blockIn v p).1.map fun c : Option Nat =>
        let e := c.getD 0 / (if t.fmt = .fp32 then 2 ^ 23 else 2 ^ 7) % 256
        if e = 255 then 0 else max e 1 + 1).foldl max 0)) 0

/-! Ledgers (R102, R142, R150, R151, R254) -/

/-- Row `m` of a bank receives the terms of these activations with the active plane. -/
def entered (seq lb : Nat) (acc : Bool) (m : Nat) (vs : List (Option Val)) (v : View) : View :=
  let r := rowTerms v.sett.active acc m vs (v.sett.bank lb)
  v.on fun t => (t.setBank lb r.1).termEvents seq r.2

/-- Activations of position `m` of a window, along the rows of the plane. -/
def windowRow (f : LayW) (ext : W64) (g : WinGeo) (src : Tens) (depth m : Nat) (v : View) : List (Option Val) :=
  (List.range (min (g.taps * src.valid 0) depth)).map fun r =>
    (g.at f ext m (r / src.valid 0)).bind fun p => src.optIn v (r % src.valid 0, p.1, p.2.1, p.2.2)

/-- One block of 32 ledgers converted and stored; with KEEP each leaves the residual of what was stored (R151). -/
def converted (lb : Nat) (keep : Bool) (dst : Tens) (p : BlockAt) (v : View) : View :=
  let b := v.sett.bank lb
  let n := min (dst.blockValid p) (128 - 32 * p.b)
  let at' := 128 * p.i1 + 32 * p.b
  let ls := SMap.getMany Ledger.zero b.led at' n
  let vs := ls.map (ledgerVal b.anchor)
  let w := convertBlock .fp32 dst.fmt (vs.map (·.1))
  let sc := if !dst.mem ∧ dst.hi ≤ dst.scaleAddr p then 0x7F else w.scale
  let left := (ls.zip (vs.zip ((w.codes.take (dst.insideCount p)).map (dst.fmt.value sc)))).map fun x =>
    match x.2.1.2.1, x.2.2 with
    | true, .fin q => residual b.anchor x.1 q
    | _, _ => x.1
  if n = 0 then v
  else (dst.putBlock p w.codes w.scale v).on fun t =>
    let t1 := (t.flag ((if vs.any fun x => x.2.2.1 then flInvalid else flNone) ||| (w.flags &&& flOverflow) |||
      (if dst.fmt.narrow then w.flags &&& flInvalid else flNone))).saturate (vs.filter fun x => x.2.2.2).length
    if keep then t1.setBank lb { b with led := SMap.setMany Ledger.zero b.led at' left } else t1

/-! Vectors and rows (R104, R105, R107, R181–R190, R258, R261–R266, R579) -/

/-- VEC.ST: each set lane of a wide format in turn; of a narrow one the four blocks that the lanes meet, whose clear lanes keep
their values. -/
def laneStored (dst : Tens) (b p : Nat) (x : BitVec 4096) (v : View) : View :=
  if dst.fmt.narrow then
    [0, 1, 2, 3].foldl (fun v j =>
      let e := b / 32 * 32 + 32 * j
      let c := dst.elemCoords e
      let at' : BlockAt := ⟨c.2.1, c.2.2.1, c.2.2.2, c.1 / 32⟩
      let n := if e < dst.ext 0 * dst.ext 1 * dst.ext 2 * dst.ext 3 then dst.blockValid at' else 0
      let w := dst.fmt.narrowBlock ((List.range n).map fun k =>
        some (if bit p (32 * j + k) then fp32Val (lane x (32 * j + k)) else (blockVals dst.fmt (dst.blockIn v at')).getD k (.fin 0)))
      if n = 0 then v else (dst.putBlock at' w.codes w.scale v).flag w.flags) v
  else
    (List.range 128).foldl (fun v k =>
      let r := if dst.fmt = .fp32 ∨ dst.fmt = .i32 ∨ dst.fmt = .u32 then (lane x k, flNone)
        else Fmt.convWide .fp32 dst.fmt (fp32Val (lane x k))
      if bit p k ∧ dst.elemValid (b + k) then (dst.putWide (dst.elemCoords (b + k)) r.1 v).flag r.2 else v) v

/-- A class 0x5 opcode on scratch, block by block of AA (R105, R177–R180). -/
def applied (op : FnOp) (f : LayF) (v : View) : View :=
  let t := v.sett
  let a := scrTens t (f.a.setWidth 4)
  let b := scrTens t (f.b.setWidth 4)
  let dst := scrTens t (f.d.setWidth 4)
  (List.range a.blockCount).foldl (fun v k =>
    let p := a.blockAt k
    let y := padVals (blockVals b.fmt (if op.usesB then b.blockIn v p else ([], 0x7F))) (a.blockValid p)
    let rs := ((blockVals a.fmt (a.blockIn v p)).zip y).map fun x => fnVal t.compat op x.1 x.2
    dst.putPrefix .fp32 p rs (if rs.any Val.isNan then v.flag flInvalid else v))
    (v.flagEmpty (if op.usesB then [f.a.setWidth 4, f.b.setWidth 4, f.d.setWidth 4] else [f.a.setWidth 4, f.d.setWidth 4]))

/-- A row's FP32 results stored in OFMT and then in the destination's format (R187). -/
def rowStored (ofmt : Fmt) (dst : Tens) (c : Nat × Nat × Nat) (ys : List Val) (v : View) : View :=
  (List.range (ceilDiv (dst.valid 0) 32)).foldl (fun v b =>
    let p : BlockAt := ⟨c.1, c.2.1, c.2.2, b⟩
    let mine := (ys.drop (32 * b)).take (dst.blockValid p)
    let w := convertBlock .fp32 ofmt mine
    let v1 := v.flag (if ofmt = .fp32 then flNone else w.flags)
    if mine.isEmpty then v
    else if ofmt = dst.fmt ∧ mine.length = dst.blockValid p then dst.putBlock p w.codes w.scale v1
    else dst.putPrefix ofmt p (w.codes.map fun x => ofmt.value w.scale x) v1) v

/-- Row `k` of a class 0x6 opcode, γ and β given. -/
def rowDone (op : RowOp) (f : LayT) (a dst : Tens) (g b : List Val) (v : View) (k : Nat) : View :=
  let c := rowCoords (a.valid 1) (a.valid 2) k
  let xs := a.rowIn v c
  let r := rowOut v.sett.compat op (fp32Val ((v.sett.sreg f.sa).toNat % 2 ^ 32)) xs
    (if modAff f then some ((padVals g xs.length).map rn, (padVals b xs.length).map rn) else none)
  rowStored (if op = .stat then .fp32 else modOfmt f) dst c r.ys (v.on fun t =>
    let t1 := (t.flag r.flags).shed r.sheds
    if r.stats.isEmpty then t1
    else { t1 with statsParity := false, stats := SMap.setMany StatPair.zero [] 0 (r.stats.map fun x => ⟨x.1, x.2⟩) })

/-- A class 0x6 opcode: γ and β are rows 0 and 1 of AB; then the rows of AA in linear order. -/
def rowsDone (op : RowOp) (f : LayT) (v : View) : View :=
  let t := v.sett
  let a := scrTens t f.aa
  let ab := scrTens t f.ab
  let g := if modAff f then ab.rowIn v (0, 0, 0) else []
  let b := if modAff f ∧ op = .norm then ab.rowIn v (1, 0, 0) else []
  (List.range (if a.valid 0 = 0 then 0 else a.valid 1 * a.valid 2 * a.valid 3)).foldl (rowDone op f a (scrTens t f.ad) g b)
    (v.flagEmpty (if modAff f then [f.aa, f.ad, f.ab] else [f.aa, f.ad]))

/-- WIN.POOL: every window is read before the first value is stored. -/
def pooled (f : LayW) (ext : W64) (g : WinGeo) (src dst : Tens) (v : View) : View :=
  let row := fun m => (List.range (src.valid 0)).map fun c => poolVal f.pk.toNat
    (((List.range g.taps).filterMap fun j => g.at f ext m j).map fun p => src.optIn v (c, p.1, p.2.1, p.2.2))
  (List.range g.positions).foldl (fun u m =>
    let ox := g.out.getD 0 1
    let oy := g.out.getD 1 1
    dst.putRow .fp32 (m % ox, m / ox % oy, m / ox / oy) (ceilDiv (dst.valid 0) 32) (row m)
      (if (row m).any Val.isNan then u.flag flInvalid else u)) v

/-- Values that a transform or a product rounds, with the flags of all, stored in a row. -/
def rounded (dst : Tens) (c : Nat × Nat × Nat) (n : Nat) (ys : List (Val × Val)) (v : View) : View :=
  let out := ys.flatMap fun y => [rnFlag y.1, rnFlag y.2]
  dst.putRow .fp32 c n (out.map (·.1)) (v.flag (out.foldl (fun a x => a ||| x.2) flNone))

/-- FFT.R4 (`q` 2) and FFT.R8 (`q` 3): the stages that SA names, each over every row; the twiddles are read first. -/
def transformed (q : Nat) (f : LayT) (v : View) : View :=
  let t := v.sett
  let sa := (t.sreg f.sa).toNat
  let n := 2 ^ field sa 3 0
  let aa := scrTens t f.aa
  let ad := scrTens t f.ad
  let ab := scrTens t f.ab
  let batch := aa.valid 1 * aa.valid 2 * aa.valid 3
  let w := fun m =>
    let e := if m < 4096 then ((ab.optIn v (2 * m, 0, 0, 0)).getD (.fin 0), (ab.optIn v (2 * m + 1, 0, 0, 0)).getD (.fin 0)) else (.fin 0, .fin 0)
    if bit f.md.toNat 17 then cconj e else e
  (List.range (field sa 11 8 * batch)).foldl (fun v k =>
    let c := rowCoords (aa.valid 1) (aa.valid 2) (k % batch)
    let y := pairUp n (((if k / batch = 0 then aa else ad).rowIn v c).map rn)
    rounded ad c (ceilDiv (2 * n) 32) ((List.range n).map (fftPoint n (2 ^ q) (2 ^ (field sa 7 4 + q * (k / batch))) w y)) v)
    (v.flagEmpty [f.aa, f.ab, f.ad])

/-- FFT.CMUL: row by row of AD the products of the points of AA and AB, or of the conjugates of AB's. -/
def multiplied (f : LayT) (v : View) : View :=
  let t := v.sett
  let ad := scrTens t f.ad
  (List.range (ad.valid 1 * ad.valid 2 * ad.valid 3)).foldl (fun v k =>
    let c := rowCoords (ad.valid 1) (ad.valid 2) k
    let row := fun (x : Tens) => pairUp (ceilDiv (ad.valid 0) 2) ((if x.rowValid c.1 c.2.1 c.2.2 then x.rowIn v c else []).map rn)
    rounded ad c (ceilDiv (ad.valid 0) 32) (((row (scrTens t f.aa)).zip (row (scrTens t f.ab))).map fun z =>
      cmulExact z.1 (if bit f.md.toNat 16 then cconj z.2 else z.2)) v) (v.flagEmpty [f.aa, f.ab, f.ad])

/-! Sorting (R228–R234) -/

/-- The pairs that an operand holds, at most 4,096. -/
def Tens.pairsIn (t : Tens) (v : View) : List (Nat × Nat) :=
  (List.range (min (t.validCount / 2) 4096)).map fun k => (t.wordIn v (t.validAt (2 * k)), t.wordIn v (t.validAt (2 * k + 1)))

/-- Pairs written in linear order as far as the operand has room. -/
def Tens.putPairs (t : Tens) (ps : List (Nat × Nat)) (v : View) : View :=
  ((ps.take (t.validCount / 2)).zipIdx).foldl (fun v e =>
    t.putWide (t.validAt (2 * e.2 + 1)) e.1.2 (t.putWide (t.validAt (2 * e.2)) e.1.1 v)) v

/-- SORT.PAIRS (`top` none) and SORT.TOPK: the pairs of AA in key order, as many as asked for, and in SD how many were
written. -/
def sorted (f : LayT) (top : Option Nat) (v : View) : View :=
  let t := v.sett
  let ad := scrTens t f.ad
  let v0 := v.flagEmpty [f.aa, f.ad]
  let sd := fun (n : Nat) (v : View) => v.on fun t => t.setS f.sd (BitVec.ofNat 64 n)
  if !isWordFmt (descFormat t f.aa) || !isWordFmt (descFormat t f.ad) || top == some 0 then sd 0 (v0.flag flEmpty)
  else
    let ps := (scrTens t f.aa).pairsIn v
    let out := (stableSort (fun a b : Nat × Nat => keyBefore (modKt f) (modDesc f) a.1 b.1) ps).take (top.getD ps.length)
    sd (min out.length (ad.validCount / 2)) (ad.putPairs out (if anyNanKey (modKt f) ps then v0.flag flInvalid else v0))

/-- SORT.MERGE of a sett that is the only member of its tree, its run in order: its first K pairs, and in SD how many. -/
def mergedAlone (f : LayT) (v : View) : View :=
  let t := v.sett
  let r := mergeReq t f
  let ps := if isWordFmt (descFormat t f.aa) then (scrTens t f.aa).pairsIn v else []
  let v0 := v.flagEmpty [f.aa, f.ad]
  let v1 := if anyNanKey r.kt ps then v0.flag flInvalid else v0
  if mergeMute t f then (v1.flag flEmpty).on fun t => t.setS f.sd 0
  else ((scrTens t f.ad).putPairs (ps.take r.keep) v1).on fun t => t.setS f.sd (BitVec.ofNat 64 (ps.take r.keep).length)

/-! Attention and the paged cache (R205–R217, R223) -/

/-- A partial row's record. -/
def Tens.partialIn (t : Tens) (v : View) (r : Nat) : PRow :=
  let w := fun e => t.wordIn v (e, r, 0, 0)
  ⟨kDecode (w 0), w 1, w 4 + 2 ^ 32 * w 5 + 2 ^ 64 * w 6 + 2 ^ 96 * w 7⟩

def Tens.putSum (t : Tens) (r : Nat) (k : Option Int) (sum : Nat) (v : View) : View :=
  (List.range 4).foldl (fun v j => t.putWide (4 + j, r, 0, 0) (sum / 2 ^ (32 * j) % 2 ^ 32) v) (t.putWide (0, r, 0, 0) (kEncode k) v)

/-- A row of probabilities stored in AB, and the values as stored. -/
def probsStored (ab : Tens) (r : Nat) (ps : List Val) (v : View) : View × List Val :=
  (List.range (ceilDiv (ab.valid 0) 32)).foldl (fun x b =>
    let p : BlockAt := ⟨r, 0, 0, b⟩
    let w := convertBlock .fp32 ab.fmt (padVals (ps.drop (32 * b)) (ab.blockValid p))
    if ab.blockValid p = 0 then x
    else ((ab.putBlock p w.codes w.scale x.1).flag w.flags, x.2 ++ w.codes.map fun c => ab.fmt.value w.scale c)) (v, [])

/-- One row of ATTN.STEP, with 1 for a row whose reference rises. -/
def attended (sc : Val) (aa ab ad : Tens) (r : Nat) (v : View) : View × Nat :=
  let pr := ad.partialIn v r
  let zs := (aa.rowIn v (r, 0, 0)).map fun x => limitScore (rn (sc.mul x))
  let ts := zs.map fun z => expTerm v.sett.compat (z.getD (none, flNone)).1
  let v1 := v.flag (zs.foldl (fun f z => f ||| (z.getD (none, flNone)).2) flNone)
  let kt := ts.foldl (fun m t => kMax m (t.map (·.1))) none
  let rose := match kt, pr.kref with
    | some a, some b => b2n (decide (b < a))
    | some _, none => 1
    | none, _ => 0
  if zs.any (·.isNone) then
    (if bit pr.ctrl 0 then (probsStored ab r (nanRow (ab.valid 0)) (v1.flag flInvalid)).1 else v1.flag flInvalid, rose)
  else if !bit pr.ctrl 0 then (ad.putSum r (kMax pr.kref kt) pr.sum v1, rose)
  else
    let kr := pr.kref.orElse fun _ => kt
    let x := probsStored ab r (ts.map fun t => match t with
      | some t => .fin (t.2 * pow2 (t.1 - kr.getD 0))
      | none => .fin 0) v1
    let q := sumStored pr.sum x.2
    (ad.putSum r kr q.1 (if q.2 then x.1.flag flSaturate else x.1), rose)

/-- ATTN.STEP: the rows in order, and in SD how many references rose. -/
def attendedAll (f : LayT) (v : View) : View :=
  let t := v.sett
  let aa := scrTens t f.aa
  let x := (List.range (aa.valid 1)).foldl (fun (x : View × Nat) r =>
    let y := attended (fp32Val ((t.sreg f.sa).toNat % 2 ^ 32)) aa (scrTensAs t f.ab ((Fmt.ofCode (modFmt f)).getD .bf16))
      (scrTensAs t f.ad .fp32) r x.1
    (y.1, x.2 + y.2)) (v.flagEmpty [f.aa, f.ab, f.ad], 0)
  x.1.on fun t => t.setS f.sd (BitVec.ofNat 64 x.2)

/-- ATTN.MERGE of a sett that is the only member of its tree: each partial row becomes y = O ÷ SUM, done. -/
def mergedRows (f : LayT) (v : View) : View :=
  let ad := scrTensAs v.sett f.ad .fp32
  (List.range (ad.valid 1)).foldl (fun u r =>
    let pr := ad.partialIn v r
    let ys := (List.range (ad.ext 0 - 8)).map fun j =>
      let o := fp32Val (ad.wordIn v (8 + j, r, 0, 0))
      if o.isNan then Val.nan else if pr.sum = 0 then .fin 0 else rn (o.div (.fin (mkRat pr.sum (2 ^ 88))))
    let u1 := (ys.zipIdx).foldl (fun u y => ad.putWide (8 + y.2, r, 0, 0) (fp32Code .nearest y.1) u)
      (if ys.any Val.isNan then u.flag flInvalid else u)
    let c := ad.wordIn u1 (1, r, 0, 0)
    ad.putSum r pr.kref pr.sum (ad.putWide (1, r, 0, 0) (if bit c 1 then c else c + 2) u1)) (v.flagEmpty [f.ad])

/-- KV.LOAD of head `head` of a pool block `p`: of each page that AA names the four parts of the head's block, zeros beyond the
valid tokens. -/
def pagesLoaded (f : LayT) (p : Pool) (head : Nat) (v : View) : View :=
  let idx := scrTensAs v.sett f.aa .u32
  let ad := scrTens v.sett f.ad
  let n := min (idx.valid 0 / 2) ((if ad.d = 0 then 0 else descSpan ad.d ad.fmt.bits) / p.hb)
  let words := (List.range n).map fun k => idx.wordIn v (2 * k, 0, 0, 0) + 2 ^ 32 * idx.wordIn v (2 * k + 1, 0, 0, 0)
  (List.range (4 * n)).foldl (fun u j =>
    let q := kvPart p head words ad j
    ad.put (q.2.2.1 + q.2.1) (leBytes 0 (q.2.2.2 - q.2.1)) (ad.put q.2.2.1 (u.mem q.1 q.2.1) u)) (v.flagEmpty [f.aa, f.ad])

/-- KV.SUMM: for each page and head the mean of the tokens, narrowed to FP8a. -/
def summed (f : LayT) (v : View) : View :=
  let aa := scrTens v.sett f.aa
  let ad := scrTensAs v.sett f.ad .fp8a
  (List.range (aa.valid 2 * aa.valid 3)).foldl (fun u k =>
    let hd := k % aa.valid 2
    let pg := k / aa.valid 2
    let rows := (List.range (aa.valid 1)).map fun tok => aa.rowIn u (tok, hd, pg)
    let means := (List.range (aa.valid 0)).map fun j =>
      if aa.valid 1 = 0 then Val.fin 0 else (valSum (rows.map fun r => r.getD j (.fin 0))).div (.fin (aa.valid 1))
    (List.range (ceilDiv (ad.valid 0) 32)).foldl (fun u b =>
      let p : BlockAt := ⟨hd, pg, 0, b⟩
      let w := ad.fmt.narrowBlock ((padVals (means.drop (32 * b)) (ad.blockValid p)).map some)
      if ad.blockValid p = 0 then u else (ad.putBlock p w.codes w.scale u).flag w.flags) u) (v.flagEmpty [f.aa, f.ad])

/-- The blocks of a token in the pool's format: K of every head, then V (R206). -/
def tokenBlocks (p : Pool) (aa : Tens) (c : Nat × Nat × Nat) (v : View) : List Narrowed :=
  (List.range (2 * p.heads * p.hd / 32)).map fun b =>
    transferred aa.fmt p.fmt 32 (aa.blockIn v ⟨c.1, c.2.1, c.2.2, b⟩)

/-- An atomic on a word of memory. -/
def View.atomic (v : View) (va : Nat) (g : Nat → Nat) : View := v.poke va (leBytes (g (v.word va)) 8)

/-- KV.SCATTER of one token, its position taken in a page that stands: the bytes of the token, the count of the page, the
largest scales and the length of the sequence (R205–R210). -/
def appended (p : Pool) (bs : List Narrowed) (e pos list : Nat) (v : View) : View :=
  let half := p.heads * p.hd / 32
  let v1 := v.atomic (e + 8) (fun w => w + 1)
  let v2 := (scatPieces p (locVa (v1.word list)) (pos % 64) bs).foldl (fun v x => v.poke x.1 x.2)
    (v1.flag (bs.foldl (fun f b => f ||| b.flags) flNone))
  let v3 := v2.atomic list fun w => w % 2 ^ 48 + 2 ^ 48 * max (field w 54 48) (pos % 64 + 1) + w / 2 ^ 55 * 2 ^ 55
  let v4 := v3.atomic (e + 32) fun w =>
    max (w % 256) (blocksMax p (bs.take half)) + 256 * max (field w 15 8) (blocksMax p (bs.drop half)) + w / 65536 * 65536
  v4.atomic e fun w => max w (pos + 1)

/-! Cairn tables and update records (R240, R242, R310) -/

/-- CAIRN.LOOKUP: granule by granule of 32 words the location words of the pages that AA names, and how many are unset. -/
def lookedUp (word : Nat → Nat) (aa ad : Tens) (v : View) : View × Nat :=
  let n := min aa.validCount (ad.validCount / 2)
  let page := fun (v : View) k => match aa.elemIn v (aa.validAt k) with
    | some (some c, _) => if aa.fmt = .u32 ∨ aa.fmt = .i32 then c else 65536
    | _ => 65536
  (List.range (ceilDiv n 32)).foldl (fun u g =>
    let r := if ad.sameExtent aa then v else u.1
    (granuleWords n g).foldl (fun x k =>
      let w := word (page r k)
      (ad.putWide (ad.validAt (2 * k + 1)) (w / 2 ^ 32) (ad.putWide (ad.validAt (2 * k)) (w % 2 ^ 32) x.1),
        x.2 + if w = 0 then 1 else 0)) u) (v, 0)

/-- The words that a CAIRN.FILL takes from AA. -/
def fillWords (aa : Tens) (v : View) : List W64 :=
  (List.range (aa.validCount / 2)).map fun k => fillWord (aa.wordIn v (aa.validAt (2 * k))) (aa.wordIn v (aa.validAt (2 * k + 1)))

/-- Record `k` of UPD.SWEEP, with the records applied and refused. -/
def swept (rule step : Nat) (h : Hyper) (aa ab : Tens) (x : View × Nat × Nat) (k : Nat) : View × Nat × Nat :=
  let va := aa.base + aa.ext 0 * k
  let b := x.1.mem va (aa.ext 0)
  let raw := (List.range 32).map fun j =>
    if 32 * k + j < ab.validCount then (ab.optIn x.1 (ab.validAt (32 * k + j))).getD (.fin 0) else .fin 0
  if bit (recField b 7 1) 0 ∨ recField b 0 4 = step then x
  else match updRecord rule (aa.ext 0) step h b raw with
    | .applied r ov => ((if ov then x.1.flag flOverflow else x.1).poke va r, x.2.1 + 1, x.2.2)
    | .refused ov => (if ov then x.1.flag flOverflow else x.1, x.2.1, x.2.2 + 1)
    | .skipped => x

/-- UPD.SWEEP at a step that is not 0, its operands good. -/
def sweptAll (f : LayT) (v : View) : View :=
  let t := v.sett
  let aa := tens t f.aa
  let ad := tens t f.ad
  let h := hyperOf ((List.range 7).map fun k => (ad.optIn v (ad.elemCoords k)).getD (.fin 0))
  let x := (List.range (aa.valid 1 * aa.valid 2 * aa.valid 3)).foldl
    (swept (modRule f) ((t.sreg f.sa).toNat % 2 ^ 32) h aa (tens t f.ab)) (v, 0, 0)
  x.1.on fun t => t.setS f.sd (BitVec.ofNat 64 (min x.2.1 (2 ^ 32 - 1) + 2 ^ 32 * min x.2.2 (2 ^ 32 - 1)))

/-- Level, clock step, top step and limit stand in the ranges of R525 and R527–R529: at level 0 the step is the top
step, at levels 2 and 3 it is step 8. The aging guard's rise is at most 40 mV, in steps of 5 (R535). -/
def Power.legal (p : Power) : Prop :=
  p.level ≤ 3 ∧ 8 ≤ p.fmax ∧ p.fmax ≤ 32 ∧ 8 ≤ p.step ∧ p.step ≤ p.fmax ∧ (p.level = 0 → p.step = p.fmax) ∧
  (2 ≤ p.level → p.step = 8) ∧ 800 ≤ p.limit ∧ p.limit ≤ 2400 ∧ p.railMv ≤ 40 ∧ p.railMv % 5 = 0

/-- What every step keeps: the memory's maps and the map of the setts are canonical, and clock, level and limit stand
in their ranges. -/
def State.inv (s : State) : Prop := s.mem.wf = true ∧ SMap.wf Sett.reset s.setts = true ∧ s.power.legal

/-- Request `msg` of `type`, with a payload of `n` bytes, reaches mailbox `mb` and passes the checks of R507: the mailbox is
open and serves no FW_STAGE, length and CRC agree, SEQ is new, the version is the negotiated one (HELLO takes any) and the
mailbox takes the type. -/
def goodRequest (s : State) (mb : Nat) (msg : List Byte) (type n : Nat) : Prop :=
  mailOpen s mb = true ∧ s.hearth.staging = none ∧ mailType msg = type ∧ msg.length = 16 + n ∧ recField msg 8 4 = n ∧ n ≤ 4080 ∧
  recField msg 12 4 = crc32c (msg.take 12 ++ msg.drop 16) ∧ (s.box mb).last.map (·.1) ≠ some (mailSeq msg) ∧
  (type = 1 ∨ (s.box mb).version = some (recField msg 0 1, recField msg 1 1)) ∧ typeAllowed s mb type = true

/-- The state in which a request is served: mailbox 0 holds it in its buffer and is no longer posted (R506). -/
def requested (mb : Nat) (msg : List Byte) (s : State) : State :=
  if mb = 0 then s.setHearth fun h => { h with posted := false, reqBuf := SMap.setMany 0 h.reqBuf 0 (msg.take 4096) } else s

end Sys2Proof.Machine
end

