-- ==== Sys2Proof/Certificates/Slice0/Obligations.lean ====
section
/-! DEFINITION. The statements of this row for the provers. -/

open Sys2Proof Sys2Proof.Machine

/-! The sett: the issue unit (02, 03) -/

/-- R98: each two-operand scalar opcode writes SD its value and nothing else but the pc; each comparison sets every lane
of predicate SD to its truth value; SCL.LI loads the extension word and takes two words. -/
def Obligations.ScalarClass : Prop :=
  (∀ (s : State) (st : Nat) (h : Hdr) (f : LayS), issuesNow s st h →
     let a := (s.sett st).sreg f.sa
     let b := (s.sett st).op2 f
     let n := b.toNat % 64
     let r := fun (v : W64) => Host.Outcome.next (issued s st fun t => t.setS f.sd v)
     exec (.sclAdd st h f) s = r (a + b) ∧
     exec (.sclSub st h f) s = r (a - b) ∧
     exec (.sclMul st h f) s = r (a * b) ∧
     exec (.sclDivu st h f) s = r (if b = 0 then BitVec.ofInt 64 (-1) else a / b) ∧
     exec (.sclRemu st h f) s = r (if b = 0 then a else a % b) ∧
     exec (.sclAnd st h f) s = r (a &&& b) ∧
     exec (.sclOr st h f) s = r (a ||| b) ∧
     exec (.sclXor st h f) s = r (a ^^^ b) ∧
     exec (.sclShl st h f) s = r (a <<< n) ∧
     exec (.sclShr st h f) s = r (a >>> n) ∧
     exec (.sclSra st h f) s = r (a.sshiftRight n) ∧
     exec (.sclMin st h f) s = r (if a.toInt ≤ b.toInt then a else b) ∧
     exec (.sclMax st h f) s = r (if a.toInt ≤ b.toInt then b else a) ∧
     exec (.sclMinu st h f) s = r (if a.toNat ≤ b.toNat then a else b) ∧
     exec (.sclMaxu st h f) s = r (if a.toNat ≤ b.toNat then b else a)) ∧
  (∀ (s : State) (st : Nat) (h : Hdr) (f : LayS) (ext : W64), issuesNow s st h →
     let a := (s.sett st).sreg f.sa
     let b := (s.sett st).op2 f
     let r := fun (c : Prop) [Decidable c] => Host.Outcome.next (issued s st fun t =>
       t.setP (f.sd.setWidth 3) (if c then BitVec.allOnes 128 else 0))
     exec (.sclCmpEq st h f) s = r (a = b) ∧
     exec (.sclCmpNe st h f) s = r (a ≠ b) ∧
     exec (.sclCmpLt st h f) s = r (a.toInt < b.toInt) ∧
     exec (.sclCmpLe st h f) s = r (a.toInt ≤ b.toInt) ∧
     exec (.sclCmpLtu st h f) s = r (a.toNat < b.toNat) ∧
     exec (.sclCmpLeu st h f) s = r (a.toNat ≤ b.toNat) ∧
     exec (.sclLi st h f ext) s = .next ((markIssued st s).setSett st fun t => { t.setS f.sd ext with pc := t.pc + 16 }))

/-- R59, R60, R71, R74, R97, R117–R119: CTL.BR goes to its target when lane 0 of PRED is set and falls through otherwise;
CTL.LOOP decrements SA and branches while it is not zero; CTL.END ends issue and the sett drains. SYS.NOP does nothing,
SYS.FLAGS reads the flags, SYS.CAPS a capability value. SYNC.WAIT passes once its counter has reached the value and otherwise
stalls issue with CAUSE 1; SYNC.FENCE passes with no unit at work. -/
def Obligations.ControlAndSystem : Prop :=
  (∀ (s : State) (st : Nat) (h : Hdr) (f : LayC),
     (issuesAny s st → exec (.ctlBr st h f) s = .next ((markIssued st s).setSett st fun t =>
       { t with pc := if (t.preg h.pred).getLsbD 0 then t.pc + f.off.signExtend 64 * 8 else t.pc + 8 })) ∧
     (issuesNow s st h → exec (.ctlLoop st h f) s = .next ((markIssued st s).setSett st fun t =>
       { t.setS f.sa (t.sreg f.sa - 1) with
         pc := if t.sreg f.sa - 1 = 0 then t.pc + 8 else t.pc + f.off.signExtend 64 * 8 })) ∧
     (issuesNow s st h → exec (.ctlEnd st h f) s = .next ((markIssued st s).setSett st fun t =>
       { t with pc := t.pc + 8, ended := true, phase := if t.phase = .running then .draining else t.phase }))) ∧
  (∀ (s : State) (st : Nat) (h : Hdr) (f : LayS), issuesNow s st h →
     exec (.sysNop st h f) s = .next (issued s st id) ∧
     exec (.sysFlags st h f) s = .next (issued s st fun t => t.setS f.sd (t.flags.setWidth 64)) ∧
     ∃ v : W64, exec (.sysCaps st h f) s = .next (issued s st fun t => t.setS f.sd v) ∧
       (f.imm = 0x00 → v = 3) ∧ (f.imm = 0x01 → v = 12) ∧ (f.imm = 0x02 → v = 32) ∧
       (f.imm = 0x05 → v = 4194304) ∧ (f.imm = 0x08 → v = if (s.sett st).compat then 1 else 0)) ∧
  (∀ (s : State) (st : Nat) (h : Hdr) (f : LayB), issuesNow s st h →
     let v := if f.i then f.imm.setWidth 64 else (s.sett st).sreg f.sb
     exec (.syncWait st h f) s = (if v.toNat ≤ ((s.sett st).ereg f.e).toNat then .next (issued s st id)
       else .next (s.setSett st fun t => { t with stall := some (.syncWait st h f, 1) })) ∧
     exec (.syncFence st h f) s = .next (issued s st id))

/-- R49, R90, R91, R98: DESC.SET and DESC.ADJ write the descriptor where its check passes and end the run with
0x0202 where it fails; DESC.VALID and DESC.GET write their register. -/
def Obligations.Descriptors : Prop :=
  ∀ (s : State) (st : Nat) (h : Hdr) (f : LayS), issuesNow s st h →
    let t := (markIssued st s).sett st
    let d := t.sreg (f.sa + 3) ++ t.sreg (f.sa + 2) ++ t.sreg (f.sa + 1) ++ t.sreg f.sa
    exec (.descSet st h f) s = (if descCheck t.carving t.compat d
      then .next (issued s st fun t => t.setA (f.sd.setWidth 4) (descStored d))
      else .next (failRun st 0x0202 (markIssued st s))) ∧
    exec (.descAdj st h f) s = (match effDescAdj f t with
      | some t' => .next (issued s st fun _ => t')
      | none => .next (failRun st 0x0202 (markIssued st s))) ∧
    (∀ fm, Fmt.ofCode (descFmt (t.areg (f.sd.setWidth 4))) = some fm → fm.narrow = false →
      descKind1 (t.areg (f.sd.setWidth 4)) = false →
      ∀ o : Nat, (o : Int) = descOffset (t.areg (f.sd.setWidth 4)) + (t.op2 f).toInt → o < 2 ^ 22 →
        effDescAdj f t = (let d' := descPut (t.areg (f.sd.setWidth 4)) 34 13 o
          if descCheck t.carving t.compat d' then some (t.setA (f.sd.setWidth 4) (descStored d')) else none)) ∧
    (descKind1 (t.areg (f.sd.setWidth 4)) = true → exec (.descValid st h f) s = .next (issued s st id)) ∧
    (∃ d', exec (.descValid st h f) s = .next (issued s st fun t => if descKind1 (t.areg (f.sd.setWidth 4)) then t
        else t.setA (f.sd.setWidth 4) d') ∧ ∀ k, k < 4 →
        field d'.toNat (128 + 16 * k + 15) (128 + 16 * k) =
          min (field (t.op2 f).toNat (16 * k + 15) (16 * k)) (descExt (t.areg (f.sd.setWidth 4)) k)) ∧
    exec (.descGet st h f) s = .next (issued s st fun t => t.setS f.sd
      ((t.areg (f.sa.setWidth 4)).extractLsb' (64 * (f.imm.toNat % 4)) 64))

/-- R84: an instruction whose PRED has lane 0 clear only advances the pc, over its own words (scalar, descriptor,
system and wait classes, CTL.LOOP and CTL.END). -/
def Obligations.Suppressed : Prop :=
  ∀ (s : State) (ins : Instr) (u : Use), useOf ins = some u → u.unit = none → suppressedNow s u.st u.h →
    (∀ st h f, ins ≠ .ctlBr st h f) →
    exec ins s = .next ((markIssued u.st s).setSett u.st fun t => { t with pc := t.pc + if u.ext then 16 else 8 })

/-! The sett: vector and function units (03, 04, 06) -/

/-- R83, R104, R138: the three-register vector opcodes write each lane of VD whose PRED bit is set, keep the others,
and OR the flags of the lanes they write into SETT_FLAGS. `fAdd`, `fMul`, `fFma`, `fMax` and `fMin` are the FP32
operations of R138. VEC.CMP writes the comparison of CC to the lanes of PD; VEC.RSUM the tree sum of all lanes to lane 0. -/
def Obligations.VectorUnit : Prop :=
  (∀ (s : State) (st : Nat) (h : Hdr) (f : LayV), issuesAny s st →
     let t := s.sett st
     let a := lane (t.vreg f.va)
     let b := lane (t.vreg f.vb)
     let c := lane (t.vreg f.vc)
     let on := fun i => (t.preg h.pred).getLsbD i
     let r := fun (ins : Instr) (op : Nat → Nat × Fl) => Host.Outcome.next (executed s st .vector ins fun t =>
       { t.setV f.vd (ofLanes fun i => if on i then (op i).1 else lane (t.vreg f.vd) i) with
         flags := t.flags ||| ((List.range 128).filter on).foldl (fun fl i => fl ||| (op i).2) 0 })
     exec (.vecAdd st h f) s = r (.vecAdd st h f) (fun i => fAdd (a i) (b i)) ∧
     exec (.vecSub st h f) s = r (.vecSub st h f) (fun i => fAdd (a i) (negBits (b i))) ∧
     exec (.vecMul st h f) s = r (.vecMul st h f) (fun i => fMul (a i) (b i)) ∧
     exec (.vecFma st h f) s = r (.vecFma st h f) (fun i => fFma (a i) (b i) (c i)) ∧
     exec (.vecMax st h f) s = r (.vecMax st h f) (fun i => fMax (a i) (b i)) ∧
     exec (.vecMin st h f) s = r (.vecMin st h f) (fun i => fMin (a i) (b i)) ∧
     exec (.vecAbs st h f) s = r (.vecAbs st h f) (fun i => (a i % 2 ^ 31, 0)) ∧
     exec (.vecSel st h f) s = r (.vecSel st h f) (fun i => (if (t.preg f.pd).getLsbD i then a i else b i, 0)) ∧
     exec (.vecBcast st h f) s = r (.vecBcast st h f) (fun _ => ((t.sreg f.sa).toNat % 2 ^ 32, 0)) ∧
     exec (.vecIadd st h f) s = r (.vecIadd st h f) (fun i => ((a i + b i) % 2 ^ 32, 0)) ∧
     exec (.vecPerm st h f) s = r (.vecPerm st h f) (fun i => (a (b i % 128), 0))) ∧
  (∀ (s : State) (st : Nat) (h : Hdr) (f : LayV), issuesAny s st →
     let t := s.sett st
     let a := lane (t.vreg f.va)
     let b := lane (t.vreg f.vb)
     let on := fun i => (t.preg h.pred).getLsbD i
     let sum := pairTree 7 ((List.range 128).map a)
     exec (.vecCmp st h f) s = .next (executed s st .vector (.vecCmp st h f) fun t =>
       { t.setP f.pd (ofBits fun i => if on i then (fCmp f.cc.toNat (a i) (b i)).1 else (t.preg f.pd).getLsbD i) with
         flags := t.flags ||| ((List.range 128).filter on).foldl (fun fl i => fl ||| (fCmp f.cc.toNat (a i) (b i)).2) 0 }) ∧
     exec (.vecRsum st h f) s = .next (executed s st .vector (.vecRsum st h f) fun t =>
       { t.setV f.vd (ofLanes fun i => if on i then (if i = 0 then sum.1 else 0) else lane (t.vreg f.vd) i) with
         flags := t.flags ||| if t.preg h.pred = 0 then 0 else sum.2 }))

/-- R83, R105, R178–R180: the register form of each class 0x5 opcode writes the lanes of VD whose PRED bit is set with
the opcode's value rounded to FP32 and sets INVALID for a NaN result; outside normal mode a fused gate ends the run
with 0x0201 (R72). -/
def Obligations.FunctionRegisters : Prop :=
  ∀ (s : State) (st : Nat) (h : Hdr) (f : LayF), issuesAny s st → f.m = false →
    let t := s.sett st
    let on := fun i => (t.preg h.pred).getLsbD i
    let v := fun (op : FnOp) i => fnVal t.compat op (fp32Val (lane (t.vreg f.a) i)) (fp32Val (lane (t.vreg f.b) i))
    let r := fun (ins : Instr) (op : FnOp) => Host.Outcome.next (executed s st .func ins fun t =>
      { t.setV f.d (ofLanes fun i => if on i then fp32Code .nearest (v op i) else lane (t.vreg f.d) i) with
        flags := t.flags ||| if (List.range 128).any (fun i => on i && (v op i).isNan) then flInvalid else 0 })
    exec (.fnTanh st h f) s = r (.fnTanh st h f) .tanh ∧
    exec (.fnSig st h f) s = r (.fnSig st h f) .sig ∧
    (s.settMode st = 0 → exec (.gateSig st h f) s = r (.gateSig st h f) .gateSig ∧
      exec (.gateTanh st h f) s = r (.gateTanh st h f) .gateTanh ∧
      exec (.gateSilu st h f) s = r (.gateSilu st h f) .gateSilu ∧
      exec (.gateGelu st h f) s = r (.gateGelu st h f) .gateGelu) ∧
    (s.settMode st ≠ 0 →
      exec (.gateSig st h f) s = .next (failRun st 0x0201 (accepted s st .func (.gateSig st h f) 8)) ∧
      exec (.gateTanh st h f) s = .next (failRun st 0x0201 (accepted s st .func (.gateTanh st h f) 8)) ∧
      exec (.gateSilu st h f) s = .next (failRun st 0x0201 (accepted s st .func (.gateSilu st h f) 8)) ∧
      exec (.gateGelu st h f) s = .next (failRun st 0x0201 (accepted s st .func (.gateGelu st h f) 8)))

/-! The sett: matrix, row, window, sort and the other units on scratch (03–06, 08, 10) -/

/-- R101, R102, R139–R144, R577: MMA enters row by row the products of AA's rows with the active plane, after the exchange of
planes that SWAP asks for. MMA.WLD loads the shadow plane from AB's values, rows beyond the format's depth zero, and
a plane of zeros from a kind-1 AB; LDG.ANCHOR sets the bank's anchor to SA clamped to −512 .. 511 and clears its ledgers.
MMA on a cleared bank with anchor `A` leaves in ledger (m, n), for each row m below min(VALID1, 128), the sum of the exact
products of the elements of AA's row m with column n of the active plane (after the exchange of planes that SWAP asks for),
each product truncated or clamped under `A` on its own. -/
def Obligations.MatrixUnit : Prop :=
  (∀ (s : State) (st : Nat) (h : Hdr) (f : LayT), issuesNow s st h → (s.sett st).sound →
     let t := s.sett st
     let fm := (Fmt.ofCode (modFmt f)).getD .fp8a
     completesIn (.mmaWld st h f) st .matrix 8 s (fun t' =>
       t'.asBefore t = { t with shadow := t'.shadow, flags := t'.flags, eccCnt := t'.eccCnt } ∧
       (isMemOp t f.ab = true → t'.shadow = [] ∧ t'.flags = t.flags ||| flEmpty ∧ t'.eccCnt = t.eccCnt) ∧
       (isMemOp t f.ab = false → ∀ k n, n < 128 →
         if k < fm.depth then ∃ v s', (tensAs t f.ab fm).readVal st (wldCoords (modTrn f) k n) s = .ok v s' ∧
           planeAt t'.shadow k n = v
         else planeAt t'.shadow k n = .fin 0)) ∧
     exec (.ldgAnchor st h f) s = .next (executed s st .matrix (.ldgAnchor st h f) fun t =>
       t.setBank (modLb f) ⟨max (-512) (min 511 (t.sreg f.sa).toInt), [], []⟩)) ∧
  (∀ (s : State) (st : Nat) (h : Hdr) (f : LayT) (A : Int), issuesNow s st h → (s.sett st).sound →
     isMemOp (s.sett st) f.aa = false → (s.sett st).banks = SMap.set Bank.zero [] (modLb f) ⟨A, [], []⟩ →
     let t := s.sett st
     let fm := (Fmt.ofCode (modFmt f)).getD .fp8a
     let src := tensAs t f.aa fm.actFmt
     let plane := if modSwap f then t.shadow else t.active
     completesIn (.mma st h f) st .matrix 8 s fun t' => ∀ m n, m < min (src.valid 1) 128 → n < 128 →
       ∃ vs s', src.readRowOpt st (m, 0, 0) s = .ok vs s' ∧
         ((t'.bank (modLb f)).led.get Ledger.zero (128 * m + n)) =
           (((vs.take fm.depth).zipIdx.filterMap fun e => e.1.map fun v => v.mul (planeAt plane e.2 n)).foldl (LedAcc.add A)
             LedAcc.zero).toLedger) ∧
  (∀ (s : State) (st : Nat) (h : Hdr) (f : LayT), issuesNow s st h → (s.sett st).sound →
     let t := s.sett st
     let fm := (Fmt.ofCode (modFmt f)).getD .fp8a
     let src := tensAs t f.aa fm.actFmt
     does (.mma st h f) st .matrix 8 s 0 fun v =>
       let v1 := if modSwap f then v.on fun t => { t with active := t.shadow, shadow := t.active } else v
       if isMemOp t f.aa then v1.flag flEmpty
       else (List.range (min (src.valid 1) 128)).foldl
         (fun v m => entered t.nextSeq (modLb f) (modAcc f) m ((src.rowOptIn v (m, 0, 0)).take fm.depth) v) v1)

/-- R61, R102, R150–R153, R254, R577: MMA, LDG.CVT and WIN.CONV run to their end on any operands of a sett without
memory errors. LDG.CVT converts the ledgers block by block, rows below 128, and stores their values in AD; with KEEP each ledger
is left its residual. WIN.CONV enters for each of the first 128 positions the products of its window with the plane. MMA and WIN.CONV write ledgers, the planes they exchange, flags and their counts; LDG.CVT writes
scratch, flags and counts and, only with KEEP, ledgers. A kind-1 operand leaves everything but EMPTY (and the exchange
of SWAP). -/
def Obligations.LedgerFrame : Prop :=
  ∀ (s : State) (st : Nat) (h : Hdr) (f : LayT) (g : LayW) (ext : W64), issuesNow s st h → (s.sett st).sound →
    let t := s.sett st
    completesIn (.mma st h f) st .matrix 8 s (fun t' =>
      t'.asBefore t = { t with
        banks := t'.banks, flags := t'.flags, eccCnt := t'.eccCnt, shedCnt := t'.shedCnt, satCnt := t'.satCnt
        shedLog := t'.shedLog, active := if modSwap f then t.shadow else t.active
        shadow := if modSwap f then t.active else t.shadow } ∧
      (isMemOp t f.aa = true → t'.banks = t.banks ∧ t'.flags = t.flags ||| flEmpty ∧ t'.shedCnt = t.shedCnt ∧
        t'.satCnt = t.satCnt)) ∧
    completesIn (.winConv st h g ext) st .window 16 s (fun t' =>
      t'.asBefore t = { t with
        banks := t'.banks, flags := t'.flags, eccCnt := t'.eccCnt, shedCnt := t'.shedCnt, satCnt := t'.satCnt
        shedLog := t'.shedLog, active := if g.swap then t.shadow else t.active
        shadow := if g.swap then t.active else t.shadow }) ∧
    completesIn (.ldgCvt st h f) st .conv 8 s (fun t' =>
      t'.asBefore t = { t with
        scratch := t'.scratch, softWords := t'.softWords, eccCnt := t'.eccCnt, flags := t'.flags
        satCnt := t'.satCnt, banks := t'.banks } ∧
      (modAcc f = false → t'.banks = t.banks) ∧
      (isMemOp t f.ad = true → t'.asBefore t = { t with flags := t.flags ||| flEmpty })) ∧
    (let fm := (Fmt.ofCode (modFmt f)).getD .fp32
     let dst := tensAs t f.ad fm
     let nb := ceilDiv (min (dst.valid 0) 128) 32
     does (.ldgCvt st h f) st .conv 8 s 0 fun v =>
       if isMemOp t f.ad then v.flag flEmpty
       else (List.range ((if dst.valid 2 = 0 ∨ dst.valid 3 = 0 then 0 else min (dst.valid 1) 128) * nb)).foldl
         (fun v k => converted (modLb f) (modAcc f) dst ⟨k / nb, 0, 0, k % nb⟩ v) v) ∧
    (let fm := (Fmt.ofCode g.fmt.toNat).getD .fp8a
     let geo := winGeo t g ext
     does (.winConv st h g ext) st .window 16 s 0 fun v =>
       let v1 := if g.swap then v.on fun t => { t with active := t.shadow, shadow := t.active } else v
       let v2 := v1.flagEmpty [g.aa]
       if geo.positions = 0 then v2.flag flEmpty
       else (List.range (min geo.positions 128)).foldl (fun v m =>
         entered t.nextSeq (b2n g.lb) g.acc m (windowRow g ext geo (winTens t g.aa fm.actFmt) fm.depth m v) v) v2)

/-- R107, R181–R190, R197: the row opcodes run to their end on any operands of a sett without memory errors and write scratch,
the statistics ledgers, flags and the shed count. Row by row of AA they store the results of `rowOut`, which is ROW.NORM,
ROW.RMS, ROW.SMAX or ROW.STAT of the row's values with SA's parameter and AB's γ and β, in OFMT and then in AD's format. -/
def Obligations.RowUnit : Prop :=
  ∀ (s : State) (st : Nat) (h : Hdr) (f : LayT), issuesNow s st h → (s.sett st).sound →
    let t := s.sett st
    let p := fun (t' : Sett) => t'.asBefore t = { t with
      scratch := t'.scratch, softWords := t'.softWords, eccCnt := t'.eccCnt, flags := t'.flags
      shedCnt := t'.shedCnt, stats := t'.stats, statsParity := t'.statsParity }
    completesIn (.rowNorm st h f) st .row 8 s p ∧ completesIn (.rowRms st h f) st .row 8 s p ∧
    completesIn (.rowSmax st h f) st .row 8 s
      (fun t' => p t' ∧ t'.stats = t.stats ∧ t'.statsParity = t.statsParity ∧ t'.shedCnt = t.shedCnt) ∧
    completesIn (.rowStat st h f) st .row 8 s p ∧
    does (.rowNorm st h f) st .row 8 s 0 (rowsDone .norm f) ∧ does (.rowRms st h f) st .row 8 s 0 (rowsDone .rms f) ∧
    does (.rowSmax st h f) st .row 8 s 0 (rowsDone .smax f) ∧ does (.rowStat st h f) st .row 8 s 0 (rowsDone .stat f)

/-- R61, R83, R94, R104, R105, R108, R215, R258, R261–R265, R577, R579: the opcodes whose whole effect is on scratch run to
their end on any operands of a sett without memory errors and change only scratch, flags and the correction count. VEC.ST
stores the set lanes from element SA on, WIN.POOL the largest element or the mean of each window, the transforms the points of
each stage, FFT.CMUL the products, KV.SUMM the means of the tokens, a function opcode its value of each element. VEC.LD takes
the elements from number SA on into the set lanes of VD and writes flags and the correction count beside them, from a kind-1
operand zeros; VEC.ST of a kind-1 operand sets EMPTY alone. -/
def Obligations.ScratchAndVectorMemory : Prop :=
  (∀ (s : State) (st : Nat) (h : Hdr) (f : LayT) (v : LayV) (w : LayW) (n : LayF) (ext : W64),
     issuesNow s st h → (s.sett st).sound →
     let t := s.sett st
     let p := fun (t' : Sett) => t'.asBefore t = { t with
       scratch := t'.scratch, softWords := t'.softWords, eccCnt := t'.eccCnt, flags := t'.flags }
     completesIn (.vecSt st h v) st .vector 8 s p ∧
     completesIn (.winPool st h w ext) st .window 16 s p ∧
     completesIn (.fftR4 st h f) st .vector 8 s p ∧
     completesIn (.fftR8 st h f) st .vector 8 s p ∧
     completesIn (.fftCmul st h f) st .vector 8 s p ∧
     completesIn (.kvSumm st h f) st .row 8 s p ∧
     (n.m = true →
       completesIn (.fnTanh st h n) st .func 8 s p ∧ completesIn (.fnSig st h n) st .func 8 s p ∧
       (s.settMode st = 0 → completesIn (.gateSig st h n) st .func 8 s p ∧ completesIn (.gateTanh st h n) st .func 8 s p ∧
         completesIn (.gateSilu st h n) st .func 8 s p ∧ completesIn (.gateGelu st h n) st .func 8 s p))) ∧
  (∀ (s : State) (st : Nat) (h : Hdr) (f : LayT) (w : LayW) (n : LayF) (ext : W64), issuesNow s st h → (s.sett st).sound →
     let t := s.sett st
     let fm := (Fmt.ofCode w.fmt.toNat).getD .fp32
     let g := winGeo t w ext
     does (.winPool st h w ext) st .window 16 s 0 (fun v =>
       let v1 := v.flagEmpty [w.aa, w.ad]
       if g.positions = 0 then v1.flag flEmpty else pooled w ext g (winTens t w.aa fm) (scrTensAs t w.ad fm) v1) ∧
     does (.fftR4 st h f) st .vector 8 s 0 (fun v =>
       if fftWorks 2 t f then transformed 2 f v else v.flag flEmpty) ∧
     does (.fftR8 st h f) st .vector 8 s 0 (fun v =>
       if fftWorks 3 t f then transformed 3 f v else v.flag flEmpty) ∧
     does (.fftCmul st h f) st .vector 8 s 0 (multiplied f) ∧
     does (.kvSumm st h f) st .row 8 s 0 (summed f) ∧
     (n.m = true →
       does (.fnTanh st h n) st .func 8 s 0 (applied .tanh n) ∧ does (.fnSig st h n) st .func 8 s 0 (applied .sig n) ∧
       (s.settMode st = 0 → does (.gateSig st h n) st .func 8 s 0 (applied .gateSig n) ∧
         does (.gateTanh st h n) st .func 8 s 0 (applied .gateTanh n) ∧
         does (.gateSilu st h n) st .func 8 s 0 (applied .gateSilu n) ∧
         does (.gateGelu st h n) st .func 8 s 0 (applied .gateGelu n)))) ∧
  (∀ (s : State) (st : Nat) (h : Hdr) (f : LayV), issuesAny s st → (s.sett st).sound →
     let t := s.sett st
     completesIn (.vecLd st h f) st .vector 8 s (fun t' => ∃ x,
       t'.asBefore t = { t.setV f.vd x with flags := t'.flags, eccCnt := t'.eccCnt } ∧
       ∀ i, i < 128 → (t.preg h.pred).getLsbD i = false → lane x i = lane (t.vreg f.vd) i) ∧
     (let src := tens t f.aa
      let b := (t.sreg f.sa).toNat
      isMemOp t f.aa = false →
       does (.vecLd st h f) st .vector 8 s 0 (fun v => v.on fun t => laneWise h f (fun t k =>
         ldLane src.fmt (if (t.preg h.pred).getLsbD k ∧ src.elemValid (b + k) then src.elemIn v (src.elemCoords (b + k)) else none)) t) ∧
       does (.vecSt st h f) st .vector 8 s 0 (laneStored src b (t.preg h.pred).toNat (t.vreg f.vd))) ∧
     (isMemOp t f.aa = true →
       exec (.vecLd st h f) s = .next (executed s st .vector (.vecLd st h f) fun t =>
         { t.setV f.vd (ofLanes fun i => if (t.preg h.pred).getLsbD i then 0 else lane (t.vreg f.vd) i) with
           flags := t.flags ||| flEmpty }) ∧
       exec (.vecSt st h f) s = .next (executed s st .vector (.vecSt st h f) fun t =>
         { t with flags := t.flags ||| flEmpty })))

/-- R109, R217, R229–R235: the sorting opcodes, and ATTN.STEP, write scratch, flags and SD; SORT.MERGE and ATTN.MERGE do so
at once when the sett is the only member of its tree. SORT.PAIRS and SORT.TOPK leave in SD how many pairs they wrote, the first of AA's in
key order; SORT.MERGE of a lone member in order its first K; ATTN.STEP the probabilities of each row, its reference and sum;
ATTN.MERGE of a lone member the outputs O ÷ SUM. The sort
of pairs is a permutation in which no pair strictly precedes an earlier one, and pairs with equal keys keep their order. -/
def Obligations.SortAndAttention : Prop :=
  (∀ (s : State) (st : Nat) (h : Hdr) (f : LayT), issuesNow s st h → (s.sett st).sound →
     let t := s.sett st
     let p := fun (x : W64) (t' : Sett) => t'.asBefore t = { t.setS f.sd x with
       scratch := t'.scratch, softWords := t'.softWords, eccCnt := t'.eccCnt, flags := t'.flags }
     let words := isWordFmt (descFormat t f.aa) && isWordFmt (descFormat t f.ad)
     let fits := min (min ((scrTens t f.aa).validCount / 2) 4096) ((scrTens t f.ad).validCount / 2)
     completesIn (.sortPairs st h f) st .sort 8 s (p (BitVec.ofNat 64 (if words then fits else 0))) ∧
     completesIn (.sortTopk st h f) st .sort 8 s
       (p (BitVec.ofNat 64 (if words then min (t.sreg f.sa).toNat fits else 0))) ∧
     completesIn (.attnStep st h f) st .row 8 s (fun t' => ∃ n, n ≤ (scrTens t f.aa).valid 1 ∧ p (BitVec.ofNat 64 n) t') ∧
     ((mergeReq t f).tree s st = ⟨[st], 0⟩ → completesIn (.sortMerge st h f) st .mesh 8 s (fun t' => ∃ x, p x t')) ∧
     (attnTree s st (t.sreg f.sa).toNat = ⟨[st], 0⟩ → completesIn (.attnMerge st h f) st .mesh 8 s (fun t' =>
       t'.asBefore t = { t with
         scratch := t'.scratch, softWords := t'.softWords, eccCnt := t'.eccCnt, flags := t'.flags })) ∧
     does (.sortPairs st h f) st .sort 8 s 0 (sorted f none) ∧
     does (.sortTopk st h f) st .sort 8 s 0 (sorted f (some (t.sreg f.sa).toNat)) ∧
     does (.attnStep st h f) st .row 8 s 0 (attendedAll f) ∧
     ((mergeReq t f).tree s st = ⟨[st], 0⟩ →
       inOrder (fun a b : Nat × Nat => keyBefore (modKt f) (modDesc f) a.1 b.1) ((scrTens t f.aa).pairsIn (viewOf s st 0)) = true →
       does (.sortMerge st h f) st .mesh 8 s 0 (mergedAlone f)) ∧
     (attnTree s st (t.sreg f.sa).toNat = ⟨[st], 0⟩ → does (.attnMerge st h f) st .mesh 8 s 0 (mergedRows f))) ∧
  (∀ (kt : Nat) (desc : Bool) (l : List (Nat × Nat)),
     let before := fun a b : Nat × Nat => keyBefore kt desc a.1 b.1
     (stableSort before l).Perm l ∧ (stableSort before l).Pairwise (fun a b => before b a = false) ∧
     ∀ k, let same := fun p : Nat × Nat => !keyBefore kt desc p.1 k && !keyBefore kt desc k p.1
       (stableSort before l).filter same = l.filter same)

/-- R145: N, the markers, the flag events and the counts of a ledger depend only on the terms that enter it and the
anchor: not on their order, and not on how instructions divide them (the ledger stands in the bank between two). -/
def Obligations.TermOrder : Prop :=
  ∀ (A : Int) (l : Ledger) (x y : List Val),
    let enter := fun (l : Ledger) (ts : List Val) => ts.foldl (LedAcc.add A) (LedAcc.ofLedger l)
    (x.Perm y → enter l x = enter l y) ∧
    (let a := enter l x
     let b := enter a.toLedger y
     let c := enter l (x ++ y)
     b.toLedger = c.toLedger ∧ a.sheds + b.sheds = c.sheds ∧ a.sats + b.sats = c.sats ∧ (a.invalid || b.invalid) = c.invalid)

/-- R136: in a block of finite values that are not all zero, whose scale byte stands for `x`, the T2 element of a value v is
0 where |v ÷ 2^x| is below or at one half, and ±1 with the sign of v where it is above. -/
def Obligations.TernaryRounding : Prop :=
  ∀ (vs : List (Option Val)), (∀ v, some v ∈ vs → v.isFin = true) → (∃ v, some v ∈ vs ∧ v.isZero = false) →
    let n := Fmt.t2.narrowBlock vs
    ∀ (i : Nat) (v : Rat), vs[i]? = some (some (.fin v)) →
      let w := ratAbs v * pow2 (127 - (n.scale : Int))
      ∃ c, n.codes[i]? = some c ∧
        (w < mkRat 1 2 → Fmt.t2.elemVal c = .fin 0) ∧
        (mkRat 1 2 < w → Fmt.t2.elemVal c = .fin (if v < 0 then -1 else 1)) ∧
        (w = mkRat 1 2 → Fmt.t2.elemVal c = .fin 0)

/-- R252: with P of R250 zero, WIN.CONV and WIN.POOL complete without reading AA and set EMPTY: no ledger, no element, no
count changes. SWAP exchanges WIN.CONV's planes as it does for any P (R102). -/
def Obligations.EmptyWindow : Prop :=
  ∀ (s : State) (st : Nat) (h : Hdr) (f : LayW) (ext : W64), issuesNow s st h →
    let t := s.sett st
    let out := fun d => max 0 (((winIn t f.aa d : Int) + winLo ext d + winHi ext d -
      winDil f d * ((winK ext d : Int) - 1) - 1) / (winStride f d : Int) + 1)
    out 0 * out 1 * out 2 = 0 →
      completesIn (.winConv st h f ext) st .window 16 s (fun t' => t'.asBefore t = { t with
        flags := t.flags ||| flEmpty, active := if f.swap then t.shadow else t.active
        shadow := if f.swap then t.active else t.shadow }) ∧
      completesIn (.winPool st h f ext) st .window 16 s (fun t' => t'.asBefore t = { t with flags := t.flags ||| flEmpty })

/-- R116, R155, R157, R160, R161, R168, R169, R171–R174: ESC.CHECK reads the 64 bytes of the layer descriptor at AB (zeros for
a kind-1 AB), writes the mask of the measures that exceed its limits to SD, its truth to PD and its LAYER_ID to the slot;
ESC.PIN pins the slot; ESC.CLR clears it and takes it to its base step unless it is pinned; QNT.CVT writes scratch, flags and
the slot that it measures into: AA's blocks in AD's format, a block more for each block of a narrow AD, none where AD is not
narrow or has AA's format.
ESC.MARK moves the slot to its next wider step, or sets EXHAUSTED where there is none; on a sett that the running run executes on
Stile counts the escalation of a declared slot, and each exhaustion. -/
def Obligations.QuantiseAndEscalate : Prop :=
  (∀ (s : State) (st : Nat) (h : Hdr) (f : LayT), issuesNow s st h → (s.sett st).sound →
     let t := s.sett st
     let n := modSlot14 f
     completesIn (.escCheck st h f) st .stream 8 s (fun t' => ∃ d : List Byte, ∃ m,
       (isMemOp t f.ab = true → d = leBytes 0 64) ∧
       (isMemOp t f.ab = false → ∃ bs s', (tens t f.ab).readBytes st (tens t f.ab).base 64 s = .ok bs s' ∧
         d = bs.map fun b => b.getD 0) ∧
       (let c := recField d 4 4
        let k := t.slot n
        m = (if bit c 1 && decide (recField d 8 8 < k.clips) then 1 else 0) + (if bit c 2 && decide (recField d 16 8 < k.qsheds) then 2 else 0)
          + (if bit c 3 && decide (recField d 32 4 < k.worst) then 4 else 0)
          + (if bit c 4 && decide (recField d 24 8 < t.lshed k t.nextSeq) then 8 else 0)) ∧
       t'.asBefore t = { ((t.setP (modPd f) (if m = 0 then 0 else BitVec.allOnes 128)).setS f.sd (BitVec.ofNat 64 m)).setSlot n
         (fun k => { k with layerId := recField d 0 4 }) with flags := t'.flags, eccCnt := t'.eccCnt }) ∧
     exec (.escPin st h f) s = .next (executed s st .stream (.escPin st h f) fun t => t.setSlot n fun k => { k with pin := true }) ∧
     exec (.escClr st h f) s = .next (executed s st .stream (.escClr st h f) fun t' => t'.setSlot n fun k =>
       { k with clips := 0, qsheds := 0, worst := 0, blocks := 0, spanSeq := t.nextSeq, step := if k.pin then k.step else k.base }) ∧
     does (.qntCvt st h f) st .stream 8 s 0 (fun v => transfer (some n) (scrTens t f.aa) (scrTens t f.ad) (v.flagEmpty [f.aa, f.ad])) ∧
     completesIn (.qntCvt st h f) st .stream 8 s (fun t' => (∀ k, k ≠ n → t'.slot k = t.slot k) ∧
       ((scrTens t f.ad).fmt.narrow = false ∨ (scrTens t f.ad).fmt = (scrTens t f.aa).fmt → t'.slots = t.slots) ∧
       ((scrTens t f.ad).fmt.narrow = true → (scrTens t f.ad).fmt ≠ (scrTens t f.aa).fmt →
         (t'.slot n).blocks = min (2 ^ 64 - 1) ((t.slot n).blocks + (scrTens t f.ad).blockCount) ∨
           2 ^ 64 - 1 < (t.slot n).blocks) ∧
       t'.asBefore t = { t with
         slots := t'.slots, scratch := t'.scratch, softWords := t'.softWords, eccCnt := t'.eccCnt, flags := t'.flags })) ∧
  (∀ (s : State) (st : Nat) (h : Hdr) (f : LayT), issuesNow s st h →
     let t := s.sett st
     let n := modSlot14 f
     let k := t.slot n
     let e := s.stile.esc
     (∀ x, k.next = some x → ∃ s', exec (.escMark st h f) s = .next s' ∧
       (s'.sett st).queue = [entryOf s st .stream (.escMark st h f) .done] ∧ (s'.sett st).pc = t.pc + 8 ∧
       (s'.sett st).asBefore t = { (t.setSlot n fun k => { k with
           clips := 0, qsheds := 0, worst := 0, blocks := 0, step := x, spanSeq := t.nextSeq }).setS f.sd (BitVec.ofNat 64 x) with
           flags := t.flags ||| flMarked } ∧
       s'.stile.esc = (if k.declared ∧ s.runsOn st then { e with
         cnt := satAdd e.cnt 1, beyond := e.beyond || (decide (e.budget ≠ 0) && decide (e.budget.toNat < (satAdd e.cnt 1).toNat))
         widest := if e.widest = 15 then x else max e.widest x } else e)) ∧
     (k.next = none → ∃ s', exec (.escMark st h f) s = .next s' ∧
       (s'.sett st).queue = [entryOf s st .stream (.escMark st h f) .done] ∧ (s'.sett st).pc = t.pc + 8 ∧
       (s'.sett st).asBefore t = { t.setS f.sd (BitVec.ofNat 64 k.step) with
         flags := t.flags ||| flExhausted, exhOnce := t.exhOnce || s.runsOn st } ∧
       s'.stile.esc = (if s.runsOn st then { e with
         exhCnt := satAdd e.exhCnt 1, exh := true, exhStep := min e.exhStep k.step, worst := max e.worst k.worst
         exhSetts := if t.exhOnce then e.exhSetts else e.exhSetts + 1 } else e)))

/-! The sett: streams, memory, exchange (02, 03, 08–11) -/

/-- R54–R58, R63–R65, R84, R371: an instruction of a unit whose queue has room enters it and, with nothing in the sett's
queues, executes at once; the effect decides how the entry then stands: executed, waiting or paused with its progress record and
what its step under way has accessed. A full queue stalls issue with CAUSE 7. A suppressed one stands executed with no effect. -/
def Obligations.UnitExecution : Prop :=
  ∀ (s : State) (ins : Instr) (u : Use) (q : UnitId), useOf ins = some u → u.unit = some q →
    let len : W64 := if u.ext then 16 else 8
    let seq := (s.sett u.st).nextSeq
    let mark := fun (x : EntrySt) (prog : Nat) (aux : List Nat) (s : State) => (endTrace u.st s).setSett u.st fun t =>
      t.setEntryOf seq fun e => { e with st := x, prog := prog, aux := aux, kept := (s.sett u.st).accessed }
    ((if u.lanes then issuesAny s u.st else issuesNow s u.st u.h) → isPost ins = false →
      match unitEffect u.st seq 0 (boundAux s u.st ins) ins (started s u.st q ins len) with
      | .done s2 => exec ins s = .next (settled s u.st ins s2)
      | .wait k prog aux s2 => exec ins s = .next (mark (.waiting k) prog aux s2)
      | .fault prog aux cls va kind s2 => ∀ r, s2.stile.cur = some r → exec ins s = .next (settFault failRun
          (mark (.paused (faultId s2 r.client va cls (.sett u.st q))) prog aux s2) u.st q va cls kind)
      | .bad status s2 => exec ins s = .next (failRun u.st status (endTrace u.st s2))) ∧
    (suppressedNow s u.st u.h → u.lanes = false → exec ins s =
      .next ((accepted s u.st q ins len).setSett u.st fun t => t.setEntryOf seq fun e => { e with st := .done })) ∧
    (s.settIssues u.st = true → s.arrayRuns = true →
      unitDepth q ≤ ((s.sett u.st).queue.filter fun e => e.unit == q).length →
      exec ins s = .next (s.setSett u.st fun t => { t with stall := some (ins, 7) }))

/-- R61, R99, R134, R135, R147, R155, R271, R578: a transfer runs to its end wherever its operands lie, in scratch or in memory
that the sett reaches at once, and stores AA's blocks in AD's format; STR.LOAD measures with Q, STR.COPY copies what is valid on
both sides, STR.GATHER takes the rows that AB names. Between kind-0 operands nothing but scratch, flags, the correction count
and (STR.LOAD) measure slots changes. STR.SCAN leaves the anchor of its operands' largest scales in SD. STR.PREF writes no
register, flag or scratch byte; from scratch it brings nothing into the Lintel cache, from memory the burst of AA that memory
reads good, and a burst that stands there changes nothing. -/
def Obligations.StreamsInScratch : Prop :=
  ∀ (s : State) (st : Nat) (h : Hdr) (f : LayT), issuesNow s st h → (s.sett st).sound →
    let t := s.sett st
    let p := fun (t' : Sett) => t'.asBefore t = { t with
      scratch := t'.scratch, softWords := t'.softWords, eccCnt := t'.eccCnt, flags := t'.flags, slots := t'.slots }
    (isMemOp t f.aa = false → isMemOp t f.ad = false →
      completesIn (.strLoad st h f) st .stream 8 s (fun t' => p t' ∧ (modQ f = false → t'.slots = t.slots)) ∧
      completesIn (.strStore st h f) st .stream 8 s (fun t' => p t' ∧ t'.slots = t.slots) ∧
      completesIn (.strCopy st h f) st .stream 8 s (fun t' => p t' ∧ t'.slots = t.slots ∧ t'.flags = t.flags) ∧
      (isMemOp t f.ab = false →
        completesIn (.strGather st h f) st .stream 8 s (fun t' => p t' ∧ t'.slots = t.slots))) ∧
    (isMemOp t f.aa = false → isMemOp t f.ab = false →
      completesIn (.strScan st h f) st .stream 8 s (fun t' => ∃ k1 k2 ma mb s1 s2,
        scanFrom st (tens t f.aa) (tens t f.aa).scanCount 0 0 s = (k1, ma, .ok () s1) ∧
        scanFrom st (tens t f.ab) (tens t f.ab).scanCount 0 0 s = (k2, mb, .ok () s2) ∧
        t'.asBefore t = { t.setS f.sd (BitVec.ofInt 64 (if ma = 0 ∨ mb = 0 then 0
          else (ma : Int) + mb - 256 + ilog2 ((tens t f.aa).fmt.largest * (tens t f.ab).fmt.largest))) with eccCnt := t'.eccCnt })) ∧
    (isMemOp t f.aa = false → exec (.strPref st h f) s = .next (executed s st .stream (.strPref st h f) id)) ∧
    completesAs (.strPref st h f) st .stream 8 s (fun s' t' => t'.asBefore t = t ∧ s'.mem.host = s.mem.host) ∧
    (∀ va len ca b, isMemOp t f.aa = true → (tens t f.aa).storeRanges = [(va, len)] → va % 256 + len ≤ 256 → mapsTo s st va ca →
      burstsOf ca len = [b] →
      let s1 := accepted s st .stream (.strPref st h f) 8
      let k := b / 256
      (cached s b → completesAs (.strPref st h f) st .stream 8 s fun s' _ => s'.mem = s.mem) ∧
      ((s.line k).poison &&& sectorMask b = 0 → (s.line k).valid &&& sectorMask b ≠ sectorMask b → (memRead s1 b).2.2 = 0 →
        hasWay (memRead s1 b).1 k = true →
        completesAs (.strPref st h f) st .stream 8 s fun s' _ => (s'.line k).valid &&& sectorMask b = sectorMask b)) ∧
    (∀ lo hi off : Nat,
      let aa := tens t f.aa
      let ab := tens t f.ab
      let ad := tens t f.ad
      let ac := tensAs t f.ad aa.fmt
      (reaches s st lo hi off [aa, ad] →
        does (.strLoad st h f) st .stream 8 s off (transfer (if modQ f then some (modSlot16 f) else none) aa ad) ∧
        does (.strStore st h f) st .stream 8 s off (transfer none aa ad)) ∧
      (reaches s st lo hi off [aa, ac] →
        does (.strCopy st h f) st .stream 8 s off fun v => (List.range aa.blockCount).foldl (copied aa ac) v) ∧
      (reaches s st lo hi off [aa, ab, ad] → does (.strGather st h f) st .stream 8 s off (gather aa ab ad)) ∧
      (reaches s st lo hi off [aa, ab] → does (.strScan st h f) st .stream 8 s off fun v =>
        let ma := scanned aa v
        let mb := scanned ab v
        v.on fun t => t.setS f.sd (BitVec.ofInt 64 (if ma = 0 ∨ mb = 0 then 0
          else (ma : Int) + mb - 256 + ilog2 (aa.fmt.largest * ab.fmt.largest)))))

/-- R70, R112, R352: an atomic on a word that the sett's TLB maps and its slice holds good reads the word's old value and
stores the new one in one step; no other byte of memory changes. Each atomic leaves the word's old value in SD and stores its
function of it; SYNC.WAITGE passes once the word has reached its operand and otherwise registers its wait. -/
def Obligations.Lintel : Prop :=
  (∀ (s : State) (i va ca : Nat) (g : Nat → Nat), s.mem.wf = true → va % 8 = 0 → hitsAt s i va ca 8 →
     let w := leNat ((iota ca 8).map s.devByte)
     ∃ s', lintelAtomic i va g s = .ok w s' ∧ s'.setts = s.setts ∧ s'.mem.host = s.mem.host ∧ s'.mem.waits = s.mem.waits ∧
       ∀ a, s'.devByte a = if ca ≤ a ∧ a < ca + 8 then (leBytes (g w) 8).getD (a - ca) 0 else s.devByte a) ∧
  (∀ (s : State) (st ca : Nat) (h : Hdr) (f : LayB) (ext : W64), issuesNow s st h → s.mem.wf = true →
     let t := s.sett st
     let va := (t.sreg f.sa).toNat / 8 * 8
     let x := (t.opB f).toNat
     let w := leNat ((iota ca 8).map s.devByte)
     let r := fun (ins : Instr) (len : W64) (y : Nat) => hitsAt s st va ca 8 →
       ∃ s1 : State, exec ins s = .next (marked st t.nextSeq .done (s1.setSett st fun t => t.setS f.sd (BitVec.ofNat 64 w))) ∧
         s1.setts = (accepted s st .mesh ins len).setts ∧ s1.mem.host = s.mem.host ∧ s1.mem.waits = s.mem.waits ∧
         ∀ a, s1.devByte a = if ca ≤ a ∧ a < ca + 8 then (leBytes y 8).getD (a - ca) 0 else s.devByte a
     r (.wcTake st h f) 8 ((w + x) % 2 ^ 64) ∧
     r (.atomMax st h f) 8 (max w x) ∧
     r (.atomMin st h f) 8 (min w x) ∧
     r (.atomXchg st h f) 8 x ∧
     r (.atomCas st h f ext) 16 (if w = ext.toNat then x else w) ∧
     (let s1 := accepted s st .mesh (.syncWaitge st h f) 8
      hitsAt s st va ca 8 →
       (x ≤ w → exec (.syncWaitge st h f) s = .next (marked st t.nextSeq .done (dropWait ⟨ca, false, x, st⟩ s1))) ∧
       (w < x → exec (.syncWaitge st h f) s = .next (marked st t.nextSeq (.waiting .lintel) (registerWait ⟨ca, false, x, st⟩ s1)))))

/-- R113, R577: a reduction of one element combines AD's word in device memory with AA's element and stores it; no
other byte changes. A kind-0 AD or a kind-1 AA changes nothing but EMPTY. -/
def Obligations.Reductions : Prop :=
  ∀ (s : State) (st : Nat) (h : Hdr) (f : LayB), issuesNow s st h → (s.sett st).sound →
    let t := s.sett st
    let one := fun (ins : Instr) (fm : Fmt) (op : Nat → Nat → Nat × Fl) =>
      let aa := scrTensAs t f.aa fm
      let ad := tensAs t f.ad fm
      let va := ad.elemAddr (ad.validAt 0)
      ((isMemOp t f.ad = false ∨ isMemOp t f.aa = true) →
        completesIn ins st .mesh 8 s (fun t' => t'.asBefore t = { t with flags := t.flags ||| flEmpty })) ∧
      (isMemOp t f.ad = true → isMemOp t f.aa = false → min aa.validCount ad.validCount = 1 → va % 4 = 0 → s.mem.wf = true → tiledObjs s = [] →
        ∀ ca x sc s', hitsAt s st va ca 4 → aa.readElem st (aa.validAt 0) s = .ok (some (some x, sc)) s' →
        let y := op (leNat ((iota ca 4).map s.devByte)) x
        ∃ s2, exec ins s = .next s2 ∧ let t' := s2.sett st
          t'.asBefore t = { t with flags := t.flags ||| y.2, eccCnt := t'.eccCnt } ∧
          t'.queue = [entryOf s st .mesh ins .done] ∧ t'.pc = t.pc + 8 ∧ t'.nextSeq = t.nextSeq + 1 ∧
          s2.mem.host = s.mem.host ∧ s2.mem.waits = s.mem.waits ∧
          ∀ a, s2.devByte a = if ca ≤ a ∧ a < ca + 4 then (leBytes y.1 4).getD (a - ca) 0 else s.devByte a)
    one (.redAdd st h f) .i32 redAdd32 ∧ one (.redMax st h f) .fp32 redMax32

/-- R200–R214: KV.LOAD on an address range that the sett's TLB maps and its slices hold good reads its pool block and runs to
its end: a head beyond the pool's sets EMPTY alone, else the parts of the head's block of each page that AA names go to AD, zeros
beyond the valid tokens. KV.SCATTER with no row changes EMPTY alone. With one row whose list word stands and which does not begin
a page it takes its position, stores the token's K and V in its page and publishes them: the page's count, the sequence's largest
scales and its length. -/
def Obligations.PagedCache : Prop :=
  ∀ (s : State) (st : Nat) (h : Hdr) (f : LayT), issuesNow s st h → (s.sett st).sound → s.mem.wf = true →
    let t := s.sett st
    let aa := scrTens t f.aa
    let ab := scrTensAs t f.ab .u32
    let rows := if aa.valid 0 = 0 then 0 else aa.valid 1 * aa.valid 2 * aa.valid 3
    (rows = 0 → completesIn (.kvScatter st h f) st .stream 8 s (fun t' => ∃ fl, t'.asBefore t = { t with flags := fl })) ∧
    (∀ lo hi off : Nat, hitsIn s st lo hi off →
      let v := viewOf s st off
      let inside := fun (va len : Nat) => lo ≤ va ∧ va + len ≤ hi
      (let idx := scrTensAs t f.aa .u32
       let ad := scrTens t f.ad
       let va := (t.sreg f.sa).toNat
       let head := (t.sreg f.sb).toNat
       let p := poolOf (v.mem va 64)
       let n := min (idx.valid 0 / 2) ((if ad.d = 0 then 0 else descSpan ad.d ad.fmt.bits) / p.hb)
       let words := (List.range n).map fun k => idx.wordIn v (2 * k, 0, 0, 0) + 2 ^ 32 * idx.wordIn v (2 * k + 1, 0, 0, 0)
       inside va 64 →
       (p.heads ≤ head ∨ p.hb = 0 →
         completesIn (.kvLoad st h f) st .stream 8 s (fun t' => t'.asBefore t = { t with flags := t.flags ||| flEmpty })) ∧
       (head < p.heads → p.hb ≠ 0 →
         (∀ j, j < 4 * n → let q := kvPart p head words ad j; q.2.1 = 0 ∨ inside q.1 q.2.1) →
         completesIn (.kvLoad st h f) st .stream 8 s (fun t' => t'.asBefore t = { t with
           scratch := t'.scratch, softWords := t'.softWords, eccCnt := t'.eccCnt, flags := t'.flags }) ∧
         does (.kvLoad st h f) st .stream 8 s off (pagesLoaded f p head))) ∧
      (let va := (t.sreg f.sb).toNat
       let p := poolOf (v.mem va 64)
       ∀ id sc, rows = 1 → 0 < ab.validCount → ab.elemIn v (ab.validAt 0) = some (some id, sc) → tiledObjs s = [] →
       let e := (t.sreg f.sa).toNat + 64 * id
       let pos := v.word (e + 8)
       let list := v.word (e + 16) + 8 * (pos / 64)
       let page := locVa (v.word list)
       inside va 64 → inside e 64 → inside list 8 → inside page (p.heads * p.hb) → e % 64 = 0 → list % 8 = 0 →
       (list + 8 ≤ e ∨ e + 64 ≤ list) → (page + p.heads * p.hb ≤ list ∨ list + 8 ≤ page) →
       pos % 64 ≠ 0 → pos < 2 ^ 64 - 1 → pos / 64 < v.word (e + 24) % 2 ^ 32 → v.word list ≠ 0 →
       does (.kvScatter st h f) st .stream 8 s off (appended p (tokenBlocks p aa (0, 0, 0) v) e pos list)))

/-- R239–R246: CAIRN.LOOKUP leaves the epoch in SD, the location word of each page in AD, and counts each page and each that is
unset; CAIRN.FILL that nothing blocks puts AA's words at the entries from SB on in the bank that is idle, and counts each as
filled or dropped; CAIRN.FLIP advances the epoch where SB names it, no clear is due and no fill of the epoch remains. The retired
bank's clear starts once no lookup of its epoch remains; when it ends, the bank is empty. -/
def Obligations.CairnUnit : Prop :=
  (∀ (s : State) (st : Nat) (h : Hdr) (f : LayT), issuesNow s st h → (s.sett st).sound →
     let t := s.sett st
     let tb := cairnTable t f
     let c := s.cairnT tb
     let e := c.epoch.toNat
     let aa := tens t f.aa
     let ad := tens t f.ad
     let n := min aa.validCount (ad.validCount / 2)
     let holds := fun (s' : State) (m : Nat) (k : Cairn) => s'.cairn = if m = 0 then s.cairn else (s.setCairn tb fun _ => k).cairn
     (ad.fmt ≠ .u32 → exec (.cairnLookup st h f) s = .next (settled s st (.cairnLookup st h f)
       ((accepted s st .mesh (.cairnLookup st h f) 8).setSett st fun t => { t.setS f.sd c.epoch with flags := t.flags ||| flEmpty }))) ∧
     (isMemOp t f.aa = false → isMemOp t f.ad = false → ad.fmt = .u32 →
       completesAs (.cairnLookup st h f) st .mesh 8 s fun s' t' => t'.asBefore t = { t.setS f.sd c.epoch with
           scratch := t'.scratch, softWords := t'.softWords, eccCnt := t'.eccCnt } ∧ s'.mem = s.mem ∧
         ∃ z, holds s' n { c with lookupCnt := satAdd c.lookupCnt n, unsetCnt := satAdd c.unsetCnt z } ∧ z ≤ n ∧ (c.owned = false → z = n)) ∧
     (∀ lo hi off : Nat, ad.fmt = .u32 → reaches s st lo hi off [aa, ad] → apart t (.cairnLookup st h f) →
       let r := lookedUp (c.word e) aa ad (viewOf s st off)
       completesAs (.cairnLookup st h f) st .mesh 8 s fun s' _ =>
         holds s' n { c with lookupCnt := satAdd c.lookupCnt n, unsetCnt := satAdd c.unsetCnt r.2 } ∧
         leaves s s' st off (r.1.on fun t => t.setS f.sd c.epoch)) ∧
     (∀ lo hi off : Nat, let aa := tensAs t f.aa .u32
       reaches s st lo hi off [aa] → (c.owned = true → c.clearDue = false ∧ (0 < e → lookupsBound s tb (e - 1) = 0)) →
       let ws := fillWords aa (viewOf s st off)
       let base := (t.sreg f.sb).toNat
       completesAs (.cairnFill st h f) st .stream 8 s fun s' _ => leaves s s' st off (viewOf s st off) ∧
         holds s' ws.length (((iota base ws.length).zip ws).foldl (Cairn.fill e) c)) ∧
     (c.owned = false → exec (.cairnFlip st h f) s =
       .next (executed s st .mesh (.cairnFlip st h f) fun t => t.setS f.sd 0)) ∧
     (c.owned = true → c.epoch ≠ t.sreg f.sb → exec (.cairnFlip st h f) s =
       .next (executed s st .mesh (.cairnFlip st h f) fun t => t.setS f.sd c.epoch)) ∧
     (c.owned = true → c.epoch = t.sreg f.sb → c.clearDue = false → fillsBound s tb e = 0 → exec (.cairnFlip st h f) s =
       .next ((executed s st .mesh (.cairnFlip st h f) fun t => t.setS f.sd (c.epoch + 1)).setCairn tb fun k =>
         { k with epoch := c.epoch + 1, clearNeeded := true, retired := e }))) ∧
  (∀ (s : State) (tb : Nat), s.arrayRuns = true →
     let c := s.cairnT tb
     (c.clearNeeded = true → lookupsBound s tb c.retired = 0 →
       exec (.cairnClearStart tb) s = .next (s.setCairn tb fun c => { c with clearNeeded := false, clearing := true })) ∧
     ((c.clearNeeded = false ∨ lookupsBound s tb c.retired ≠ 0) → exec (.cairnClearStart tb) s = .next s) ∧
     (c.clearing = true → ∃ k : Cairn, exec (.cairnClearDone tb) s = .next (s.setCairn tb fun _ => k) ∧
       k = { c with clearing := false, entries := k.entries } ∧
       ∀ e, e ∈ k.entries ↔ e ∈ c.entries ∧ e.1 / 65536 ≠ c.retired % 2))

/-- R276–R282, R577: HALO.PUT with a credit fills the next slot of the neighbour's ring with AA's payload, cut at the slot,
and spends the credit; HALO.TAKE empties the oldest slot into AD, leaves its tag in SD and sends the credit on its way back,
on which it reaches the sender's port. Without a credit or a slot they wait. HALO.SPILL writes a ring's slot as a record to AD
and empties the slot; HALO.FILL takes a record from AA into the next slot against a credit of the neighbour. `freeSlot` and
`fillSlot` are the ring operations of R277 and R278; the padding of a record to 64 bytes is a free function of it. -/
def Obligations.HaloUnit : Prop :=
  (∀ (s : State) (st j : Nat) (h : Hdr) (f : LayT), issuesNow s st h → (s.sett st).sound → (s.sett j).sound →
     SMap.wf Sett.reset s.setts = true → j ≠ st → neighbour s st (modDir f) = some j →
     let t := s.sett st
     let u := s.sett j
     let d := modDir f
     let aa := scrTens t f.aa
     let ad := scrTens t f.ad
     let len := fun (x : Tens) => if x.valid 0 = 0 then 0
       else x.valid 1 * x.valid 2 * x.valid 3 * ceilDiv (x.valid 0 * x.fmt.bits) 8
     let issued := fun (q : UnitId) (ins : Instr) (t' : Sett) =>
       t'.queue = [entryOf s st q ins .done] ∧ t'.pc = t.pc + 8 ∧ t'.nextSeq = t.nextSeq + 1
     (0 < (t.port d).credits → ∃ t' u' es ss s', exec (.haloPut st h f) s =
         .next (((markIssued st s).setSett st fun _ => t').setSett j fun _ => u') ∧
       haloPayload st aa s = .ok (es, ss) s' ∧ issued (haloUnit d) (.haloPut st h f) t' ∧
       t'.asBefore t = { t.setPort d (fun p => { p with credits := p.credits - 1 }) with flags := t'.flags, eccCnt := t'.eccCnt } ∧
       u' = { u.setPort (oppDir d) (fun p => { p with
           slots := p.slots ++ [⟨tagWith (t.sreg f.sa).toNat (decide (p.slotBytes < es.length + ss.length)),
             min es.length (min p.slotBytes (es.length + ss.length)), min p.slotBytes (es.length + ss.length)⟩]
           nextSlot := (p.nextSlot + 1) % p.depth }) with
         scratch := u'.scratch, softWords := u'.softWords, eccCnt := u'.eccCnt }) ∧
     ((t.port d).credits = 0 → exec (.haloPut st h f) s =
       .next (marked st t.nextSeq (.waiting .haloCredit) (accepted s st (haloUnit d) (.haloPut st h f) 8))) ∧
     (∀ k rest, (t.port d).slots = k :: rest → ∃ t', exec (.haloTake st h f) s =
         .next (((markIssued st s).setSett st fun _ => t').setSett j fun u => u.setPort (oppDir d) fun p => { p with returning := p.returning + 1 }) ∧
       issued (haloUnit d) (.haloTake st h f) t' ∧
       t'.asBefore t = { (t.setS f.sd (tagWith k.tag.toNat (bit k.tag.toNat 63 || decide (len ad < min k.elen k.len) ||
             decide ((if ad.fmt.narrow then ad.blockCount else 0) < k.len - k.elen) || isMemOp t f.ad))).setPort d
             (fun p => { p with slots := rest }) with
         scratch := t'.scratch, softWords := t'.softWords, eccCnt := t'.eccCnt, flags := t'.flags }) ∧
     ((t.port d).slots = [] → exec (.haloTake st h f) s =
       .next (marked st t.nextSeq (.waiting .haloSlot) (accepted s st (haloUnit d) (.haloTake st h f) 8)))) ∧
  (∀ (s : State) (st : Nat) (h : Hdr) (f : LayT), issuesNow s st h → (s.sett st).sound →
     let t := s.sett st
     let d := modDir f
     let p := t.port d
     let aa := tens t f.aa
     let ad := tens t f.ad
     let empty := fun (ins : Instr) => exec ins s =
       .next (executed s st .stream ins fun t => { t.setS f.sd 0 with flags := t.flags ||| flEmpty })
     (isMemOp t f.ad = false ∨ p.depth = 0 → empty (.haloSpill st h f)) ∧
     (isMemOp t f.aa = false ∨ p.depth = 0 → empty (.haloFill st h f)) ∧
     (∀ k lo hi off, isMemOp t f.ad = true → p.depth ≠ 0 → tiledObjs s = [] → p.slots = [k] → s.mem.wf = true →
       SMap.wf Sett.reset s.setts = true → (∀ j, neighbour s st d = some j → j ≠ st) →
       let r := spillRecord k (SMap.getMany 0 t.scratch (p.base + p.oldest * p.slotBytes) k.len)
       r.length ≤ ad.extent → hitsIn s st lo hi off → lo ≤ ad.base → ad.base + r.length ≤ hi →
       ∃ s', exec (.haloSpill st h f) s = .next s' ∧ let t' := s'.sett st
         t'.queue = [entryOf s st .stream (.haloSpill st h f) .done] ∧ t'.pc = t.pc + 8 ∧ t'.nextSeq = t.nextSeq + 1 ∧
         leaves s s' st off (((viewOf s st off).poke ad.base r).on fun t => (t.setPort d fun p => { p with slots := [] }).setS f.sd 1) ∧
         ∀ j, j ≠ st → s'.sett j = if neighbour s st d = some j then
           (s.sett j).setPort (oppDir d) (fun p => { p with returning := p.returning + 1 }) else s.sett j) ∧
     (∀ j lo hi off, isMemOp t f.aa = true → p.depth ≠ 0 → (t.sreg f.sb).toNat = 1 → neighbour s st d = some j → j ≠ st →
       SMap.wf Sett.reset s.setts = true → ((s.sett j).port (oppDir d)).credits ≠ 0 →
       let v := viewOf s st off
       let hd := v.mem aa.base 16
       let len := recField hd 8 4
       let tag := recField hd 0 8
       let pay := (v.mem (aa.base + 16) len).take p.slotBytes
       16 + len ≤ aa.extent → hitsIn s st lo hi off → lo ≤ aa.base → aa.base + 16 + len ≤ hi →
       ∃ s', exec (.haloFill st h f) s = .next s' ∧ let t' := s'.sett st
         t'.queue = [entryOf s st .stream (.haloFill st h f) .done] ∧ t'.pc = t.pc + 8 ∧ t'.nextSeq = t.nextSeq + 1 ∧
         leaves s s' st off (v.on fun t => { (t.setPort d fun p => { p with
             slots := p.slots ++ [⟨tagWith tag (bit tag 63 || decide (p.slotBytes < len)), min (recField hd 12 4) pay.length, pay.length⟩]
             nextSlot := (p.nextSlot + 1) % p.depth }).setS f.sd 1 with
           scratch := SMap.setMany 0 t.scratch (p.base + p.nextSlot * p.slotBytes) pay }) ∧
         ∀ i, i ≠ st → s'.sett i = if i = j then
           (s.sett j).setPort (oppDir d) (fun q => { q with credits := q.credits - 1, fillFirst := false }) else s.sett i)) ∧
  (∀ (s : State) (st : Nat) (d : BitVec 2), s.arrayRuns = true → (s.sett st).queue = [] →
     (∀ j, neighbour s st d.toNat = some j → (s.sett j).queue = []) → 0 < ((s.sett st).port d.toNat).returning →
     exec (.haloCreditArrival st d) s = .next (s.setSett st fun t => t.setPort d.toNat fun p =>
       { p with returning := p.returning - 1, credits := p.credits + 1 }))

/-- R114, R434, R577: COLL.POST puts its 64-byte record, zeros from a kind-1 AA, at the end of the queue of its group's
context; with no collective under way there it waits for COLLECTIVE_START. -/
def Obligations.CollectivePost : Prop :=
  ∀ (s : State) (st : Nat) (h : Hdr) (f : LayT) (run : Run) (g : Group) (m c : Nat) (bs : List (Option Byte)),
    issuesNow s st h → (s.sett st).sound → s.stile.cur = some run →
    (s.mortar.groups.find? fun g => !g.host && g.client == run.client && g.runSeq == run.seqNo &&
      g.lgroup == ((s.sett st).sreg f.sa).toNat) = some g →
    let t := s.sett st
    let rc := (s.logicalOf st).getD (0, 0)
    ((List.range g.n).find? fun k => let e := g.entries.getD k 0
      decide (entModule e = s.golger.moduleId) && !entHost e && decide (entRow e = rc.1) && decide (entCol e = rc.2)) = some m →
    g.ctx = some c → (s.ctx c).queue.length < 64 → (s.ctx c).cur = none → (s.ctx c).ending = [] →
    s.golger.lost = [] → s.mortar.doom = none →
    (if isMemOp t f.aa then bs = List.replicate 64 none
     else ∃ s', (tens t f.aa).readBytes st (tens t f.aa).base 64 s = .ok bs s') →
    ∃ t', exec (.collPost st h f) s = .next (((markIssued st s).setSett st fun _ => t').setCtx c fun x =>
        { x with queue := x.queue ++ [⟨g.gid, m, bs.map fun b => b.getD 0, .sett run.client run.seqNo (32 * rc.1 + rc.2), 0, 0, 0⟩] }) ∧
      t'.asBefore t = { t with eccCnt := t'.eccCnt, flags := t.flags ||| (if isMemOp t f.aa then flEmpty else flNone) } ∧
      t'.queue = [entryOf s st .mesh (.collPost st h f) .done] ∧ t'.pc = t.pc + 8 ∧ t'.nextSeq = t.nextSeq + 1

/-- R306–R312: UPD.SWEEP refuses every record when an operand does not meet its conditions, does nothing at step 0, and otherwise
goes through AA's records in order: a record whose hold bit is set or whose step is this one is skipped, one that does not fit
the rule or meets a value that is not finite is refused, and the others are rewritten as `updRecord` has them. SD receives how many
were applied (low half) and refused (high half). -/
def Obligations.UpdateSweep : Prop :=
  ∀ (s : State) (st : Nat) (h : Hdr) (f : LayT), issuesNow s st h → (s.sett st).sound →
    let t := s.sett st
    let aa := tens t f.aa
    let ab := tens t f.ab
    let ad := tens t f.ad
    let n := aa.valid 1 * aa.valid 2 * aa.valid 3
    let step := (t.sreg f.sa).toNat % 2 ^ 32
    (sweepOk aa ab ad = false → exec (.updSweep st h f) s =
      .next (executed s st .stream (.updSweep st h f) fun t => t.setS f.sd (BitVec.ofNat 64 (2 ^ 32 * min n (2 ^ 32 - 1))))) ∧
    (sweepOk aa ab ad = true → step = 0 → exec (.updSweep st h f) s =
      .next (executed s st .stream (.updSweep st h f) fun t => t.setS f.sd 0)) ∧
    (∀ lo hi off : Nat, sweepOk aa ab ad = true → step ≠ 0 → reaches s st lo hi off [ab] → lo ≤ aa.base →
      aa.base + aa.ext 0 * n ≤ hi → does (.updSweep st h f) st .stream 8 s off (sweptAll f))

/-! The sett: completions and releases (02, 03, 08–10) -/

/-- R53, R54, R58, R59, R85, R370: FETCH_RETURN ends the wait for instruction words once they have come, and ends the run
where their read meets a fault class or bad memory: of a sett that misses words or runs its stream. A stalled instruction issues again once its queue has room or its counter
is reached: into a queue whose first instruction still executes it enters behind it. INSTRUCTION_COMPLETE takes the unit's
oldest executed instruction out of its queue and counts its event. -/
def Obligations.IssueReleases : Prop :=
  ∀ (s : State) (st : Nat), s.arrayRuns = true →
    let t := s.sett st
    let words := readGranule s (settAg s st) .read t.pc.toNat 8
    (fetches t = false → exec (.fetchReturn st) s = .next s) ∧
    (∀ ca, fetches t = true → t.pc.toNat % 8 = 0 → hitsAt s st t.pc.toNat ca 8 →
      ∃ s', exec (.fetchReturn st) s = .next s' ∧ s'.sett st = { t with fetchMiss := false } ∧ s'.stile = s.stile) ∧
    (∀ bs s', fetches t = true → words = .ok bs s' →
      exec (.fetchReturn st) s = .next (s'.setSett st fun t => { t with fetchMiss := false })) ∧
    (∀ c s', fetches t = true → words = .fault c s' → exec (.fetchReturn st) s = .next (fetchFault st t.pc.toNat c s') ∧
      (s'.stile.cur = none → fetchFault st t.pc.toNat c s' = failRun st (if fatalClass c then classStatus c else 0x0315) s')) ∧
    (∀ x s', fetches t = true → words = .bad x s' → exec (.fetchReturn st) s = .next (failRun st x s')) ∧
    (∀ ins u, t.stall = some (ins, 7) → useOf ins = some u →
      exec (.issueStallRelease st) s = exec ins (s.setSett st fun t => { t with stall := none })) ∧
    (∀ ins u q, t.stall = some (ins, 7) → useOf ins = some u → u.st = st → u.unit = some q →
      t.phase = .running → t.fetchMiss = false → t.ended = false → t.asleep = false → t.stage = [] →
      (t.queue.filter fun e => e.unit == q).length < unitDepth q → (∀ e ∈ t.queue, entryFree e = false ∧ e.seq < t.nextSeq) →
      (∃ e ∈ t.queue, e.unit = q ∧ e.st ≠ .done) →
      exec (.issueStallRelease st) s = .next ((markIssued st s).setSett st fun t => { t with
        stall := none, pc := t.pc + (if u.ext then 16 else 8), nextSeq := t.nextSeq + 1
        queue := t.queue ++ [{ seq := t.nextSeq, unit := q, instr := ins, st := .queued, prog := 0, aux := [], kept := [] }] })) ∧
    (∀ h f, t.stall = some (.syncWait st h f, 1) → t.phase = .running → t.fetchMiss = false → t.ended = false →
      t.asleep = false → t.stage = [] → t.queue = [] → t.lane0 h.pred = true → (t.opB f).toNat ≤ (t.ereg f.e).toNat →
      exec (.syncWaitRelease st) s = .next ((markIssued st s).setSett st fun t => { t with stall := none, pc := t.pc + 8 })) ∧
    (t.stall = none → exec (.issueStallRelease st) s = .next s ∧ exec (.syncWaitRelease st) s = .next s) ∧
    (∀ e u, t.queue = [e] → e.st = .done → useOf e.instr = some u → t.stall = none → t.phase ≠ .gated →
      exec (.instructionComplete st e.unit) s = .next (s.setSett st fun t =>
        if u.h.ev then { t with queue := [], evt := SMap.set 0 t.evt u.h.evt.toNat (satAdd (t.ereg u.h.evt) 1) }
        else { t with queue := [] })) ∧
    (∀ e q, t.queue.find? (fun e => e.unit == q) = some e → e.st ≠ .done →
      exec (.instructionComplete st q) s = .next s)

/-- R70, R102, R158, R224, R242, R243, R281, R354, R434, R529: each release lets the instruction that waits for it go on
from its progress record; where its unit then does it to the end, it stands executed. A waiting MMA, ESC.CHECK, HALO.TAKE with a
filled slot, CAIRN.FLIP and CAIRN.FILL without what they wait for, SYNC.WAITGE on a word that has reached its operand, a
SORT.MERGE whose partner has come, and a COLL.POST whose queue has room, stand executed. While the array clock stands no event of a sett or a Cairn table has an effect. -/
def Obligations.WaitReleases : Prop :=
  (∀ (s : State) (st : Nat) (e : QEntry) (u : Use), s.arrayRuns = true → (s.sett st).queue = [e] → useOf e.instr = some u →
     u.st = st → (s.sett st).trace = none → (u.lanes = true ∨ (s.sett st).lane0 u.h.pred = true) →
     let t := s.sett st
     let aux := if e.aux.isEmpty then boundAux s st e.instr else e.aux
     let past := { e with st := .done, prog := 0, aux := aux, kept := [] }
     let stands := fun (c : Instr) => ∃ s2, exec c s = .next s2 ∧ (s2.sett st).queue = [past]
     (∀ (c : Instr) (k : WaitKind), (c, k) ∈ [(.mmaSwapRelease st, .swap), (.escCheckRelease st, .escCheck), (.mergePartnerArrival st, .merge),
         (.collPostQueueRelease st, .mortar), (.cairnFillRelease st, .cairnFill), (.cairnFlipRelease st, .cairnFlip),
         (.waitResend st, .lintel)] ∨
         (∃ h f, e.instr = .haloTake st h f ∧ c = .haloSlotArrival st (BitVec.ofNat 2 (modDir f)) ∧ k = .haloSlot) →
       e.st = .waiting k → ∀ s2, unitEffect st e.seq e.prog aux e.instr (withTrace st e s) = .done s2 → (s2.sett st).queue = [e] →
       (isPost e.instr = true → s2.mortar.doom = none) →
       exec c s = .next ((endTrace st (clobber st (destsOf t e.instr) s2)).setSett st fun t => { t with queue := [past] })) ∧
     (t.sound → e.prog = 0 →
       (∀ h f, e.instr = .mma st h f → e.st = .waiting .swap → stands (.mmaSwapRelease st)) ∧
       (∀ h f, e.instr = .escCheck st h f → e.st = .waiting .escCheck → stands (.escCheckRelease st)) ∧
       (∀ h f, e.instr = .haloTake st h f → e.st = .waiting .haloSlot → (t.port (modDir f)).slots ≠ [] →
         stands (.haloSlotArrival st (BitVec.ofNat 2 (modDir f)))) ∧
       (∀ h f, e.instr = .cairnFlip st h f → e.st = .waiting .cairnFlip →
         (let c := s.cairnT (cairnTable t f)
          c.clearDue = false ∧ fillsBound s (cairnTable t f) c.epoch.toNat = 0) → stands (.cairnFlipRelease st)) ∧
       (∀ h f tb ep, e.instr = .cairnFill st h f → e.st = .waiting .cairnFill → e.aux = [tb, ep] → isMemOp t f.aa = false →
         (s.cairnT tb).clearDue = false → (0 < ep → lookupsBound s tb (ep - 1) = 0) → stands (.cairnFillRelease st)) ∧
       (∀ h f ca, e.instr = .syncWaitge st h f → e.st = .waiting .lintel →
         s.mem.wf = true → hitsAt s st ((t.sreg f.sa).toNat / 8 * 8) ca 8 →
         (t.opB f).toNat ≤ leNat ((iota ca 8).map s.devByte) → stands (.waitResend st)) ∧
       (∀ h f p x, e.instr = .sortMerge st h f → e.st = .waiting .merge → e.aux ≠ [] → p ≠ st → SMap.wf Sett.reset s.setts = true →
         (mergeReq t f).tree s st = ⟨[st, p], 0⟩ → senderEntry (s.sett p) 1 = some x → stands (.mergePartnerArrival st)) ∧
       (∀ h f run g m c, e.instr = .collPost st h f → e.st = .waiting .mortar → s.stile.cur = some run →
         (s.mortar.groups.find? fun g => !g.host && g.client == run.client && g.runSeq == run.seqNo &&
           g.lgroup == (t.sreg f.sa).toNat) = some g →
         (let rc := (s.logicalOf st).getD (0, 0)
          ((List.range g.n).find? fun k => let e := g.entries.getD k 0
            decide (entModule e = s.golger.moduleId) && !entHost e && decide (entRow e = rc.1) && decide (entCol e = rc.2)) = some m) →
         g.ctx = some c → (s.ctx c).queue.length < 64 → (s.ctx c).cur = none → (s.ctx c).ending = [] →
         s.golger.lost = [] → s.mortar.doom = none → isMemOp t f.aa = false → stands (.collPostQueueRelease st)))) ∧
  (∀ (s : State) (st : Nat) (q : UnitId) (d : BitVec 2) (ins : Instr) (u : Use), s.arrayRuns = false →
     (∀ c ∈ [.fetchReturn st, .issueStallRelease st, .instructionComplete st q, .syncWaitRelease st, .mmaSwapRelease st,
       .escCheckRelease st, .haloCreditArrival st d, .haloSlotArrival st d, .mergePartnerArrival st,
       .collPostQueueRelease st, .cairnFillRelease st, .cairnFlipRelease st, .cairnClearStart st, .cairnClearDone st,
       .waitResend st, .settComplete st], exec c s = .next s) ∧
     (useOf ins = some u → exec ins s = .next s))

/-- R71, R370, R402, R403, R405: a draining sett with empty queues completes; the last sett of the run ends it with status 0,
and an error of a run's only sett ends it with the error's. At the end of a run its setts leave off what they hold, its Lintel waits go and the array is free. A completion record is 128
bytes and each field stands at its place. -/
def Obligations.SettCompletion : Prop :=
  (∀ (s : State) (st : Nat), s.arrayRuns = true → s.settMode st = 0 → (s.sett st).phase = .draining → (s.sett st).ended = true →
     (s.sett st).queue = [] →
     let s1 := s.setSett st fun t => { t with phase := .completed, status := 0 }
     (∀ r, s.stile.cur = some r →
       ((∀ p ∈ r.placement, (s1.sett p.2).phase = .completed) → exec (.settComplete st) s = .next (endRun s1 0)) ∧
       ((∃ p ∈ r.placement, (s1.sett p.2).phase ≠ .completed) → exec (.settComplete st) s = .next s1)) ∧
     (s.stile.cur = none → exec (.settComplete st) s = .next s1)) ∧
  (∀ (s : State) (r : Run) (i l status : Nat), s.stile.cur = some r → s.settMode i = 0 → r.placement = [(l, i)] →
     failRun i status s = endRun s status) ∧
  (∀ (s : State) (r : Run) (status : Nat), s.stile.cur = some r →
     let s' := endRun s status
     s'.stile.cur = none ∧ s'.stile.array = .free ∧ s'.stile.held = 0 ∧ s'.stile.stop = false ∧ s'.stile.preempt = false ∧
     s'.mortar.doom = none ∧
     (∀ w ∈ s'.mem.waits, ∀ p ∈ r.placement, w.sett ≠ p.2) ∧
     (∀ p ∈ r.placement, (s'.sett p.2).queue = [] ∧ (s'.sett p.2).stall = none ∧
       ((s.sett p.2).phase ≠ .fenced → (s.sett p.2).phase ≠ .selfTest →
         ((s.sett p.2).asleep = false → (s'.sett p.2).phase = if status = 0 then .completed else .idle) ∧
         ((s.sett p.2).asleep = true → (r.placement.map (·.2)).Nodup → (s'.sett p.2).phase = .gated)))) ∧
  (∀ (r : Comp) (q : Nat) (ep : Bool),
     let b := r.bytes q ep
     b.length = 128 ∧ recField b 0 8 = r.tag % 2 ^ 64 ∧ recField b 8 2 = r.status % 2 ^ 16 ∧ recField b 10 1 = q % 2 ^ 8 ∧
     recField b 11 1 = r.type % 2 ^ 8 ∧ recField b 16 4 = r.run % 2 ^ 32 ∧ recField b 20 4 = b2n ep + 2 * b2n r.warn ∧
     recField b 24 8 = r.locus % 2 ^ 64 ∧ recField b 32 8 = r.wait % 2 ^ 64 ∧ recField b 40 8 = r.runt % 2 ^ 64 ∧
     recField b 48 8 = r.save % 2 ^ 64 ∧ recField b 56 4 = r.preempts % 2 ^ 32 ∧ recField b 60 4 = r.faults % 2 ^ 32 ∧
     recField b 96 8 = r.start % 2 ^ 64 ∧ recField b 104 8 = r.fin % 2 ^ 64 ∧ recField b 112 8 = r.stall % 2 ^ 64)

/-! The block -/

/-- The step takes the command at the front of the queue and runs it on the state with the queue's rest. -/
def Obligations.StepRunsFrontCommand : Prop :=
  ∀ (s : State) (c : Instr) (rest : List Instr), s.pending = c :: rest → step s = exec c { s with pending := rest }

/-- R4 and log entry 5 (the model's choice): with no command waiting one tick of the always-on counter passes. With the rails
on and no pseudo-channel to be marked it moves that counter, Stile's accounts of waiting and running time, the power
controller's counts of ticks (R516, R529, R533), the timers of collectives (R450), the waits of flits (R424) and the budgets of
working codec cores (R481), and nothing else; without supply nothing moves. -/
def Obligations.IdleStepTicks : Prop :=
  ∀ s : State, s.pending = [] →
    (s.conn.vin = false → step s = .next s) ∧
    (s.conn.vin = true → s.powered = false → step s = .next { s with aon := s.aon + 1 }) ∧
    (s.conn.vin = true → s.powered = true → (∀ d, d < 2 → (s.die d).failing = []) →
      ∃ x, step s = .next { s with
          aon := s.aon + 1, stile := x, power := powerTick (arrayIdle s) s.power, mortar := (timerTick s).mortar
          golger := (portTick s).golger, codec := (codecTick s).codec } ∧
        (s.stile.runs = [] → s.stile.cur = none → x = s.stile) ∧
        x.array = s.stile.array ∧ x.cur.isSome = s.stile.cur.isSome ∧ x.runs.map (·.seqNo) = s.stile.runs.map (·.seqNo)) ∧
    (∀ i p, let q := powerTick i p
      q = { p with clear := q.clear, room := q.room, idle := q.idle, calm := q.calm } ∧
      (∀ l, 1 ≤ l → l ≤ 3 → q.clear.get 0 l = if levelClear p l then p.clear.get 0 l + 1 else 0) ∧
      q.room = (if hasRoom p then p.room + 1 else 0) ∧ q.idle = (if i then p.idle + 1 else 0) ∧
      q.calm = (if p.level < 2 then p.calm + 1 else 0)) ∧
    (SMap.wf CodecCore.reset s.codec.cores = true → ∀ c, c < 24 → (codecTick s).core c =
      if (coreWork s c).isSome then { s.core c with worked := (s.core c).worked + 1 } else s.core c)

/-- Every command answers a next state in every state, and leaves the queue of commands to the step. -/
def Obligations.EveryCommandAnswers : Prop :=
  ∀ (c : Instr) (s : State), ∃ t, exec c s = .next t ∧ t.pending = s.pending

/-- Every step keeps the invariant, in every state that has it: the maps of memory and setts stay canonical, and clock
step, level and limit stay in the ranges of R525 and R527–R529. -/
def Obligations.StepKeepsInvariant : Prop :=
  ∀ s t : State, s.inv → step s = .next t → t.inv

/-- R14, R47, R361, R385, R410, R427, R429, R540, R553 and the reset columns of the register tables: the state after reset
has the invariant, and these reset values. -/
def Obligations.ResetState : Prop :=
  (State.reset.inv) ∧
  (let s := State.reset
   s.pending = [] ∧ s.stile.array = .free ∧ s.stile.cur = none ∧ s.stile.runs = [] ∧
   (∀ i, s.sett i = Sett.reset) ∧ Sett.reset.pc = 0 ∧ Sett.reset.flags = 0 ∧ Sett.reset.phase = .gated ∧
   (∀ r, Sett.reset.sreg r = 0) ∧ (∀ b, Sett.reset.bank b = ⟨0, [], []⟩) ∧
   (∀ a, s.devByte a = 0) ∧ (∀ d, (s.die d).hbmScrubPeriod = 86400 ∧ (s.die d).mapoutThresh = 1024) ∧
   s.golger.hopLimit = 15 ∧ s.golger.stallLimit = 312500 ∧ s.golger.drainLimit = 312500 ∧ s.golger.moduleId = 0 ∧
   (∀ p, (SMap.get GPort.reset s.golger.ports p).phase = .disabled))

/-! Memory, translation and faults (12–14) -/

/-- R337–R340, R355, R365: a write of device bytes whose bursts stand good in their Lintel lines changes exactly the bytes
written, and reading them back gives what was written and no error. What a burst's decoding comes to gives the counts and the
status of its read, and changes no byte; a write that covers only part of an uncorrectable or poisoned burst leaves poison, and
a burst written as poison reads as poison. The spread view names each byte of both dies' memory once; no address outside the
regions is backed. -/
def Obligations.DeviceMemory : Prop :=
  (∀ (s : State) (ca : Nat) (bs : List Byte), s.mem.wf = true → (∀ b ∈ burstsOf ca bs.length, cached s b) →
     let s' := devWrite s ca bs
     (∀ a, s'.devByte a = if ca ≤ a ∧ a < ca + bs.length then bs.getD (a - ca) 0 else s.devByte a) ∧
     s' = { s with mem := { s.mem with dev := s'.mem.dev, lines := s'.mem.lines } } ∧ devRead s' ca bs.length = (s', 0, bs)) ∧
  (∀ (s : State) (b : Nat), isFallow b = false →
     let o := (decodeBurst s b).1
     let d := s.die (homeDie b)
     let r := memRead s b
     let d' := r.1.die (homeDie b)
     (s.errs b = [] → r = (s, .clean, 0)) ∧ r.2.1 = o ∧
     (o = .uncorrectable → r.2.2 = 0x0301 ∧ d'.ueCnt = satAdd d.ueCnt 1) ∧
     (o = .poisoned → r.2.2 = 0x0302 ∧ d'.poisonCnt = satAdd d.poisonCnt 1) ∧
     (∀ k, o = .corrected k → r.2.2 = 0 ∧ d'.ceCnt = satAdd d.ceCnt 1) ∧
     (r.2.2 ≠ 0 → r.1.mem.dev = s.mem.dev ∧ r.1.mem.errs = s.mem.errs) ∧
     (s.mem.stuck.get [] (s.phys b) = [] → s.mem.wf = true → (memRead (memPoison s b) b).2 = (.poisoned, 0x0302)) ∧
     (∀ ca bs, (b < ca ∨ ca + bs.length < b + 32) → s.line (b / 256) = Line.none → (o = .uncorrectable ∨ o = .poisoned) →
       ∃ s1, writeBurst ca bs s b = memPoison s1 b ∧ s1.mem.dev = s.mem.dev)) ∧
  ((∀ a b, spreadBase ≤ a → a < spreadBase + 2 * hbmDieBytes → spreadBase ≤ b → b < spreadBase + 2 * hbmDieBytes →
     canonAddr a = canonAddr b → a = b) ∧
   (∀ c, (c < hbmDieBytes ∨ (hbmDie1Base ≤ c ∧ c < hbmDie1Base + hbmDieBytes)) →
     canonAddr c = some c ∧ ∃ a, spreadBase ≤ a ∧ a < spreadBase + 2 * hbmDieBytes ∧ canonAddr a = some c) ∧
   (∀ a c, canonAddr a = some c → c < hbmDieBytes ∨ (hbmDie1Base ≤ c ∧ c < hbmDie1Base + hbmDieBytes) ∨
     (fallowBase ≤ c ∧ c < fallowBase + fallowBytes)))

/-- R370, R373, R374: a run's access outside its objects is class 8 and is fatal, an atomic or wait on a tier-2 object class 9,
an access of an agent other than Mortar to a tier-3 object class 10; fatal classes give 0x0311 to 0x0315. A fault takes the
client's next FAULT_ID and its record waits for the ring; a fatal one waits for no answer. A fault that a resumed transfer meets
again (R380) has no second record. -/
def Obligations.Faults : Prop :=
  (∀ (s : State) (c va : Nat) (objs : List (BitVec 512)) (kind : AccKind),
     let ag : Agent := { client := c, objs := some objs, mortar := false }
     (findObject objs va = none → translate s ag kind va = .fault 8) ∧
     (∀ o, findObject objs va = some o → objTier o = 2 → kind.atomicLike = true → translate s ag kind va = .fault 9) ∧
     (∀ o, findObject objs va = some o → objTier o = 3 → translate s ag kind va = .fault 10) ∧
     (∀ o, findObject objs va = some o → objTier o < 2 → bit (s.client c).root.toNat 0 = false →
       translate s ag kind va = .fault 1) ∧
     [8, 9, 10, 11, 12].map classStatus = [0x0311, 0x0312, 0x0313, 0x0314, 0x0315] ∧
     (List.range 16).filter fatalClass = [8, 9, 10, 11, 12, 13, 14, 15]) ∧
  (∀ (s : State) (c va cls run agent : Nat) (kind : AccKind) (owner : FaultOwner),
     bit (s.client c).fqCtrl.toNat 31 = false →
     let x := s.client c
     let f : FaultRec := { id := x.nextId, va := va, run := run, agent := agent, cls := cls
                           acc := accBits kind (fatalClass cls), time := s.now, owner := owner }
     (x.again = none → postFault s c va cls kind run agent owner = s.setClient c fun x =>
       { x with nextId := x.nextId + 1, held := x.held ++ [f]
                waiting := if fatalClass cls then x.waiting else x.waiting ++ [f] }) ∧
     (∀ g, x.again = some g → g.owner = owner → g.va / 256 = va / 256 → g.cls = cls →
       postFault s c va cls kind run agent owner = s.setClient c fun x => { x with again := none }))

/-- R12, R369, R373, R374, R386, R391, R395, R396, R405, R406, R410: the writes of a client's fault ring, completion ring and
queue registers store their fields and let records drain (a ring's base only while it is disabled); HOLDOFF's end, once the
holdoff is over, sends a deferred signal, which leaves where the function's MSI-X entry is open and is pending else. An
invalidation enters the sixteen in progress, or waits, and drops the residency entries and the TLB entries that it touches;
the oldest completes and makes room. -/
def Obligations.QueueAndFaultRegisters : Prop :=
  (∀ (s : State) (c : Nat) (v : W32) (w : W64), s.hostReady = true → s.mortar.doom = none → c < 32 →
     let n := clampNat 16 48 (field v.toNat 13 8)
     let lo := field w.toNat 47 16 * 65536 / 2 ^ n * 2 ^ n
     let i : Inval := ⟨field v.toNat 4 0, lo, n, BitVec.ofNat 16 (field v.toNat 31 16)⟩
     exec (.xlatFqTailWrite c v) s = .next (drainFaults (s.setClient c fun x => { x with tail := v &&& 0x1FFFF }) c) ∧
     exec (.xlatFqBaseWrite c w) s =
       .next (drainFaults ((rowWrite c none s).setClient c fun x => { x with fqBase := w &&& 0x800FFFFFFFFFF000 }) c) ∧
     exec (.xlatFqCtrlWrite c v) s = .next (drainFaults (s.setClient c fun x => { x with fqCtrl := v &&& 0x87FF001F }) c) ∧
     (let s1 := rowWrite 0 none s
      exec (.invalidate w v) s = .next (flushTlbs i.client lo n (dropResident
       (fun e => e.client == i.client && decide (e.va < lo + 2 ^ n) && decide (lo < e.va + e.objBytes))
       { s1 with xlat := { s1.xlat with
           invVa := w &&& 0xFFFFFFFF0000
           invals := if s.xlat.invals.length < 16 then s.xlat.invals ++ [i] else s.xlat.invals
           invBlocked := if s.xlat.invals.length < 16 then s.xlat.invBlocked else s.xlat.invBlocked ++ [i] } }))) ∧
     (∀ g e, SMap.wf [] s.xlat.tlbs = true → e ∈ (flushTlbs c lo n s).tlb g →
       e ∈ s.tlb g ∧ (e.client ≠ c ∨ e.va + 2 ^ e.log2 ≤ lo ∨ lo + 2 ^ n ≤ e.va)) ∧
     (∀ j rest, s.xlat.invals = j :: rest → exec .invalidationDone s = .next
       (let t := flushTlbs j.client j.va j.log2 s
        { t with xlat := { t.xlat with
          invDone := j.seq, invals := rest ++ s.xlat.invBlocked.take 1, invBlocked := s.xlat.invBlocked.drop 1 } })) ∧
     (s.xlat.invals = [] → exec .invalidationDone s = .next s)) ∧
  (∀ (s : State) (c n : Nat) (v : W32) (w : W64), s.hostReady = true → s.mortar.doom = none → c < 32 → n < 8 →
     exec (.queueEnable c n v) s = .next (s.setQ c n fun q => { q with
       ctrl := v &&& 0x80001F1F, err := if bit v.toNat 31 then false else q.err
       resync := if bit v.toNat 31 then true else q.resync }) ∧
     exec (.stileCqTailWrite c v) s = .next (drainComps (s.setCl c fun k => { k with tail := v &&& 0x1FFFF }) c) ∧
     exec (.stileCqCtrlWrite c v) s = .next (drainComps (s.setCl c fun k => { k with cqCtrl := v &&& 0x87FFFFFF }) c) ∧
     exec (.stileCqBaseWrite c w) s = .next (drainComps ((rowWrite c none s).setCl c fun k =>
       if bit k.cqCtrl.toNat 31 then k else { k with cqBase := w &&& 0x800FFFFFFFFFF000 }) c) ∧
     (let k := s.cl c
      let e := field k.cqCtrl.toNat 26 16
      let s1 := s.setCl c fun k => { k with deferred := false, holdoffEnd := s.now + k.holdoff }
      exec (.holdoffExpiry c) s = .next (
        if k.deferred = false ∨ s.now < k.holdoffEnd ∨ msixSize c ≤ e then
          if k.deferred = true ∧ k.holdoffEnd ≤ s.now then s1 else s
        else if s.msixOpen c e then s1.emit (.msix c e)
        else { s1 with conn := { s1.conn with pba := SMap.set false s1.conn.pba (256 * c + e) true } })))

/-- R12, R375, R381, R403: an answer that names no waiting fault changes nothing but the register that it writes. FAIL of a
sett's fault ends the running run with 0x0310. RESUME of a sett's fault is recorded while the array saves or its clock stands (R529), and otherwise lets
the paused transfer go on, which then stands executed where it meets no further fault. -/
def Obligations.FaultAnswers : Prop :=
  ∀ (s : State) (c : Nat) (id : BitVec 48), s.hostReady = true → c < 32 →
    let w := writeResp c id s
    (answeredFault s c id = none → exec (.resume c id) s = .next w ∧ exec (.fail c id) s = .next w) ∧
    (∀ f i u, answeredFault s c id = some f → faultRun s c f = none → f.owner = .sett i u →
      exec (.fail c id) s = .next (failRun i 0x0310 w) ∧
      (∀ r l, s.stile.cur = some r → s.settMode i = 0 → r.placement = [(l, i)] → exec (.fail c id) s = .next (endRun w 0x0310)) ∧
      (s.stile.array = .saving ∨ s.arrayRuns = false → exec (.resume c id) s =
        .next (w.setClient c fun x => { x with resumed := x.resumed ++ [f.id] })) ∧
      (∀ e x, s.stile.array ≠ .saving → s.arrayRuns = true → (s.sett i).trace = none → (s.sett i).stagePaused ≠ some f.id → (s.sett i).queue = [e] → e.st = .paused f.id →
        useOf e.instr = some x → x.st = i → (x.lanes = true ∨ (s.sett i).lane0 x.h.pred = true) → isPost e.instr = false →
        let s1 := (w.setClient c fun x => { x with waiting := x.waiting.filter fun g => g.id != f.id }).setSett i fun t =>
          { t with queue := [{ e with st := .queued }] }
        let aux := if e.aux.isEmpty then boundAux s1 i e.instr else e.aux
        ∀ s2, unitEffect i e.seq e.prog aux e.instr (if resumes e.instr = true
            then s1.setSett i fun t => { t with trace := some ⟨e.kept, []⟩ } else s1) = .done s2 →
          (s2.sett i).queue = [{ e with st := .queued }] →
          exec (.resume c id) s = .next ((clobber i (destsOf (s.sett i) e.instr) s2).setSett i fun t =>
            { t with trace := none, queue := [{ e with st := .done, prog := 0, aux := aux, kept := [] }] })))

/-! Queues, runs and clients (15) -/

/-- R391, R395, R396: a poll of a disabled queue does nothing; of one just enabled takes TAIL as the place to fetch from;
of one whose TAIL has not moved fetches nothing; one that cannot read the header, or finds TAIL beyond the ring, disables
the queue with 0x0105 or 0x0102. `settleDoom` ends the run of a sett that waits on a word which the reads found bad (R340). -/
def Obligations.QueuePoll : Prop :=
  ∀ (s : State) (c n : Nat), s.hearth.ready = true → s.powered = true → s.mortar.doom = none → c < 32 → n < 8 →
    let q := (s.cl c).q n
    (q.enabled = false → exec (.queuePoll c n) s = .next s) ∧
    (q.enabled = true → ∀ s1, ringRead c q 0 4 s = (s1, none) →
      exec (.queuePoll c n) s = .next (settleDoom (disableQueue c n 0x0105 s1))) ∧
    (q.enabled = true → ∀ s1 bs, ringRead c q 0 4 s = (s1, some bs) →
      let tail := BitVec.ofNat 32 (leNat bs)
      (q.resync = true → exec (.queuePoll c n) s = .next (settleDoom (s1.setQ c n fun q =>
        { q with fetched := tail, resync := false, k := min (q.k + 1) (field q.ctrl.toNat 12 10) }))) ∧
      (q.resync = false → tail = q.fetched → exec (.queuePoll c n) s = .next (settleDoom (s1.setQ c n fun q =>
        { q with k := min (q.k + 1) (field q.ctrl.toNat 12 10) }))) ∧
      (q.resync = false → q.slots < (tail - q.fetched).toNat →
        exec (.queuePoll c n) s = .next (settleDoom (disableQueue c n 0x0102 s1))) ∧
      (q.resync = false → tail = q.fetched + 1 → q.descs = [] → ∀ s2 d,
        ringRead c { q with k := 0 } (64 + 64 * (q.fetched.toNat % q.slots)) 64 (s1.setQ c n fun q => { q with k := 0 }) = (s2, some d) →
        exec (.queuePoll c n) s = .next (settleDoom (takeDesc c n d s2))))

/-- R392, R394, R399, R401: the queue's next descriptor, where it has the command's type, starts: NOP completes with
status 0, COPY completes with 0x0107 where a range touches the frame pool and moves its bytes otherwise, granule by granule,
to complete with status 0 once all are moved, and a granule that has come to lie in the pool ends it with 0x0107; RUN takes
the client's next run number and joins the runs that wait. A command for a type that does not stand next does nothing.
`settleDoom` ends the run of a sett that waits on a word which the work found bad (R340). -/
def Obligations.DescriptorsRun : Prop :=
  (∀ (s : State) (c n : Nat) (m : Manifest), s.hearth.ready = true → s.powered = true → s.mortar.doom = none → c < 32 → n < 8 →
     (∀ d, nextOf s c n 0 none = some d → exec (.nop c n) s = .next (settleDoom (completeDesc c n d 0 s))) ∧
     (nextOf s c n 0 none = none → exec (.nop c n) s = .next s) ∧
     (∀ d, nextOf s c n 2 none = some d →
       exec (.copy c n) s = .next (settleDoom (if touchesPool s c (recField d.bytes 16 8) (recField d.bytes 32 8) ||
           touchesPool s c (recField d.bytes 24 8) (recField d.bytes 32 8)
         then completeDesc c n d 0x0107 s else copyMove c n d (startDesc c n d.id s)))) ∧
     (nextOf s c n 2 none = none → exec (.copy c n) s = .next s) ∧
     (∀ d, nextOf s c n 1 none = some d → ∃ r : Run, r.client = c ∧ r.queue = n ∧ r.desc = d.id ∧ r.manifest = m ∧
       r.manifestVa = recField d.bytes 16 8 ∧ r.warnVa = recField d.bytes 24 8 ∧ r.tag = BitVec.ofNat 64 (recField d.bytes 0 8) ∧
       r.seqNo = (s.cl c).nextRun ∧ r.saved = none ∧ r.placement = [] ∧ r.cls = d.cls ∧
       (let s1 := (startDesc c n d.id s).setCl c fun k => { k with nextRun := k.nextRun + 1 }
        exec (.run c n m) s = .next (settleClass { s1 with stile := { s1.stile with runs := s1.stile.runs ++ [r] } }))) ∧
     (nextOf s c n 1 none = none → exec (.run c n m) s = .next s)) ∧
  (∀ (s : State) (c n : Nat), s.hearth.ready = true → s.powered = true → s.mortar.doom = none → c < 32 → n < 8 →
     (∀ d, (((s.cl c).q n).descs.find? fun d => d.started && !d.posted && descType d == 2 && d.paused.isNone) = some d →
       findDesc s c n d.id = some d → recField d.bytes 32 8 ≤ d.prog →
       exec (.copyComplete c n) s = .next (settleDoom (completeDesc c n d 0 s))) ∧
     ((((s.cl c).q n).descs.find? fun d => d.started && !d.posted && descType d == 2 && d.paused.isNone) = none →
       exec (.copyComplete c n) s = .next s)) ∧
  (∀ (s : State) (c n : Nat) (d : Desc),
     let src := recField d.bytes 16 8 + d.prog
     let dst := recField d.bytes 24 8 + d.prog
     let k := min (recField d.bytes 32 8 - d.prog) (min (256 - src % 256) (256 - dst % 256))
     ((poolHit s c .read src = true ∨ poolHit s c .write dst = true) →
       copyOnce c n d s = .stop (completeDesc c n d 0x0107 s)) ∧
     (∀ s1 s2 bs w, poolHit s c .read src = false → poolHit s c .write dst = false →
       readGranule s (dmaAgent c) .read src k = .ok bs s1 → writeGranule s1 (dmaAgent c) .write dst bs = .ok w s2 →
       copyOnce c n d s = .more (setDesc c n d.id (fun d => { d with prog := d.prog + k }) s2) ∧
       s1.stile = s.stile ∧ s2.stile = s.stile))

/-- R47, R51, R53, R75, R144, R166: a sett at the start of its run: its registers hold what the manifest declares and
zero otherwise, its ledger banks are clear, its planes zero, its flags and counts zero but for the correction count, and
the pc stands at its stream. -/
def Obligations.SettAtRunStart : Prop :=
  ∀ (m : Manifest) (c row col va : Nat) (d : SettDecl) (t : Sett),
    let x := startSett m c row col d va t
    x.phase = .running ∧ x.pc = BitVec.ofNat 64 va ∧ x.mode = 0 ∧ x.flags = 0 ∧ x.shedCnt = 0 ∧ x.satCnt = 0 ∧
    x.eccCnt = t.eccCnt ∧ x.queue = [] ∧ x.stall = none ∧ x.ended = false ∧ x.carving = d.carving ∧
    x.asleep = decide (t.phase = .gated) ∧ x.statsParity = false ∧
    (∀ b, x.bank b = ⟨0, [], []⟩) ∧ (∀ k n, planeAt x.active k n = .fin 0 ∧ planeAt x.shadow k n = .fin 0) ∧
    (∀ r, x.vreg r = 0) ∧ (∀ r, r ≠ 0 → x.preg r = 0) ∧ (∀ r, x.ereg r = 0) ∧
    (d.scalars = [] → ∀ r, x.sreg r = 0) ∧ (d.descs = [] → ∀ r, x.areg r = 0) ∧
    (∀ e, d.scalars = [e] → 0 < e.1 → e.1 < 32 → x.sreg (BitVec.ofNat 5 e.1) = e.2)

/-- R290, R392, R400, R405: with the array taken, admission held or no run ready nothing is scheduled. The run chosen is
admitted where its manifest can be read and its checks pass, and otherwise completes with the first failure's status; a
pre-empted one resumes. `settleDoom` ends the run of a sett that waits on a word which the work found bad (R340). -/
def Obligations.RunScheduling : Prop :=
  ∀ (s : State), s.powered = true → s.mortar.doom = none → s.mem.waits = [] →
    ((s.stile.array ≠ .free ∨ admissionHeld s = true ∨ chooseRun s = none) → exec .scheduleRun s = .next s) ∧
    (∀ r s1, s.stile.array = .free → admissionHeld s = false → chooseRun s = some (r, s1) →
      let ag : Agent := { client := r.client, objs := some r.manifest.objects, mortar := false }
      (∀ k, r.saved = some k → exec .scheduleRun s = .next (settleDoom (resumeRun s1 r k))) ∧
      (r.saved = none → ∀ code, manifestStatus s1 r = none → admissionCheck s1 r.client r.manifest = .inl code →
        counterStatus s1 ag r.manifest = none → exec .scheduleRun s = .next (settleDoom (startRun s1 r code))) ∧
      (r.saved = none → ∀ j, (manifestStatus s1 r = some j ∨ (manifestStatus s1 r = none ∧
          (admissionCheck s1 r.client r.manifest = .inr j ∨
            ∃ code, admissionCheck s1 r.client r.manifest = .inl code ∧ counterStatus s1 ag r.manifest = some j))) →
        ∃ t, exec .scheduleRun s = .next t ∧
        t.stile.cur = s1.stile.cur ∧ t.stile.array = s1.stile.array ∧ t.setts = s1.setts ∧
        ∀ x ∈ t.stile.runs, ¬(x.client = r.client ∧ x.seqNo = r.seqNo)))

/-- R66, R376, R377, R401, R404, R410: PREEMPT and the end of the running run's slice, where a run of another client of its
class is ready, stop the running run: its running setts drain, its contexts freeze and the array saves (PREEMPT alone leaves
the register's bit set); once they have drained, the run waits with its state saved and the array is free. STOP ends the
running run with 0x0109; the watchdog's expiry, once the run has counted its budget and outside a save, ends it with 0x0104 and
raises alarm 0.
With no run on the array they do nothing. -/
def Obligations.Preemption : Prop :=
  (∀ (s : State), s.hostReady = true → s.mortar.doom = none →
     (s.stile.cur = none → exec .preempt s = .next s ∧ exec .sliceExpiry s = .next s) ∧
     (∀ r, s.stile.cur = some r → s.stile.array.held = true →
       let k := (s.stile.slices.get 0 r.cls).toNat
       let due := k ≠ 0 ∧ k ≤ s.stile.held ∧ (s.readyRuns.any fun x => x.client != r.client && x.cls == r.cls) = true
       let stops := fun (c : Instr) (p : Bool) => ∃ t, exec c s = .next t ∧ t.stile = { s.stile with array := .saving, preempt := p } ∧
         t.mem = s.mem ∧ t.xlat = s.xlat ∧ t.mortar.groups = s.mortar.groups ∧
         (SMap.wf Sett.reset s.setts = true → ∀ p ∈ r.placement, (s.sett p.2).phase = .running →
           t.sett p.2 = { s.sett p.2 with phase := .draining })
       stops .preempt true ∧ (due → stops .sliceExpiry s.stile.preempt) ∧ (¬due → exec .sliceExpiry s = .next s))) ∧
  (∀ (s : State) (r : Run), s.arrayRuns = true → s.stile.array = .saving → s.stile.cur = some r →
     (∀ p ∈ r.placement, (s.sett p.2).queue = [] ∧ (s.sett p.2).sound ∧ (s.sett p.2).statsParity = false) →
     ∃ t x, exec .preemptionSaveDone s = .next t ∧ t.stile.cur = none ∧ t.stile.array = .free ∧ t.stile.preempt = false ∧
       t.stile.runs = s.stile.runs ++ [x] ∧ x.client = r.client ∧ x.seqNo = r.seqNo ∧ x.manifest = r.manifest ∧
       x.preempts = r.preempts + 1 ∧ ∃ k, x.saved = some k ∧ k.setts.map (·.1) = r.placement.map (·.1)) ∧
  (∀ (s : State), s.hostReady = true → s.mortar.doom = none →
     (s.stile.cur = none → exec .stop s = .next s ∧ exec .runWatchdogExpiry s = .next s) ∧
     (∀ r, s.stile.cur = some r →
       exec .stop s = .next (endRunWith (stopOthers noSett s) 0x0109 (stallField s r)) ∧
       exec .runWatchdogExpiry s = .next (if s.stile.array = .saving ∨ wdogBudget s r = 0 ∨ r.wdog < wdogBudget s r then s
         else settleDoom (raiseAlarm (endRunWith (stopOthers noSett s) 0x0104 (stallField s r)) 0 0x0104 1))))

/-- R387, R407: after a reset of a client, by its own register or its function, no run of it is left, running, ready or
pre-empted, and no group, and the low word that its XLAT_FAULT_RESP held is 0 (R12); a reset of the physical function leaves Stile's registers at their reset values and no run. -/
def Obligations.ClientResets : Prop :=
  ∀ (s : State) (c : Nat), s.hostReady = true → s.mortar.doom = none → c < 32 →
    let gone := fun (t : State) => (∀ x ∈ t.stile.runs, x.client ≠ c) ∧ (∀ x, t.stile.cur = some x → x.client ≠ c) ∧
      ∀ g ∈ t.mortar.groups, g.client ≠ c
    let low := fun (t : State) => SMap.wf 0 s.woLow = true → t.woLow.get 0 (0x800020 + 256 * c) = 0
    (∃ t, exec (.clientReset c) s = .next t ∧ gone t ∧ low t) ∧
    (1 ≤ c → ∃ t, exec (.vfFlr c) s = .next t ∧ gone t ∧ low t) ∧
    (exec (.vfFlr 0) s = .next s) ∧
    (∃ t, exec .pfFlr s = .next t ∧ t.stile = { Stile.reset with clients := t.stile.clients } ∧
      t.xlat = { Xlat.reset with clients := t.xlat.clients, invals := t.xlat.invals, invBlocked := t.xlat.invBlocked } ∧
      t.hearth.posted = false ∧ t.hearth.response = false)

/-- R386, R388, R389, R501: an access within the aperture's size, through client 0's tables, moves bytes of device memory
outside the frame pool; one that memory answers as bad reads as ones and poisoned; any other counts as an error and a read
answers ones. A configuration request before boot's end is to be retried; afterwards a read gives the dword and a write changes
the bits that the host may change. `settleDoom` ends the run of a sett that waits on a word found bad (R340). -/
def Obligations.Aperture : Prop :=
  ∀ (s : State) (off len : Nat) (bs : List Byte), s.hostReady = true → s.mortar.doom = none →
    let va := s.stile.bar2Base.toNat + off
    let ones := List.replicate len (0xFF : Byte)
    (off + len ≤ s.bar2Size →
      (∀ d s1, bar2Ok s .read va len = true → (readRange s (dmaAgent 0) .read va len).2 = .ok d s1 →
        exec (.bar2Read 0 off len) s = .next (settleDoom (s1.emit (.bar2 d false)))) ∧
      (∀ x s1, bar2Ok s .read va len = true → (readRange s (dmaAgent 0) .read va len).2 = .bad x s1 →
        exec (.bar2Read 0 off len) s = .next (settleDoom ((s1.setCl 0 fun k => { k with bar2Ep := true }).emit (.bar2 ones true)))) ∧
      (bar2Ok s .read va len = false →
        exec (.bar2Read 0 off len) s = .next ((bar2Error off false s).emit (.bar2 ones false)))) ∧
    (off + bs.length ≤ s.bar2Size →
      (∀ d s1, bar2Ok s .write va bs.length = true → (writeRange s (dmaAgent 0) .write va bs).2 = .ok d s1 →
        exec (.bar2Write 0 off bs) s = .next (settleDoom s1)) ∧
      (bar2Ok s .write va bs.length = false → exec (.bar2Write 0 off bs) s = .next (bar2Error off true s))) ∧
    (s.bar2Size < off + len → exec (.bar2Read 0 off len) s = .next s) ∧
    (∀ c, c ≠ 0 → exec (.bar2Read c off len) s = .next s ∧ exec (.bar2Write c off bs) s = .next s) ∧
    (bar2Error off true s).stile.bar2ErrCnt = satAdd s.stile.bar2ErrCnt 1 ∧
    (∀ c (s : State), c < 32 → s.powered = true → s.conn.linkUp = true → s.mortar.doom = none →
      (s.hearth.ready = false → ∀ v, exec (.configRequest c off v) s = .next (s.emit (.config true))) ∧
      (s.hearth.ready = true → exec (.configRequest c off none) s =
        .next ((s.emit (.config false)).emit (.data (BitVec.ofNat 32 (s.cfgRead c (off / 4)))))) ∧
      (s.hearth.ready = true → ∀ v, off / 4 ≠ dwPcie + 2 → off / 4 ≠ dwMsix →
        exec (.configRequest c off (some v)) s = .next (({ s with conn := { s.conn with
          cfg := SMap.set 0 s.conn.cfg (1024 * c + off / 4)
            ((s.cfgDw c (off / 4) &&& ~~~(cfgMask s c (off / 4))) ||| (v &&& cfgMask s c (off / 4))) } }).emit (.config false))))

/-! The codec complex (18) -/

/-- R465, R469, R475, R487: STREAM_OPEN completes with 0x0601, 0x0604, 0x0603 or 0x0605 where the checks of R469 fail in that
order, and otherwise binds a context to the stream with its block and its quota of entries, the slot records of an encode
written. STREAM_FLUSH of a failed stream completes with its status; else the flush stands until its work is done. STREAM_CLOSE
drops the stream. `settleDoom` ends the run of a sett that waits on a word which the work found bad (R340). -/
def Obligations.CodecStreams : Prop :=
  ∀ (s : State) (c n : Nat) (d : Desc), s.hearth.ready = true → s.powered = true → s.mortar.doom = none → c < 32 → n < 8 →
    let sid := recField d.bytes 18 2
    (nextOf s c n 3 (some 0) = none → exec (.streamOpen c n) s = .next s) ∧
    (nextOf s c n 3 (some 0) = some d → dmaPaused s = false → ∀ va b s1,
      readRange s (dmaAgent c) .read (recField d.bytes 24 8) 256 = (va, .ok b s1) →
      let s2 := startDesc c n d.id s1
      let ends := fun st => exec (.streamOpen c n) s = .next (settleDoom (completeDesc c n d st s2))
      (blockOk b = false ∨ 255 < sid → ends 0x0601) ∧
      (blockOk b = true → sid ≤ 255 →
        (areaInPool s2 c b = false → ends 0x0604) ∧
        (areaInPool s2 c b = true → (freeEntries s2).length < recField b 12 2 → ends 0x0603) ∧
        (areaInPool s2 c b = true → recField b 12 2 ≤ (freeEntries s2).length →
          ((∀ k, k < 256 → s2.strm k ≠ none) ∨ findStream s2 c sid ≠ none → ends 0x0605) ∧
          (∀ k, k < 256 → s2.strm k = none → findStream s2 c sid = none →
            let es := (freeEntries s2).take (recField b 12 2)
            let recs := slotRecords (newStream c sid 0 b es)
            (recField b 0 1 = 0 ∨ ∃ y s3, (writeRange s2 (codecAgent 0 c) .write (recField b 64 8) recs).2 = .ok y s3) →
            ∃ t j x, exec (.streamOpen c n) s = .next (settleDoom t) ∧ j ≤ k ∧ s2.strm j = none ∧ t.strm j = some x ∧ x.client = c ∧
              x.sid = sid ∧ x.block = b ∧ x.failed = none ∧ x.entries = es ∧ t.stile.cur = s2.stile.cur)))) ∧
    (∀ k x, nextOf s c n 3 (some 1) = some d → findStream s c sid = some k → s.strm k = some x →
      (x.isEnc = false → recField d.bytes 24 8 ≠ 0 → exec (.streamFlush c n) s = .next (settleDoom (completeDesc c n d 0x0101 s))) ∧
      (x.isEnc = true ∨ recField d.bytes 24 8 = 0 →
        (∀ st cause, x.failed = some (st, cause) → exec (.streamFlush c n) s = .next (settleDoom (completeDesc c n d st s))) ∧
        (x.failed = none → x.flush ≠ none → exec (.streamFlush c n) s = .next s) ∧
        (x.failed = none → x.flush = none → ∃ t y, exec (.streamFlush c n) s = .next t ∧ t.strm k = some y ∧
          y.flush = some (n, d.id) ∧ y.total = if x.isEnc then some (recField d.bytes 24 8) else match peek s x cntInWr with
            | .val w => some w
            | _ => none))) ∧
    (nextOf s c n 3 (some 1) = none → exec (.streamFlush c n) s = .next s) ∧
    (∀ k, nextOf s c n 3 (some 2) = some d → findStream s c sid = some k →
      exec (.streamClose c n) s = .next (settleDoom (settleCodec (completeDesc c n d 0 (dropStream k s)))) ∧
      (SMap.wf none s.codec.streams = true → (dropStream k s).strm k = none)) ∧
    (nextOf s c n 3 (some 2) = none → exec (.streamClose c n) s = .next s)

/-- R354, R460, R470, R474–R484, R488, R545: a core that may work takes a slice of the stream chosen for it: it reads a decode's
ring up to the next unit, or an encode's rows, or joins a slice in work. The last core at work on a slice ends it. A unit whose
headers lie outside R460, or whose buffer exceeds QUOTA − 1, fails the stream. A budget that runs out conceals or skips the rest;
the fault limit ends the stream of a fault that has stood so long; a unit that failed sets DAMAGED and CONCEALED, bad data of a
reference CONCEALED alone; a substitute is chosen once. A slice publishes its rows but the last, late, ones. A fenced core takes
no work and may be tested. A Lintel release settles the streams that wait on counters and lets a SYNC.WAITGE whose word has
reached its operand stand executed. -/
def Obligations.CodecCores : Prop :=
  ∀ (s : State) (c part : Nat), s.hostReady = true → s.mortar.doom = none →
    let q := s.core c
    (q.usable = false ∨ 24 ≤ c ∨ 3 ≤ s.power.level ∨ coreChoice s c = none → exec (.codecSliceStart c) s = .next s) ∧
    (∀ k x, q.usable = true → c < 24 → s.power.level < 3 → coreChoice s c = some k → s.strm k = some x →
      (x.unit ≠ none → ∃ t, exec (.codecSliceStart c) s = .next t ∧ (t.core c).busy = true ∧ (t.core c).ctx = some k) ∧
      (x.unit = none → want s x = .work → x.ending = false → q.ctx = none →
        (∀ p, x.isEnc = true → x.cur = some p → ∃ t, exec (.codecSliceStart c) s = .next t ∧ (t.core c).ctx = some k ∧
          (t.core c).busy = true ∧ (t.core c).acts = loadActs x (p.n % x.list) (rectPieces x.block (bandRect x p.band))) ∧
        (∀ n, x.isEnc = false → x.toShow = [] → (peek s x cntInWr).getD x.inRd - x.inRd = n → n ≠ 0 →
          ∃ t, exec (.codecSliceStart c) s = .next t ∧ (t.core c).ctx = some k ∧
            (t.core c).acts = takeActs (x.f 32 8) (x.f 40 1) x.inRd n ++ [.parse]))) ∧
    (coreWork s c = none → exec (.codecSliceComplete c part) s = .next s ∧ exec (.budgetExpiry c) s = .next s) ∧
    (∀ k x u, coreWork s c = some (k, x, u) →
      let last := (workersOf s k).all (· == c)
      let n := corePixels x part last
      let s1 := s.setCore c fun q => { q with busy := false, pix := satAdd q.pix n }
      let w := endSlice c k x u s1
      exec (.codecSliceComplete c part) s = .next (settleDoom (if last then workCore c (w.1.setCore c fun q => { q with acts := w.2, got := [], hurt := [] })
        else settleCodec (settleCore c (s1.setStrm k fun x => { x with pixels := x.pixels + n })))) ∧
      (∀ p, x.cur = some p → x.isEnc = false → x.subframe = true → (infoOf x u).last = false → (infoOf x u).rows ≤ lateRows (x.f 1 1) →
        ∀ va v, CodecAct.raise va v ∉ w.2) ∧
      (∀ p, x.cur = some p →
        (q.worked < budgetTicks x ∨ x.cutAt ≠ none → exec (.budgetExpiry c) s = .next s) ∧
        (budgetTicks x ≤ q.worked → x.cutAt = none → ∃ t, exec (.budgetExpiry c) s = .next t ∧
          (t.core c).budgets = satAdd q.budgets 1 ∧ (t.core c).busy = x.isEnc ∧
          (x.isEnc = true → ∃ y n, t.strm k = some y ∧ y.cutAt = some n ∧ y.budgets = x.budgets + 1 ∧
            y.cur = some { p with flags := p.flags ||| 0x14#8 })))) ∧
    (∀ (x : Stream) (i : UnitInfo),
      (∀ h, i.seq = some h → (headerOk x h = false → headerStatus x i = some 0x0602) ∧
        (headerOk x h = true → x.quota - 1 < dpbSize x h → headerStatus x i = some 0x0606)) ∧
      (∀ p, i.seq = none → i.pic = some p → x.f 8 2 < p.width ∨ x.f 10 2 < p.height → headerStatus x i = some 0x0602)) ∧
    (∀ k x st s1, s.strm k = some x → x.cur = none →
      let u := match unitEnd (x.f 1 1) q.got with
        | some n => q.got.take n
        | none => q.got
      headerStatus x (infoOf x u) = some st →
      bumpCounter (codecAgent c x.client) (x.cnt cntInRd) (fun v => (v + u.length) % 2 ^ 64) s = .ok s1 →
      parseUnit c k s = .ok (failStream k st 0 (s1.setStrm k fun x => { x with inRd := x.inRd + u.length }))) ∧
    (∀ (x : Stream) (p : CurPic) (u : List Byte) (i : UnitInfo) (got : List Byte) (hurt : List (Nat × Nat)),
      let r := (unitPicture x p u i got hurt).1
      let failed := i.failed = true ∨ i.lost ≠ [] ∨ unitCut (x.f 1 1) u = true
      let bad := hurtBlocks x p i hurt
      (failed → r.flags &&& 3#8 = 3#8) ∧ (¬failed → bad ≠ [] → r.flags &&& 3#8 = (p.flags &&& 2#8) ||| 1#8) ∧
      (¬failed → bad = [] → r.flags = p.flags) ∧
      (p.sub = none → (takeSub x true p).sub = some (substitute x p.head.layer) ∧
        ∀ b, takeSub x b (takeSub x true p) = takeSub x true p)) ∧
    (∀ k x id f, q.ctx = some k → s.strm k = some x → q.fault = some id → (s.client x.client).waiting = [f] → f.id = id →
      let late := s.codec.faultLimit ≠ 0 ∧ f.time + s.codec.faultLimit.toNat ≤ s.now
      (late → exec (.codecFaultLimitExpiry c) s = .next (settleDoom (settleCodec (failStream k 0x0607 0 s)))) ∧
      (¬late → exec (.codecFaultLimitExpiry c) s = .next s)) ∧
    (q.fault = none → exec (.codecFaultLimitExpiry c) s = .next s) ∧
    (c < 24 → ∃ t, exec (.codecCoreFence c) s = .next t ∧ (t.core c).fence = true ∧
      (q.busy = true → (t.core c).ctx = q.ctx ∧ (t.core c).busy = true)) ∧
    (c < 24 → exec (.codecCoreUnfence c) s = .next (s.setCore c fun q => { q with fence := false })) ∧
    (24 ≤ c → exec (.codecCoreFence c) s = .next s ∧ exec (.codecCoreUnfence c) s = .next s) ∧
    exec (.codecCoreTest c) s = .next (s.setCore c fun q =>
      if q.fence ∧ !q.busy ∧ q.ctx = none then { q with testing := true } else q) ∧
    (∀ a, (∀ w ∈ s.mem.waits, w.addr ≠ a / 8 * 8) → exec (.lintelWaitRelease a) s = .next (settleCodec s)) ∧
    (∀ a, s.arrayRuns = true → s.codec.streams = [] →
      exec (.lintelWaitRelease a) s = .next (settleDoom (settleCodec (lintelRelease a s)))) ∧
    (∀ st ca x e h f, s.arrayRuns = true → s.codec.streams = [] → s.mem.waits = [⟨ca, false, x, st⟩] → ca % 8 = 0 →
      (∀ b ∈ burstsOf ca 8, cached s b) → x ≤ leNat ((iota ca 8).map s.devByte) → (s.sett st).queue = [e] →
      e.instr = .syncWaitge st h f → e.st = .waiting .lintel → (s.sett st).lane0 h.pred = true →
      ∃ t, exec (.lintelWaitRelease ca) s = .next t ∧ t.mem.waits = [] ∧
        (t.sett st).queue = [{ e with st := .done, prog := 0, kept := [] }])

/-! Mortar (17) -/

/-- R437, R444, R446, R447, R449, R450, R456: a context that is not bound, or waits on a fault, does no work. A record that
begins a collective whose other local records have not come waits for them. A chunk leaves with a credit and is kept in
its slot; after the ACK limit the kept copy goes again, once. A collective whose timer has reached its group's TIMEOUT fails, and its
group's epoch advances. A completed collective's record counts its member's event. Take-down and return of a context. -/
def Obligations.MortarContexts : Prop :=
  ∀ (s : State) (c slot : Nat), s.hostReady = true → c < 256 → s.golger.lost = [] → s.mortar.doom = none →
    let x := s.ctx c
    (x.phase ≠ .bound ∨ x.paused ≠ none → ∀ i ∈ [.collectiveStart c, .chunkSend c, .groupTimeout c, .collectiveComplete c],
      exec i s = .next s) ∧
    (x.phase = .bound → x.paused = none → x.ending = [] →
      (∀ r g cl rn l, x.cur = none → x.queue = [r] → s.group r.gid = some g → lone g r = true → r.poster = .sett cl rn l →
        recStatusVa r.bytes = 0 → ∃ t, exec (.collectiveStart c) s = .next t ∧ (t.ctx c).cur = none ∧ (t.ctx c).queue = [] ∧
          (t.ctx c).ending = [] ∧ t.setts = (notifyPoster r ⟨0x0405, 0, noChunk, 0, g.epoch⟩ s).setts ∧ t.mortar.groups = s.mortar.groups) ∧
      (∀ r g, x.cur = none → x.queue = [r] → s.group r.gid = some g → lone g r = false →
        let k : Coll := { gid := r.gid, pair := recIsPair r.bytes, seq := seqOf g r, epoch := g.epoch, recs := [r], ready := false
                          tasks := [], out := [], expect := [], got := [], overs := [] }
        k.full s.golger.moduleId g = false → exec (.collectiveStart c) s = .next (s.setCtx c fun x =>
          { x with queue := [], sends := [], credits := [], timer := 0, cur := some k })) ∧
      (∀ k, x.cur = some k → k.ready = true → k.out = [] → k.tasks = [] → exec (.chunkSend c) s = .next s) ∧
      (∀ k, x.cur = some k → collDone x k = false → exec (.collectiveComplete c) s = .next s) ∧
      (∀ k r cl rn l, x.cur = some k → collDone x k = true → k.pair = false → k.recs = [r] → r.poster = .sett cl rn l →
        recStatusVa r.bytes = 0 → ∃ t, exec (.collectiveComplete c) s = .next t ∧ (t.ctx c).cur = none ∧ (t.ctx c).ending = [] ∧
          t.setts = (notifyPoster r ⟨0, 0, noChunk, 0, 0⟩ s).setts ∧
          (t.group k.gid).map (·.seq) = (s.group k.gid).map (·.seq + 1)) ∧
      (∀ k g, x.cur = some k → s.group k.gid = some g →
        (g.timeout ≤ x.timer → exec (.groupTimeout c) s = .next (fabricDone (mortarWork c (failColl c 0x0401 0 noChunk 0 s)))) ∧
        (x.timer < g.timeout → exec (.groupTimeout c) s = .next s)) ∧
      (∀ k g st ca ch sr, x.cur = some k → s.group k.gid = some g → let t := failColl c st ca ch sr s
        (t.ctx c).cur = none ∧ (t.ctx c).ending = k.recs.map (fun r => (r, ⟨st, ca, ch, sr, g.epoch + 1⟩)) ∧
        t.group k.gid = some { g with epoch := g.epoch + 1, seq := 0, pairSeq := [] } ∧
        (g.ctx = some c → ∀ r ∈ (t.ctx c).recvs, chGid r.header = k.gid → g.epoch + 1 ≤ chEpoch r.header))) ∧
    (∀ k o g, x.phase = .bound → x.paused = none → x.cur = some k → k.ready = true → x.freeSlot = some slot →
      s.group k.gid = some g → k.out = [o] → 0 < x.credit o.module → exec (.chunkSend c) s =
        .next (fabricDone (mortarWork c (sendData c slot o.module o.src o.dst o.chunk o.payload k g
          (s.setColl c fun k => { k with out := [] }))))) ∧
    (∀ k g m src dst ch pay, m ≠ s.golger.moduleId → pickRoute s s.golger.moduleId m 0 false ≠ none → x.credit m = 1 →
      let t := sendData c slot m src dst ch pay k g s
      (t.ctx c).credit m = 0 ∧ (t.ctx c).chunkCnt = satAdd x.chunkCnt 1 ∧
      ∃ h, (t.ctx c).sends.get none slot = some ⟨m, h, pay, false, s.now⟩ ∧ (t.ctx c).timer = 0) ∧
    (x.sends.get none slot = none → exec (.ackLimitExpiry c slot) s = .next s ∧ resendSlot c slot 0 s = s) ∧
    (∀ k, x.sends.get none slot = some k →
      (k.sentAt + s.mortar.ackLimit.toNat ≤ s.now →
        exec (.ackLimitExpiry c slot) s = .next (fabricDone (mortarWork c (resendSlot c slot 0 s)))) ∧
      (s.now < k.sentAt + s.mortar.ackLimit.toNat → exec (.ackLimitExpiry c slot) s = .next s) ∧
      (k.resent = true → resendSlot c slot 0 s = failColl c 0x0403 0 (chChunk k.header) (chSrc k.header) s) ∧
      (k.resent = false → resendSlot c slot 0 s = golgerSend k.module (1 + 16 * c + slot) (k.header ++ k.payload)
        (s.setCtx c fun x => { x with
          resendCnt := satAdd x.resendCnt 1, timer := 0
          sends := SMap.set none x.sends slot (some { k with resent := true, sentAt := s.now }) }))) ∧
    (SMap.wf Ctx.reset s.mortar.ctxs = true → ∃ t, exec (.contextTakeDown c) s = .next t ∧ (t.ctx c).phase = .down ∧
      (x.phase = .bound ∨ x.phase = .frozen → ∀ g ∈ t.mortar.groups, g.ctx ≠ some c)) ∧
    exec (.contextReturn c) s = .next (s.setCtx c fun x =>
      if x.phase = .down then { x with ctrl := 0, phase := .free } else { x with ctrl := 0 })

/-- R446, R447, R449: a message with a bad CRC changes nothing, but a DATA chunk is asked for again. A DATA chunk of an older
epoch is discarded; one already taken is acknowledged again; one for an idle context is staged in a free slot and acknowledged. A
message for a collective, by its group, epoch and number, restarts that collective's timer. An ACK frees the slot and gives credits; REFETCH sends the kept copy; a higher epoch is adopted and fails the collective. -/
def Obligations.MortarMessages : Prop :=
  ∀ (s : State) (src : Nat) (m : Chunk), s.powered = true → s.golger.lost = [] → s.mortar.doom = none →
    let h := m.header
    let s1 := takeInbox src m s
    let s2 := restartTimer h s1
    (chCrcOk h m.payload = false →
      exec (.ackChunk src m) s = .next s1 ∧ exec (.refetch src m) s = .next s1 ∧ exec (.notice src m) s = .next s1) ∧
    (s.group (chGid h) = none → exec (.dataChunk src m) s = .next s1) ∧
    (∀ g, s.group (chGid h) = some g → h.length = 256 →
      (chCrcOk h m.payload = false → exec (.dataChunk src m) s = .next (sendControl src (answerHeader h 3 0 (chEpoch h)) s2)) ∧
      (chCrcOk h m.payload = true → chEpoch h < g.epoch → exec (.dataChunk src m) s = .next s1) ∧
      (∀ c, chCrcOk h m.payload = true → chEpoch h = g.epoch → g.ctx = some c →
        (alreadyTaken g (s.ctx c) h = true → exec (.dataChunk src m) s = .next (fabricDone (mortarWork c (sendAck src h 0 s2)))) ∧
        (alreadyTaken g (s.ctx c) h = false → 16 ≤ (s.ctx c).recvs.length →
          exec (.dataChunk src m) s = .next (fabricDone (mortarWork c s2))) ∧
        (alreadyTaken g (s.ctx c) h = false → (s.ctx c).recvs.length < 16 → (s.ctx c).cur = none → (s.ctx c).ending = [] →
          let k := (s.ctx c).freeRecv
          k < 16 ∧ (∀ r ∈ (s.ctx c).recvs, r.slot ≠ k) ∧
          exec (.dataChunk src m) s = .next (settleDoom (sendAck src h 0 ((stage c (16 + k) m.payload s2).setCtx c
            fun x => { x with recvs := x.recvs ++ [⟨k, src, h, m.payload⟩] })))))) ∧
    (chCrcOk h m.payload = true →
      (∀ c k q, answered s h = some (c, k) → (s.ctx c).cur = some q → q.gid = chGid h → q.epoch = chEpoch h →
        exec (.ackChunk src m) s = .next (restartTimer h (s1.setCtx c fun x => { x with
          sends := SMap.set none x.sends k none
          credits := SMap.set 1 x.credits src (min 16 (x.credit src + chCredits h)) }))) ∧
      (∀ c k, answered s h = some (c, k) →
        exec (.refetch src m) s = .next (fabricDone (mortarWork c (resendSlot c k 0 s1)))) ∧
      (answered s h = none → exec (.refetch src m) s = .next s1) ∧
      (∀ g, s.group (chGid h) = some g → g.ctx = none → exec (.notice src m) s =
        .next (if chEpoch h ≤ g.epoch then s1 else setEpoch (chGid h) (chEpoch h) s1)) ∧
      (∀ g c, s.group (chGid h) = some g → g.ctx = some c → exec (.notice src m) s =
        .next (fabricDone (mortarWork c (adoptEpoch (chGid h) (chEpoch h) s1))))) ∧
    (∀ g c k, s.group (chGid h) = some g → g.ctx = some c → (s.ctx c).cur = some k →
      (s2.ctx c).timer = if k.owns h then 0 else (s.ctx c).timer) ∧
    (∀ g c k e, s.group (chGid h) = some g → g.ctx = some c → (s.ctx c).phase = .bound → (s.ctx c).cur = some k →
      k.gid = chGid h → g.epoch < e → let t := adoptEpoch (chGid h) e s
      t.group (chGid h) = some { g with epoch := e, seq := 0, pairSeq := [] } ∧ (t.ctx c).cur = none ∧
      (t.ctx c).ending = (s.ctx c).ending ++ k.recs.map (fun r => (r, ⟨0x0402, 0, noChunk, 0, e⟩)))

/-- R455: the host's COLL descriptors. OPEN checks the declaration and binds the group to a context (0x0409, 0x0408
otherwise); POST hands a record of a host member to the group's context (0x0405 otherwise) and waits while its queue is
full; CLOSE releases the group. `settleDoom` ends the run of a sett that waits on a word which the work found bad (R340). -/
def Obligations.HostCollectives : Prop :=
  ∀ (s : State) (c n : Nat) (d : Desc), s.hearth.ready = true → s.powered = true → c < 32 → n < 8 →
    s.golger.lost = [] → s.mortar.doom = none →
    let ag : Agent := { client := c, objs := none, mortar := true }
    let hg := recField d.bytes 18 2
    let va := recField d.bytes 24 8
    (∀ p ∈ [(0, .hostCollPost c n), (1, .hostCollOpen c n), (2, .hostCollClose c n)], nextOf s c n 4 (some p.1) = none →
      exec p.2 s = .next s) ∧
    (nextOf s c n 4 (some 1) = some d → dmaPaused s = false → ∀ v db s1, readRange s ag .read va 48 = (v, .ok db s1) →
      let decl := leNat db
      let bad := declN decl = 0 ∨ 32768 < declN decl ∨ 255 < hg ∨ hostGroup s1 c hg ≠ none
      (bad → exec (.hostCollOpen c n) s = .next (settleDoom (completeDesc c n d 0x0409 s1))) ∧
      (¬bad → ∀ w mb s2, readRange s1 ag .read (va + 48) (8 * (declFirst decl + declN decl)) = (w, .ok mb s2) →
        let ms := (List.range (declFirst decl + declN decl)).map fun k => recField mb (8 * k) 8
        let fit := groupsUsed s2 < 4096 ∧ membersUsed s2 + declN decl ≤ 32768 ∧ declOk s2 true decl ms entHost = true ∧
          hostStageOk s2 c (declField decl 32 8) = true
        (¬fit → exec (.hostCollOpen c n) s = .next (settleDoom (completeDesc c n d 0x0409 s2))) ∧
        (fit → s2.mortar.groups = [] → freeCtx s2 = none → exec (.hostCollOpen c n) s = .next (settleDoom (completeDesc c n d 0x0408 s2))) ∧
        (∀ k, fit → s2.mortar.groups = [] → freeCtx s2 = some k → ∃ t g, exec (.hostCollOpen c n) s = .next (settleDoom t) ∧
          t.mortar.groups = [g] ∧ g.gid = declGid decl ∧ g.host = true ∧ g.client = c ∧ g.lgroup = hg ∧ g.ctx = some k ∧
          g.entries = declEntries decl ms ∧ g.epoch = 0 ∧ g.seq = 0 ∧ (t.ctx k).phase = .bound ∧ (t.ctx k).client = c))) ∧
    (nextOf s c n 4 (some 0) = some d → dmaPaused s = false → ∀ v bs s1, readRange s ag .read va 64 = (v, .ok bs s1) →
      let bad := fun (epoch : Nat) => let a := recStatusVa bs
        (a = 0 → exec (.hostCollPost c n) s = .next (settleDoom (settleDoom (completeDesc c n d 0x0405 s1)))) ∧
        (∀ w b s2, a ≠ 0 → writeRange s1 ag .write a (leBytes 0x0405 2 ++ leBytes 0 6 ++ leBytes 0xFFFFFFFF 4 ++ leBytes 0 2 ++
            leBytes (epoch % 65536) 2) = (w, .ok b s2) →
          exec (.hostCollPost c n) s = .next (settleDoom (settleDoom (completeDesc c n d 0x0405 s2))))
      (hostGroup s1 c hg = none → bad 0) ∧
      (∀ g, hostGroup s1 c hg = some g →
        let m := recField d.bytes 20 2
        let e := g.entries.getD m 0
        let mine := m < g.n ∧ entHost e = true ∧ entModule e = s1.golger.moduleId
        (¬mine → bad g.epoch) ∧
        (∀ k, mine → g.ctx = some k →
          (64 ≤ (s1.ctx k).queue.length → exec (.hostCollPost c n) s =
            .next (setDesc c n d.id (fun d => { d with started := false }) s)) ∧
          ((s1.ctx k).queue.length < 64 → (s1.ctx k).cur = none → (s1.ctx k).ending = [] → exec (.hostCollPost c n) s =
            .next (settleDoom (settleDoom ((startDesc c n d.id s1).setCtx k fun x => { x with queue := x.queue ++
              [⟨g.gid, m, bs, .host c n d.id (descIrq d) (BitVec.ofNat 64 (recField d.bytes 0 8)), 0, 0, 0⟩] }))))))) ∧
    (∀ g, nextOf s c n 4 (some 2) = some d → hostGroup s c hg = some g →
      ∃ t, exec (.hostCollClose c n) s = .next t ∧ ∀ x ∈ t.mortar.groups, x.gid ≠ g.gid)

/-! Golger (16) -/

/-- R412, R418, R424–R427: a port trains from DOWN or DISABLED and comes UP with SEQ 1 once all its lanes, or a whole half of
them, have trained, else goes DOWN with 0x0504. A take-down lets it drain; at the drain limit, or at a link fault, everything on it is abandoned and it
goes to the state that ADMIN and AUTO call for. A flit that has waited for a credit longer than the stall limit raises alarm 4, once. The identifier changes only with every port down. -/
def Obligations.GolgerPorts : Prop :=
  ∀ (s : State) (p : Nat), s.hostReady = true → s.hearthRuns = true → p < 12 → s.golger.lost = [] → s.mortar.doom = none →
    let g := s.port p
    let admin := bit g.ctrl.toNat 0
    exec (.portTakeDown p) s = .next (s.setPort p fun g => { g with
      ctrl := g.ctrl ||| 1, drainAt := if g.phase = .draining then g.drainAt else s.now
      phase := .draining }) ∧
    exec (.portTrain p) s = .next (s.setPort p fun g => { g with
      ctrl := g.ctrl &&& ~~~1#32, phase := if g.phase = .down ∨ g.phase = .disabled then .training else g.phase }) ∧
    (∀ ok lanes peer, g.phase ≠ .training → exec (.trainingComplete p ok lanes peer) s = .next s) ∧
    (∀ ok lanes peer, g.phase = .training →
      let fit := if lanes = 0xFF then 0xFF else if lanes &&& 0x0F = 0x0F then 0x0F else if lanes &&& 0xF0 = 0xF0 then 0xF0 else 0#8
      let good := ok = true ∧ fit ≠ 0
      let id := identityFlit p s.golger.moduleId
      ∃ t, exec (.trainingComplete p ok lanes peer) s = .next t ∧
        (good → (t.port p).phase = .up ∧ (t.port p).lanes = fit ∧ (t.port p).peer = some (peer % 2 ^ 17) ∧
          (t.port p).txSeq = 1 ∧ (t.port p).rxSeq = 1 ∧ (t.port p).msgs = [] ∧ (t.port p).replay = [(0, id)] ∧
          (∀ vc, (t.port p).credit vc = 256) ∧ t.out = s.out ++ [.flit p id]) ∧
        (¬good → (t.port p).phase = .down ∧ (t.port p).lastCode = 0x0504)) ∧
    (g.phase ≠ .draining ∨ s.now < g.drainAt + s.golger.drainLimit.toNat → exec (.drainLimitExpiry p) s = .next s) ∧
    (g.live = false → exec (.linkFault p) s = .next s) ∧
    (SMap.wf GPort.reset s.golger.ports = true →
      (g.phase = .draining → g.drainAt + s.golger.drainLimit.toNat ≤ s.now → ∃ t, exec (.drainLimitExpiry p) s = .next t ∧
        (t.port p).phase = (if admin then .disabled else .training) ∧ (t.port p).msgs = [] ∧ (t.port p).replay = []) ∧
      (g.live = true → ∃ t, exec (.linkFault p) s = .next t ∧ (t.port p).lastCode = 0x0501 ∧ (t.port p).msgs = [] ∧
        (t.port p).replay = [] ∧ (t.port p).phase = (if admin then .disabled
          else if bit g.ctrl.toNat 2 = true ∨ g.phase = .draining then .training else .down))) ∧
    (let late := fun vc => vc < 4 ∧ g.live = true ∧ g.credit vc = 0 ∧ (∃ m, g.headMsg vc = some m ∧ m.flits ≠ []) ∧
       s.golger.stallLimit.toNat < g.waits.get 0 vc ∧ g.stalled.get false vc = false
     (∀ vc, late vc → (∀ v, v < vc → ¬late v) →
       let s1 := s.setPort p fun g => { g with stalled := SMap.set false g.stalled vc true }
       exec (.stallLimitExpiry p) s = .next (settleDoom (raiseAlarm
         { s1 with golger := { s1.golger with stallCnt := satAdd s1.golger.stallCnt 1 } } 4 0 5))) ∧
     ((∀ vc, ¬late vc) → exec (.stallLimitExpiry p) s = .next s)) ∧
    (∀ v : W32, let off := ∀ q, q < 12 → (s.port q).phase = .down ∨ (s.port q).phase = .disabled
      (off → exec (.golgerModuleIdWrite v) s = .next { s with golger := { s.golger with moduleId := v.toNat % 8192 } }) ∧
      (¬off → exec (.golgerModuleIdWrite v) s = .next s))

/-- R415–R419, R421, R426: a port whose link is down ignores a flit. A damaged flit, and one out of order, is asked for
again; the eighth request in a row takes the port down. A flit in order is accepted, by its TYPE: a whole message for this module
goes to Mortar; an abort discards the message in reception. Idle and credit-only flits acknowledge and give credits; a replay
request sends the unacknowledged flits again. A codeword of 5,140 data bits that fails damages every flit that overlaps it. The
model's choices: a reserved TYPE does nothing, and the peer's identity flit began a codeword (log entries 183 and 184). -/
def Obligations.GolgerFlits : Prop :=
  ∀ (s : State) (p : Nat) (f : Flit), s.powered = true → p < 12 → s.golger.lost = [] → s.mortar.doom = none →
    SMap.wf GPort.reset s.golger.ports = true →
    let g := s.port p
    let h := parseFlit f.bytes
    let begins := g.cwPos = 0 ∨ 5140 < g.cwPos + 2048
    let marked := (g.cwPos ≠ 0 ∧ g.cwBad = true) ∨ (begins ∧ f.fecFailed = true)
    let s1 := s.setPort p fun g => (g.count cntRx 1).fec f
    let good := ¬marked ∧ flitCrcOk f = true
    let asks := fun i => ∃ t, exec i s = .next t ∧
      (g.rxAsks < 7 → t.out = s.out ++ [.flit p (flitBytes { type := ftReplay, seq := g.rxSeq, ack := g.ack } [])] ∧
        (t.port p).asked = true ∧ (t.port p).rxAsks = g.rxAsks + 1 ∧ (t.port p).rxSeq = g.rxSeq ∧ (t.port p).phase = g.phase) ∧
      (7 ≤ g.rxAsks → (t.port p).phase ≠ .up ∧ (t.port p).lastCode = 0x0501)
    let all : List Instr := [.dataFlit p f, .abortFlit p f, .idleFlit p f, .creditOnlyFlit p f, .replayRequest p f]
    (g.live = false → ∀ i ∈ all, exec i s = .next s) ∧
    (g.live = true → ¬good → ∀ i ∈ all, asks i) ∧
    (let q := g.fec f
     q.cwPos = (g.cwPos + 2048) % 5140 ∧ (begins → q.cwBad = f.fecFailed) ∧ (¬begins → q.cwBad = g.cwBad ∧ q.cnt = g.cnt)) ∧
    (g.live = true → good → ∀ i ∈ all,
      (h.type = 0 ∨ h.type = 2 →
        exec i s = .next (drainPort p (s1.setPort p fun g => (g.acked h.ack).addCredit h.cvc h.ccnt))) ∧
      (6 ≤ h.type → exec i s = .next s1) ∧
      (h.type = 1 ∨ h.type = 4 ∨ h.type = 5 →
        (h.seq ≠ g.rxSeq → g.asked = true → exec i s = .next s1) ∧ (h.seq ≠ g.rxSeq → g.asked = false → asks i)) ∧
      (h.seq = g.rxSeq →
        (h.type = 1 → h.first = true → h.last = true → h.dst = s.golger.moduleId → g.rx.get none h.vc = none →
          ∃ t, exec i s = .next t ∧ (t.port p).rxSeq = (g.rxSeq + 1) % 4096 ∧ (t.port p).asked = false ∧
            t.golger.inbox = s.golger.inbox ++ [⟨h.src, flitPayload f.bytes h.len⟩] ∧ t.mortar = s.mortar) ∧
        (h.type = 4 → ∀ r, g.rx.get none h.vc = some r → r.dest = .deliver →
          ∃ t, exec i s = .next t ∧ (t.port p).rxSeq = (g.rxSeq + 1) % 4096 ∧
            (t.port p).lastCode = 0x0506 ∧ t.golger.inbox = s.golger.inbox) ∧
        (h.type = 5 → ∃ t, exec i s = .next t ∧ (t.port p).rxSeq = (g.rxSeq + 1) % 4096 ∧ t.golger.inbox = s.golger.inbox)) ∧
      (h.type = 3 → let n := if g.txAsks.1 = h.seq then g.txAsks.2 + 1 else 1
       let s2 := s1.setPort p fun g => { (g.acked ((h.seq + 4095) % 4096)) with txAsks := (h.seq, n) }
       (n < 8 → exec i s = .next (drainPort p ((s2.port p).replay.foldl (fun s e => emitFlit p e.2 s) s2))) ∧
       (8 ≤ n → ∃ t, exec i s = .next t ∧ (t.port p).phase ≠ .up ∧ (t.port p).lastCode = 0x0501))) ∧
    (∀ vc d, SMap.wf 256 g.credits = true → (g.addCredit vc d).credit vc = min 256 (g.credit vc + d))

/-! Memory maintenance, power and Hearth's cores (13, 19, 20) -/

/-- R341–R346, R510, R535: a patrol-scrub access of a burst that its die serves moves the pass on, writes a corrected burst
back right and turns an uncorrectable one into poison; one that is mapped out, released or newer in the Lintel cache is passed
by. A pseudo-channel that has failed is marked, and mapped out once the driver has named its frames and the copy has ended: its
copied bursts arrive right, or as poison for what was lost. ZQ calibration and timing adjustment change nothing. -/
def Obligations.MemoryMaintenance : Prop :=
  ∀ (s : State) (die addr : Nat), s.powered = true → s.mem.wf = true → s.mortar.doom = none → die < 2 →
    exec (.zqCalibration die addr) s = .next s ∧ exec (.timingAdjustment die addr) s = .next s ∧
    (canonAddr addr = none → exec (.scrubBurst die addr) s = .next (settleDoom (hearthRetrain die s))) ∧
    (∀ ca, canonAddr addr = some ca →
      let b := burstBase ca
      let o := (decodeBurst s b).1
      let past := fun (t : State) => exec (.scrubBurst die addr) s =
        .next (settleDoom (hearthRetrain die (markFailing die (scrubPos die b t))))
      (homeDie b ≠ die → exec (.scrubBurst die addr) s = .next (settleDoom (hearthRetrain die s))) ∧
      (homeDie b = die → scrubSkips s die b = true → past s) ∧
      (homeDie b = die → scrubSkips s die b = false → past (scrubOne die b s)) ∧
      (isFallow b = false → s.mem.stuck.get [] (s.phys b) = [] →
        (s.errs b = [] → scrubOne die b s = s) ∧
        (∀ k, o = .corrected k → (scrubOne die b s).errs b = []) ∧
        (o = .uncorrectable ∨ o = .poisoned → (decodeBurst (scrubOne die b s) b).1 = .poisoned) ∧
        (o = .poisoned → hasCopy s b = true → (scrubOne die b s).mem.dev = s.mem.dev))) ∧
    (failingStack (s.die die) = none → hearthRetrain die s = s) ∧
    (∀ k, failingStack (s.die die) = some k → s.hearthRuns = true →
      let j : TestJob := ⟨4, 1, 6 * die + k, true, false⟩
      let t := hearthRetrain die s
      (t.die die).retrained = k :: (s.die die).retrained ∧
      (mayStart j s = true → t.test.job = some j) ∧ (mayStart j s = false → j ∈ t.test.waiting)) ∧
    (let m := s.die die
     let starts := s.hearthRuns = true ∧ s.stile.array = .free ∧ m.mapPending = true ∧ m.frames ≠ [] ∧ m.mapBusy = false
     (m.failing = [] → markFailing die s = s) ∧
     (∀ pc rest, m.failing = pc :: rest → s.hearthRuns = true → m.mapPending = false → bit m.mapout.toNat pc = false →
       s.mappedOut die < 16 → markFailing die s = askRelease die ((s.setDie die fun m => { m with failing := rest }).setDie die
         fun m => { m with mapPending := true, pendingPc := pc, frames := [] })) ∧
     (starts → exec (.mapoutCopyStart die) s = .next (s.setDie die fun m => { m with mapBusy := true })) ∧
     (¬starts → exec (.mapoutCopyStart die) s = .next s) ∧
     (m.mapBusy = false → exec (.mapoutCommit die) s = .next s) ∧
     (m.mapBusy = true → m.pendingPc < 192 →
       let moves := remapOf die m.pendingPc m
       let r := copyReads ((moves.map fun e => granuleBursts die e.1).flatten) s
       ∃ t, exec (.mapoutCommit die) s = .next t ∧ (t.die die).mapBusy = false ∧
         (t.die die).mapPending = false ∧ bit (t.die die).mapout.toNat m.pendingPc = true ∧
         (t.die die).released = m.released ++ m.frames ∧
         (t.die die).remap = moves.foldl (fun x e => SMap.set 0 x e.1 (e.2 + 1))
           (m.remap.filter fun e => !m.frames.contains (die * (hbmDie1Base / 65536) + e.1 / 256)) ∧
         (bit s.telem.ctrl.toNat 31 = false → let q := r.2.foldl copyArrives (r.1.setDie die fun _ => t.die die)
           t.mem.dev = q.mem.dev ∧ t.mem.errs = q.mem.errs ∧ (SMap.wf [] s.stile.residency = true → ∀ d, d < 2 →
             t.stile.residency.get [] d = (s.stile.residency.get [] d).filter fun e => !e.moved q die (moves.map (·.1))))) ∧
     (∀ b o, isFallow b = false → s.mem.stuck.get [] (s.phys b) = [] → let t := copyArrives s (b, o)
       (o = .uncorrectable ∨ o = .poisoned → (decodeBurst t b).1 = .poisoned) ∧
       (o ≠ .uncorrectable → o ≠ .poisoned → t.errs b = [] ∧ t.mem.dev = s.mem.dev)) ∧
     (let asks := s.hearthRuns = true ∧ m.mapPending = true ∧ m.frames = [] ∧ ∃ t, m.refusedAt = some t ∧ t + 3125000 ≤ s.now
      (asks → exec (.mapReleaseRetry die) s = .next (askRelease die (s.setDie die fun m => { m with refusedAt := none }))) ∧
      (¬asks → exec (.mapReleaseRetry die) s = .next s))) ∧
    (∀ mb msg, goodRequest s mb msg 0x41 12 →
      let s' := requested mb msg s
      let n := recField (msg.drop 16) 8 4
      let r := fun st t => exec (.mapReleaseAns mb msg) s = .next (answerWith mb 0x41 (mailSeq msg) st [] t)
      let refused := fun (d : Nat) (t : State) => t.setDie d fun m => { m with refusedAt := some t.now }
      (releaseDie s' = none → r 0x070A s') ∧ (∀ d, releaseDie s' = some d → n ≠ 18432 → r 0x070A (refused d s')) ∧
      (∀ d s1 st bs, releaseDie s' = some d → n = 18432 →
        physRead s' 0 false (recField (msg.drop 16) 0 8) (4 * n) = some (s1, st, bs) →
        let fs := (List.range n).map fun k => recField bs (4 * k) 4
        let good := st = 0 ∧ (∀ f ∈ fs, frameOk s d f = true) ∧ fs.eraseDups.length = n
        (¬good → r 0x070A (refused d s1)) ∧ (good → r 0 (s1.setDie d fun m => { m with frames := fs }))))

/-- R525–R529, R533–R535, R540: a reading beyond a trip limit switches the module off and freezes the crash record; else
the level rises to what the readings call for, falls one at a time once its conditions have been clear for 3,125 ticks, and the
clock step follows. Setts idle for PWR_GATE_IDLE ticks gate, and wake. The aging guard raises the rail, then lowers the top step. -/
def Obligations.PowerAndClocks : Prop :=
  ∀ (s : State), s.powered = true → s.conn.vin = true →
    (∀ w mv a, let s1 := s.setPower fun p => { p with watts := w, mv := mv, amps := a }
      (actOn s.power s1).power.level = max s.power.level (wantedLevel s1.power) ∧
      (mv < 42000 → exec (.supplySample w mv a) s = .next (tripOff 0x0801 (actOn s.power s1))) ∧
      (58000 < mv → exec (.supplySample w mv a) s = .next (tripOff 0x0802 (actOn s.power s1))) ∧
      (42000 ≤ mv → mv ≤ 58000 → 2200 < a → exec (.supplySample w mv a) s = .next (tripOff 0x0803 (actOn s.power s1))) ∧
      (42000 ≤ mv → mv ≤ 58000 → a ≤ 2200 → ∃ t, exec (.supplySample w mv a) s = .next t ∧
        t.power.level = max s.power.level (wantedLevel s1.power) ∧ t.power.mv = mv ∧ t.power.trip = none)) ∧
    (∀ tj, let s1 := s.setPower fun p => { p with tj := tj }
      (115 ≤ tj → exec (.junctionSample tj) s = .next (tripOff 0x0804 (actOn s.power s1))) ∧
      (tj < 115 → ∃ t, exec (.junctionSample tj) s = .next t ∧ t.power.tj = tj ∧
        t.power.level = max s.power.level (wantedLevel s1.power) ∧
        (s.power.level < 2 → 2 ≤ t.power.level → t.power.step = 8 ∧ t.power.emergCnt = satAdd s.power.emergCnt 1) ∧
        (wantedLevel s1.power ≤ s.power.level → t.power = s1.power))) ∧
    (∀ rail, exec (.regulatorFault rail) s = .next (tripOff 0x0805 s)) ∧
    (∀ code, let t := tripOff code s
      t.powered = false ∧ t.conn.linkUp = false ∧ t.conn.tripLow = true ∧ (s.telem.crash = none → t.telem.crash.map (·.code) = some code) ∧
      t.out.drop (t.out.length - 2) = [.pin 1 true, .pin 2 false]) ∧
    (let falls := levelClear s.power s.power.level = true ∧ 3125 ≤ s.power.clear.get 0 s.power.level
     let fell := s.setPower fun p => { p with level := p.level - 1, step := stepAt p (p.level - 1) }
     (falls → exec .levelFall s = .next (settleCodec (takeAnswers fell))) ∧
     (falls → s.codec.streams = [] → s.stile.cur = none → exec .levelFall s = .next fell) ∧
     (¬falls → exec .levelFall s = .next s)) ∧
    (s.power.level = 1 → wantedLevel s.power = 1 → exec .clockStepDown s =
      .next (s.setPower fun p => { p with step := max 8 (p.step - 1) })) ∧
    (s.power.level ≠ 1 ∨ wantedLevel s.power ≠ 1 → exec .clockStepDown s = .next s) ∧
    (let rises := s.power.level = 1 ∧ 100 * s.power.watts < 95 * s.power.limit ∧ 3125 ≤ s.power.room
     (rises → exec .clockStepUp s = .next (s.setPower fun p => { p with step := min p.fmax (p.step + 1), room := 0 })) ∧
     (¬rises → exec .clockStepUp s = .next s)) ∧
    (∀ x, s.hearthRuns = true →
      (Config.agingThreshold ≤ x → exec (.agingReadout x) s = .next s) ∧
      (x < Config.agingThreshold → s.power.railMv < 40 →
        exec (.agingReadout x) s = .next (s.setPower fun p => { p with railMv := p.railMv + 5 })) ∧
      (x < Config.agingThreshold → 40 ≤ s.power.railMv →
        exec (.agingReadout x) s = .next (raiseAlarm (setFmax (s.power.fmax - 1) s) 5 0 8))) ∧
    (s.stile.array ≠ .free ∨ s.readyRuns ≠ [] ∨ s.power.idle < s.power.gateIdle.toNat → exec .gateIdleExpiry s = .next s) ∧
    (s.stile.array = .free → s.readyRuns = [] → s.power.gateIdle.toNat ≤ s.power.idle → SMap.wf Sett.reset s.setts = true → ∃ t, exec .gateIdleExpiry s = .next t ∧
      ∀ i, t.sett i = if (s.sett i).phase = .idle ∨ (s.sett i).phase = .completed ∨ (s.sett i).phase = .saved
        then { s.sett i with phase := .gated } else s.sett i) ∧
    (∀ unit, (70 < unit → ∀ ok, exec (.wakeComplete unit ok) s = .next s) ∧
      (unit ≤ 70 → exec (.wakeComplete unit false) s = .next (raiseEvent s 0x0806 8 0 (leBytes unit 12))) ∧
      (unit < 34 → SMap.wf Sett.reset s.setts = true → ∃ t, exec (.wakeComplete unit true) s = .next t ∧
        ∀ i, t.sett i = if ¬(i / 204 = unit / 17 ∧ i % 17 = unit % 17) then s.sett i
          else if (s.sett i).phase = .gated then { s.sett i with phase := .idle } else { s.sett i with asleep := false }) ∧
      (34 ≤ unit → unit < 58 → let c := unit - 34
        ((s.core c).ctx = none → exec (.wakeComplete unit true) s = .next s) ∧
        (∀ k, (s.core c).ctx = some k → exec (.wakeComplete unit true) s =
          .next (workCore c (s.setCore c fun q => { q with awake := true })))) ∧
      (58 ≤ unit → exec (.wakeComplete unit true) s = .next s))

/-- R492–R494, R539, R540, R555: a core's watchdog, its period after the last kick, restarts it, and keeps it halted
with alarm 3 once its restarts within an
hour pass the limit; a duty goes to the next core in service. The first fatal error freezes the crash record, which the
flash keeps and REARM clears; later ones count. A telemetry sample is gathered each period. -/
def Obligations.HearthCores : Prop :=
  ∀ (s : State) (k : Nat), s.hostReady = true → s.mortar.doom = none → k < 4 →
    let h := s.hcore k
    let times := s.now :: h.times.filter fun t => decide (s.now < t + hourTicks)
    (s.hearth.stage < 4 ∨ h.halted = true ∨ s.now < h.kick + s.hearth.wdogPeriod.toNat → exec (.hearthWdogExpiry k) s = .next s) ∧
    (4 ≤ s.hearth.stage → h.halted = false → h.kick + s.hearth.wdogPeriod.toNat ≤ s.now → ∃ t, exec (.hearthWdogExpiry k) s = .next t ∧
      (t.hcore k).restarts = satAdd h.restarts 1 ∧ (t.hcore k).kick = s.now ∧ (t.hcore k).times = times ∧
      (times.length ≤ s.hearth.wdogLimit.toNat % 256 → (t.hcore k).halted = false) ∧
      (s.hearth.wdogLimit.toNat % 256 < times.length → (t.hcore k).halted = true ∧ t.telem.alarm.getLsbD 3 = true ∧
        ∀ d, dutyCore t d ≠ some k)) ∧
    exec (.kick k) s = .next (s.setHcore k fun h => { h with kick := s.now }) ∧
    (∀ c, let f := freeStatus 7 s
      exec (.hearthMemoryUncorrectable c) s = .next (settleDoom (freezeCrash f.1 f.2)) ∧ f.1 / 256 = 7 ∧ f.1 % 256 ≠ 0) ∧
    (∀ code, (s.telem.crash = none → ∃ r, (freezeCrash code s).telem.crash = some r ∧ r.code = code ∧ r.time = s.now ∧
        (freezeCrash code s).telem.alarm.getLsbD 7 = true ∧ (freezeCrash code s).telem.inFlash = false) ∧
      (s.telem.crash ≠ none → freezeCrash code s = s.setTelem fun t => { t with later := min 8191 (t.later + 1) })) ∧
    exec .rearm s = .next (s.setTelem fun t => { t with crash := none, inFlash := false, later := 0 }) ∧
    (s.telem.crash = none ∨ s.telem.inFlash = true → exec .crashCopyComplete s = .next s) ∧
    (∀ r, s.telem.crash = some r → s.telem.inFlash = false → s.conn.vin = true → s.hearth.stage ≠ 0 →
      let n := s.hearth.crashSeq
      ∃ t, exec .crashCopyComplete s = .next t ∧ t.telem.inFlash = true ∧ t.hearth.crashSeq = n + 1 ∧
        (SMap.wf flashBlank s.hearth.flash = true →
          t.flashBytes (crashBase + 4096 * (n % 256)) 4096 = r.bytes (n % 2 ^ 32)) ∧ t.telem.crash = some r) ∧
    (s.hearthRuns = true → exec .telemetrySample s = .next
      ((if s.telem.gathered then writeLog (leBytes s.now 8 ++ sampleBytes s.power) s else s).setTelem fun t =>
        { t.traced 7 (sampleBytes s.power) with gathered := true })) ∧
    (∀ src data, let x := s.telem
      (x.traced src data).traceSeq = SMap.set 0 x.traceSeq src (x.traceSeq.get 0 src + 1) ∧
      ((x.traced src data).trace = x.trace ∨ ∃ r, r.length = 16 ∧ (x.traced src data).trace = x.trace ++ [r] ∧
        recField r 0 4 = (x.traceSeq.get 0 src).toNat)) ∧
    (SMap.wf flashBlank s.hearth.flash = true → ∀ bs, let g := s.hearth.log
      let t := writeLog bs s
      let fits := g.used + 4 + bs.length ≤ 65536
      bs.length ≤ 65532 → t.hearth.log.seq = g.seq + 1 ∧
        (fits → t.hearth.log.block = g.block ∧ t.hearth.log.erases = g.erases) ∧
        (¬fits → g.block < 976 → t.hearth.log.block ≠ g.block ∧ ∀ k, k < 976 → k ≠ g.block →
          g.erases.get 0 t.hearth.log.block ≤ g.erases.get 0 k) ∧
        t.flashBytes (logBase + 65536 * t.hearth.log.block + (t.hearth.log.used - 4 - bs.length)) (4 + bs.length) =
          leBytes g.seq.toNat 4 ++ bs)

/-! Mailboxes, firmware and SPDM (19) -/

/-- R506–R509, R511, R513, R514, R555: what a mailbox answers. A request with a bad length, CRC or version, of a type not
taken, or repeated is answered as R507 says; a good one with its type's status and data. NACK posts the next waiting
notification; MAILBOX_RESET leaves mailbox 0 as before HELLO. -/
def Obligations.Mailboxes : Prop :=
  ∀ (s : State) (mb : Nat) (msg : List Byte),
    let seq := mailSeq msg
    let s' := requested mb msg s
    let pay := msg.drop 16
    let a4 := recField pay 0 4
    let n4 := recField pay 4 4
    let r := fun (i : Instr) (type st : Nat) (data : List Byte) (t : State) =>
      exec i s = .next (answerWith mb type seq st data t)
    (mailOpen s mb = true → s.hearth.staging = none → ∀ act,
      let len := recField msg 8 4
      let body := pay.take len
      let fine := body.length = len ∧ recField msg 12 4 = crc32c (msg.take 12 ++ body)
      let ans := fun st => arrive mb msg act s = sendAnswer mb seq (responseOf s' mb (mailType msg) seq st []) s'
      (4080 < len → ans 0x0704) ∧ (len ≤ 4080 → ¬fine → ans 0x0702) ∧
      (len ≤ 4080 → fine → ∀ bs, (s.box mb).last = some (seq, bs) → arrive mb msg act s = sendAnswer mb seq bs s') ∧
      (len ≤ 4080 → fine → (s.box mb).last.map (·.1) ≠ some seq →
        (mailType msg ≠ 1 → (s.box mb).version ≠ some (recField msg 0 1, recField msg 1 1) →
          arrive mb msg act s = answerWith mb (mailType msg) seq 0x0701 [] s') ∧
        (mailType msg = 1 ∨ (s.box mb).version = some (recField msg 0 1, recField msg 1 1) →
          typeAllowed s mb (mailType msg) = false →
          arrive mb msg act s = answerWith mb (mailType msg) seq 0x0703 [] s'))) ∧
    (mailOpen s mb = true → typeAllowed s mb (mailType msg) = false →
      exec (.unknownMessageType mb msg) s = .next (arrive mb msg (fun _ s => .now 0x0703 [] s) s)) ∧
    (goodRequest s mb msg 0x01 3 →
      (recField pay 0 1 < 1 ∨ 1 < recField pay 2 1 → r (.hello mb msg) 0x01 0x0701 [] s') ∧
      (1 ≤ recField pay 0 1 → recField pay 2 1 ≤ 1 → let v := (1, min 1 (recField pay 1 1))
        r (.hello mb msg) 0x01 0 (leBytes 1 1 ++ leBytes v.2 1) (s'.setHearth fun h => { h with
          boxes := SMap.modify Mailbox.reset h.boxes mb fun b => { b with version := some v } }))) ∧
    (goodRequest s mb msg 0x02 0 → r (.getInfo mb msg) 0x02 0 (infoData s) s') ∧
    (goodRequest s mb msg 0x15 0 → r (.fwStatus mb msg) 0x15 0 (leBytes (fwStatusWord s) 4) s') ∧
    (goodRequest s mb msg 0x20 8 →
      (4064 < n4 ∨ 4096 < a4 + n4 → r (.otpRead mb msg) 0x20 0x0704 [] s') ∧
      (n4 ≤ 4064 → a4 + n4 ≤ 4096 → r (.otpRead mb msg) 0x20 0 (s.otpBytes a4 n4) s')) ∧
    (goodRequest s mb msg 0x21 252 →
      let n := Config.otpDone s.fresh
      (blankGen s = none → r (.otpWriteGen mb msg) 0x21 0x0906 [] s') ∧
      (∀ k, blankGen s = some k → SMap.wf 0 s.hearth.otp = true → ∃ b : List Byte, b.length = 252 ∧
        b.drop 3 = (pay.drop 3).take 249 ∧ recField b 0 2 = (((rulingGen s).map fun b => recField b 0 2).getD 0 + 1) % 65536 ∧
        recField b 2 1 = 0xA5 ∧ ∃ t st, r (.otpWriteGen mb msg) 0x21 st [] t ∧ t.stile = s'.stile ∧
          (∀ a, a < 0x400 + 256 * k ∨ 0x500 + 256 * k ≤ a → t.otpBytes a 1 = s.otpBytes a 1) ∧
          (256 ≤ n → st = 0 ∧ genBytes t k = b ++ leBytes (crc32c b) 4) ∧
          (n < 256 → st = 0x0907 ∧ recField (genBytes t k) 2 1 = 0))) ∧
    (goodRequest s mb msg 0x22 1 → let k := recField pay 0 1
      let own := runningField s 7 1
      let ok := k ≤ 3 ∧ k ≠ own ∧ keyPresent s own = true ∧ keyRevoked s own = false
      (ok → r (.otpRevoke mb msg) 0x22 0 [] (otpProgram 0x200 (leBytes (2 ^ k) 1) s')) ∧
      (¬ok → r (.otpRevoke mb msg) 0x22 0x0902 [] s')) ∧
    (goodRequest s mb msg 0x30 12 → let a := recField pay 0 8
      let n := recField pay 8 4
      (4076 < n ∨ logBytes < a + n → r (.logRead mb msg) 0x30 0x0704 [] s') ∧
      (n ≤ 4076 → a + n ≤ logBytes → r (.logRead mb msg) 0x30 0 (s.flashBytes (logBase + a) n) s')) ∧
    (goodRequest s mb msg 0x31 8 →
      (4076 < n4 ∨ 2 ^ 20 < a4 + n4 → r (.crashRead mb msg) 0x31 0x0704 [] s') ∧
      (n4 ≤ 4076 → a4 + n4 ≤ 2 ^ 20 → r (.crashRead mb msg) 0x31 0 ((iota a4 n4).map (crashByte s)) s')) ∧
    (s.hearthRuns = false → exec .nack s = .next s) ∧
    (s.hostReady = true → s.hearthRuns = true →
      (s.hearth.waiting = [] → exec .nack s = .next (s.setHearth fun h => { h with notify := false })) ∧
      (∀ bs rest, s.hearth.waiting = bs :: rest → s.hearth.notify = true → exec .nack s =
        .next (showNote bs (s.setHearth fun h => { h with waiting := rest, notify := false }))) ∧
      ∃ t, exec .mailboxReset s = .next t ∧ t.hearth.posted = false ∧ t.hearth.response = false ∧
        t.hearth.notify = s.hearth.notify ∧ t.hearth.waiting = s.hearth.waiting ∧
        (SMap.wf Mailbox.reset s.hearth.boxes = true → t.box 0 = Mailbox.reset))

/-- R498, R515–R518, R520, R521: FW_STAGE writes the slot that is not active and answers at its end; FW_VERIFY answers the
code of R498; activation needs a verified image and a level below 2, else it is deferred until the level clears or it is
cancelled; FW_COMMIT ends the trial and raises the SVN count. PLDM's ActivateFirmware takes the same course. -/
def Obligations.FirmwareUpdate : Prop :=
  ∀ (s : State) (mb : Nat) (msg : List Byte),
    let seq := mailSeq msg
    let s' := requested mb msg s
    let pay := msg.drop 16
    let n := recField pay 8 4
    let r := fun (i : Instr) (type st : Nat) (data : List Byte) (t : State) =>
      exec i s = .next (answerWith mb type seq st data t)
    (goodRequest s mb msg 0x10 12 →
      (n = 0 ∨ slotBytes < n → r (.fwStage mb msg) 0x10 0x0704 [] s') ∧
      (0 < n → n ≤ slotBytes → exec (.fwStage mb msg) s = .next ((setFw .staging 0 s').setHearth fun h => { h with
        staged := false, staging := some ⟨mb, seq, recField pay 0 8, n, false⟩ }))) ∧
    (∀ ok, s.hearth.staging = none → exec (.fwStageComplete ok) s = .next s) ∧
    (∀ ok g s1 bs, s.hearthRuns = true → s.hearth.staging = some g → g.lost = false → g.mb < 8 → physRead s 0 false g.src g.bytes = some (s1, 0, bs) →
      ok = true → let base := slotBase (otherSlot s)
      let t := writeFlash base bs (eraseSlot base s1)
      exec (.fwStageComplete ok) s = .next (answerWith g.mb 0x10 g.seq 0 [] ((setFw .staged 0 t).setHearth fun h => { h with
        staging := none, stagedSlot := otherSlot s }))) ∧
    (goodRequest s mb msg 0x11 0 → let code := verifyImage s (otherSlot s)
      let good := if s.hearth.fwState = .deferred then .deferred else .verified
      r (.fwVerify mb msg) 0x11 code [] ((setFw (if code = 0 then good else .failed) code s').setHearth fun h => { h with
        staged := decide (code = 0), stagedSlot := otherSlot s })) ∧
    (goodRequest s mb msg 0x12 0 →
      (s.hearth.staged = false → r (.fwActivate mb msg) 0x12 0x0707 [] s') ∧
      (s.hearth.staged = true → 2 ≤ s.power.level → r (.fwActivate mb msg) 0x12 0x0706 (leBytes s.power.level 1)
        ((setFw .deferred 0x0706 s').setHearth fun h => { h with fwLevel := s.power.level })) ∧
      (s.hearth.staged = true → s.power.level < 2 → r (.fwActivate mb msg) 0x12 0 [] (activateSoon s'))) ∧
    (copyRuns s = true → activateSoon s = setFw .activating 0 s) ∧
    (copyRuns s = false → s.hearth.recovery = false → SMap.wf HCore.reset s.hearth.cores = true → let t := activateSoon s
      t.hearth.fwState = .trial ∧ t.hearth.onTrial = true ∧ t.hearth.staged = false ∧ t.hearth.fwCode = 0 ∧ t.mem = s.mem ∧
      t.stile = s.stile ∧ t.setts = s.setts ∧ (∀ k, k < 4 → (t.hcore k).halted = false)) ∧
    (s.hearthRuns = true → s.hearth.fwState = .deferred → s.power.level < 2 → 3125000 ≤ s.power.calm →
      exec .activationClearExpiry s = .next (activateSoon s)) ∧
    (s.hearth.fwState ≠ .deferred ∨ 2 ≤ s.power.level ∨ s.power.calm < 3125000 → exec .activationClearExpiry s = .next s) ∧
    (goodRequest s mb msg 0x13 0 →
      (s.hearth.fwState ≠ .deferred → r (.fwCancel mb msg) 0x13 0 [] s') ∧
      (s.hearth.fwState = .deferred → r (.fwCancel mb msg) 0x13 0 []
        (fwEvent 0x0708 2 (imgField s (otherSlot s) 12 4) (setFw .verified 0x0708 s')))) ∧
    (goodRequest s mb msg 0x14 0 → ∃ t, r (.fwCommit mb msg) 0x14 0 [] t ∧ t.hearth.onTrial = false ∧ t.hearth.fwState ≠ .trial ∧
      (runningSvn s ≤ svnCount s → t.hearth.otp = s.hearth.otp)) ∧
    (∀ path body, (path = 1 ∧ s.conn.linkUp = true ∨ path = 2) → s.hearthRuns = true →
      let dest := if path = 2 then 0x60 + s.conn.straps.toNat % 8 else 0
      (s.hearth.staged = false → exec (.activateFirmware path body) s = .next (s.emit (.answer (24 + path) dest [0x85]))) ∧
      (s.hearth.staged = true → 2 ≤ s.power.level → exec (.activateFirmware path body) s = .next
        (((setFw .deferred 0x0706 s).setHearth fun h => { h with fwLevel := s.power.level }).emit (.answer (24 + path) dest [0]))) ∧
      (s.hearth.staged = true → s.power.level < 2 →
        exec (.activateFirmware path body) s = .next ((activateSoon s).emit (.answer (24 + path) dest [0])))) ∧
    (∀ body, exec (.activateFirmware 0 body) s = .next s)

/-- R503–R505, R519: SPDM requests on a path that is open. VERSION names 1.2 alone; measurements come from the slots; a
certificate portion is cut from the chain, and another slot is an error; unsupported codes answer with the error
UnsupportedRequest. Set Endpoint ID takes any ID but the two reserved ones. -/
def Obligations.SpdmAnswers : Prop :=
  ∀ (s : State) (path : Nat) (body : List Byte), pathOpen s path = true →
    let code := recField body 1 1
    let dest := if path = 2 then 0x60 + s.conn.straps.toNat % 8 else 0
    let came := s.hearth.spdm.get 0 path
    let ans := fun (i : Instr) (bs : List Byte) (t : State) => exec i s = .next (t.emit (.answer (8 + path) dest bs))
    let reach := fun (n : Nat) (t : State) => t.setHearth fun h => { h with spdm := SMap.set 0 h.spdm path n }
    let sig := fun (m : List Byte) => m ++ (iota 0 132).map (Config.identitySign (body ++ m))
    let fresh := reach 3 { s with fresh := s.fresh + 32 }
    let nonce := (iota s.fresh 32).map Config.freeByte
    let chain := sha512 (chainBytes s)
    let all := (List.range 7).map (measBlock s) ++ [logBlock s]
    (∀ p ∈ [(0x84, .getVersion path body), (0xE1, .getCapabilities path body), (0xE3, .negotiateAlgorithms path body),
        (0x81, .getDigests path body), (0x82, .getCertificate path body), (0x83, .challenge path body), (0xE0, .getMeasurements path body)],
      code ≠ p.1 → exec p.2 s = .next s) ∧
    (code = 0xE1 → came ≠ 1 → ans (.getCapabilities path body) (spdmMsg 0x12 0x7F 4 0 []) s) ∧
    (code = 0xE3 → came ≠ 2 → ans (.negotiateAlgorithms path body) (spdmMsg 0x12 0x7F 4 0 []) s) ∧
    (came < 3 → ∀ p ∈ [(0x81, .getDigests path body), (0x82, .getCertificate path body), (0x83, .challenge path body),
        (0xE0, .getMeasurements path body)], code = p.1 → ans p.2 (spdmMsg 0x12 0x7F 4 0 []) s) ∧
    (code = 0x84 → ans (.getVersion path body) (spdmMsg 0x10 0x04 0 0 [0, 1, 0, 0x12]) (reach 1 s)) ∧
    (code = 0xE1 → came = 1 → ∃ m, ans (.getCapabilities path body) m (reach 2 s) ∧ m.length = 20 ∧
      m.take 5 = [0x12, 0x61, 0, 0, 0] ∧ recField m 8 4 = 0x16) ∧
    (code = 0xE3 → came = 2 → ∃ m, ans (.negotiateAlgorithms path body) m (reach 3 s) ∧ m.length = 36 ∧ recField m 1 1 = 0x63 ∧
      recField m 12 4 = (if bit (recField body 8 4) 8 then 0x100 else 0) ∧ recField m 16 4 = (if bit (recField body 12 4) 2 then 4 else 0)) ∧
    (code = 0x81 → 3 ≤ came → ans (.getDigests path body) (spdmMsg 0x12 0x01 0 1 chain) (reach 3 s)) ∧
    (code = 0x82 → 3 ≤ came → let off := recField body 4 2
      let n := min (recField body 6 2) (chainLen s - off)
      (recField body 2 1 % 16 ≠ 0 ∨ chainLen s ≤ off → ans (.getCertificate path body) (spdmMsg 0x12 0x7F 1 0 []) (reach 3 s)) ∧
      (recField body 2 1 % 16 = 0 → off < chainLen s → ans (.getCertificate path body)
        (spdmMsg 0x12 0x02 0 0 (leBytes n 2 ++ leBytes (chainLen s - off - n) 2 ++ ((chainBytes s).drop off).take n)) (reach 3 s))) ∧
    (code = 0x83 → 3 ≤ came → (recField body 2 1 ≠ 0 → ans (.challenge path body) (spdmMsg 0x12 0x7F 1 0 []) (reach 3 s)) ∧
      (recField body 2 1 = 0 → let sum := if recField body 3 1 = 0 then [] else sha512 all.flatten
        ans (.challenge path body) (sig (spdmMsg 0x12 0x03 0 1 (chain ++ nonce ++ sum ++ leBytes 0 2))) fresh)) ∧
    (code = 0xE0 → 3 ≤ came → let op := recField body 3 1
      (7 < op → op ≠ 0xFE → op ≠ 0xFF → ans (.getMeasurements path body) (spdmMsg 0x12 0x7F 1 0 []) (reach 3 s)) ∧
      (op ≤ 7 ∨ op = 0xFE ∨ op = 0xFF →
        let bs := if op = 0 then [] else if op = 0xFE then [logBlock s] else if op = 0xFF then all else [measBlock s (op - 1)]
        let m := spdmMsg 0x12 0x60 (if op = 0 then 8 else 0) 0
          (leBytes bs.length 1 ++ leBytes bs.flatten.length 3 ++ bs.flatten ++ nonce ++ leBytes 0 2)
        ans (.getMeasurements path body) (if bit (recField body 2 1) 0 then sig m else m) fresh)) ∧
    (∀ k, (measBlock s k).length = 71 ∧ recField (measBlock s k) 7 64 = (SMap.get 0 s.hearth.meas k).toNat) ∧
    (spdmSupported code = true → exec (.spdmUnsupportedRequest path body) s = .next s) ∧
    (spdmSupported code = false → ans (.spdmUnsupportedRequest path body) (spdmMsg 0x12 0x7F 7 code []) s) ∧
    (path = 0 → ∀ eid, exec (.setEndpointId path eid) s = .next s) ∧
    (path ≠ 0 → ∀ eid : BitVec 8, (eid = 0 ∨ eid = 0xFF → exec (.setEndpointId path eid) s = .next (s.emit (.answer (16 + path) dest [2]))) ∧
      (eid ≠ 0 → eid ≠ 0xFF → exec (.setEndpointId path eid) s =
        .next ((s.setHearth fun h => { h with eid := eid }).emit (.answer (16 + path) dest [0, 0, eid, 0]))))

/-! Tests, resets, boot and registers (2, 21–23) -/

/-- R294, R536, R544–R547, R556, R558: while a command runs a further one is ignored with 0x0A01. FENCE takes a sett out of
service and ends the run that owns it, or has it placed again where it has not issued yet; a self-test needs a fenced sett or a
disabled port; RETRAIN waits for the job boundary; each ends with its code. -/
def Obligations.DeviceTests : Prop :=
  ∀ (s : State) (i unit : Nat) (urgent persist pass : Bool), s.hostReady = true → s.hearthRuns = true →
    let at_ := fun (j : TestJob) => { s with test := { s.test with cmd := cmdWord j, code := 0 } }
    let runsJob := fun (j : TestJob) (w : List TestJob) (t : State) => t.test.job = some j ∧ t.test.waiting = w ∧ t.test.code = 0
    let jt : TestJob := ⟨3, unit, i, urgent, persist⟩
    let jr : TestJob := ⟨4, unit, i, urgent, false⟩
    let ready := s.stile.array = .free ∧ copyRuns s = false
    let begun := fun (j : TestJob) (t : State) => { t with test := { t.test with job := some j } }
    let held := fun (j : TestJob) (t : State) =>
      let w := t.test.waiting
      if urgent then startPreempt { t with test := { t.test with waiting := w.filter (·.urgent) ++ j :: w.filter (!·.urgent) } }
      else { t with test := { t.test with waiting := w ++ [j] } }
    (s.test.job ≠ none → ∀ c ∈ [.fence i, .unfence i, .selfTest unit i urgent persist, .retrain unit i urgent],
      exec c s = .next (setCode 0x0A01 s)) ∧
    (s.test.job = none →
      (407 < i → exec (.fence i) s = .next (setCode 0x0A04 (at_ ⟨1, 0, i, false, false⟩)) ∧
        exec (.unfence i) s = .next (setCode 0x0A04 (at_ ⟨2, 0, i, false, false⟩))) ∧
      (i ≤ 407 → let s0 := at_ ⟨1, 0, i, false, false⟩
        let s1 := { s0 with test := { s0.test with fenced := SMap.set false s.test.fenced i true } }.setSett i fun t =>
          { t with phase := .fenced, retained := none }
        (s.stile.array = .saving ∨ ownedBy s i = false → exec (.fence i) s = .next s1) ∧
        (∀ r, s.stile.cur = some r → s.stile.array = .admitting → r.issued = false → ownedBy s i = true →
          exec (.fence i) s = .next (placeAgain s1 r)) ∧
        (s.stile.array ≠ .saving → s.stile.array ≠ .admitting ∨ (s.stile.cur.any fun r => r.issued) = true →
          ownedBy s i = true → s.settMode i = 0 →
          exec (.fence i) s = .next (endRun (stopOthers i s1) 0x0203) ∧ (endRun (stopOthers i s1) 0x0203).stile.cur = none)) ∧
      (i ≤ 407 → (s.sett i).phase = .fenced → ∃ t, exec (.unfence i) s = .next t ∧ (t.sett i).phase = .idle ∧ t.stile = s.stile) ∧
      (unit ≠ 0 → unit ≠ 3 → exec (.selfTest unit i urgent persist) s = .next (setCode 0x0A04 (at_ jt))) ∧
      (unit = 0 → i ≤ 407 → s.test.fenced.get false i = false →
        exec (.selfTest unit i urgent persist) s = .next (setCode 0x0A03 (at_ jt))) ∧
      (unit = 0 → i ≤ 407 → s.test.fenced.get false i = true → ∃ t, exec (.selfTest unit i urgent persist) s = .next t ∧
        runsJob jt s.test.waiting t ∧ (t.sett i).phase = .selfTest ∧ (t.sett i).mode = 1) ∧
      (unit = 3 → 11 < i → exec (.selfTest unit i urgent persist) s = .next (setCode 0x0A04 (at_ jt))) ∧
      (unit = 3 → i < 12 →
        ((s.port i).phase ≠ .disabled → exec (.selfTest unit i urgent persist) s = .next (setCode 0x0A03 (at_ jt))) ∧
        ((s.port i).phase = .disabled → routeNames s i = false ∨ ready →
          exec (.selfTest unit i urgent persist) s = .next (begun jt (at_ jt))) ∧
        ((s.port i).phase = .disabled → routeNames s i = true → ¬ready →
          exec (.selfTest unit i urgent persist) s = .next (held jt (at_ jt)))) ∧
      (let known := unit = 1 ∧ i ≤ 11 ∨ unit = 2 ∧ i ≤ 15
       (¬known → exec (.retrain unit i urgent) s = .next (setCode 0x0A04 (at_ jr))) ∧
       (known → ready → exec (.retrain unit i urgent) s = .next (begun jr (at_ jr))) ∧
       (known → ¬ready → exec (.retrain unit i urgent) s = .next (held jr (at_ jr))))) ∧
    (s.test.waiting = [] → exec .testDeferredStart s = .next s) ∧
    (∀ j rest, s.test.waiting = j :: rest → s.test.job = none → ready →
      let s1 := { s with test := { s.test with waiting := rest, code := 0 } }
      (j.op ≠ 3 → exec .testDeferredStart s = .next (begun j s1)) ∧
      (j.op = 3 → j.unit = 3 → j.index < 12 → exec .testDeferredStart s =
        .next (if (s.port j.index).phase = .disabled then begun j s1 else setCode 0x0A03 s1))) ∧
    (∀ j, s.test.job = some j →
      (j.op = 3 → j.unit = 0 → ∃ t, exec (.selfTestComplete pass) s = .next t ∧ t.test.job = none ∧ (t.sett j.index).phase = .fenced ∧
        (t.sett j.index).mode = 0 ∧ (pass = true ∨ j.persist = false → t.test.code = if pass then 0 else 0x0204)) ∧
      (j.op = 3 → j.unit ≠ 0 → ∃ t, exec (.selfTestComplete pass) s = .next t ∧ t.test.job = none ∧ t.setts = s.setts ∧
        (pass = true → t.test.code = 0)) ∧
      (j.op = 4 → s.codec.streams = [] → ∃ t, exec (.retrainComplete pass) s = .next t ∧ t.test.job = none ∧ t.setts = s.setts ∧
        (pass = true → t.test.code = 0)) ∧
      (j.op = 4 → ∃ t, exec (.retrainComplete pass) s = .next (workAll t) ∧ t.test.job = none ∧ t.setts = s.setts ∧
        t.codec = s.codec ∧ (pass = true → t.test.code = 0)) ∧
      (j.op ≠ 3 → exec (.selfTestComplete pass) s = .next s) ∧ (j.op ≠ 4 → exec (.retrainComplete pass) s = .next s)) ∧
    (s.test.job = none → exec (.retrainComplete pass) s = .next s ∧
      ∀ c, ((List.range 24).find? fun c => (s.core c).testing) = some c →
        exec (.selfTestComplete pass) s = .next (s.setCore c fun q => { q with testing := false, testFail := !pass }))

/-- R499–R502, R552–R554, R566–R569, R571, R573: what each reset clears and keeps. A warm reset keeps memory, flash, OTP,
Golger's routes and ports; a cold one keeps flash and OTP; loss of input power takes the always-on domain too. Boot stops at
the step that fails, and with RECOVERY# low, or no readable flash, runs the recovery kernel. -/
def Obligations.ResetLevels : Prop :=
  ∀ (s : State), s.conn.vin = true →
    let clears := fun (t : State) => t.setts = [] ∧ t.cairn = [] ∧ t.stile = Stile.reset ∧ t.xlat = Xlat.reset ∧
      t.mortar = Mortar.reset ∧ t.codec = Codec.reset ∧ t.hearth.stage = 0 ∧ t.hearth.ready = false ∧ t.conn.linkUp = false ∧
      t.test.job = none ∧ t.shadow = [] ∧ t.staging = [] ∧ t.woLow = [] ∧ t.mem.lines = [] ∧ t.mem.waits = [] ∧
      t.conn.cfg = [] ∧ t.conn.msix = [] ∧ t.conn.pba = []
    (let t := warmReset s
     s.powered = true → clears t ∧ t.aon = s.aon ∧ t.golger.routes = s.golger.routes ∧ t.golger.moduleId = s.golger.moduleId ∧
     (SMap.wf GPort.reset s.golger.ports = true → ∀ p, (t.port p).phase = (s.port p).phase) ∧ t.test.last = 1 ∧ t.test.memKept = true ∧
     t.test.code = (if s.test.job = none then 0 else 0x0A05) ∧ t.test.count = satAdd s.test.count 1 ∧
     (copyRuns s = false → bit s.telem.ctrl.toNat 31 = false → s.hearth.staging = none → (∀ k, (s.line k).dirty = 0) → t.mem.dev = s.mem.dev ∧ t.mem.errs = s.mem.errs ∧
       t.hearth.flash = s.hearth.flash ∧
       t.hearth.otp = s.hearth.otp ∧ t.telem.crash = s.telem.crash ∧ t.telem.alarm = s.telem.alarm)) ∧
    (let t := coldReset s
     clears t ∧ t.aon = s.aon ∧ t.golger = Golger.reset ∧ t.mem.dev = [] ∧ t.mem.errs = [] ∧ t.mem.lines = [] ∧ t.hearth.flash = (cutStaging s).hearth.flash ∧
     t.hearth.otp = s.hearth.otp ∧ t.telem.crash = s.telem.crash ∧ t.test.last = 2 ∧ t.power.trip = none ∧ t.conn.tripLow = false ∧
     t.powered = true) ∧
    (s.hostReady = true → exec .warmReset s = .next (warmReset s) ∧ exec .coldReset s = .next (coldReset s)) ∧
    exec .perst s = .next (let s1 := { s with conn := { s.conn with perstLow := true } }
      if s.conn.mrstLow || s.conn.perstLow then s1 else warmReset s1) ∧
    exec .mrst s = .next (if s.conn.mrstLow then s else coldReset { s with conn := { s.conn with mrstLow := true } }) ∧
    exec .pcieHotReset s = .next (if s.conn.linkUp then warmReset s else s) ∧
    (∀ straps, ∃ t, exec (.mrstRise straps) s = .next t ∧ t.conn.mrstLow = false ∧ (s.conn.mrstLow = false → t = s) ∧
      (s.conn.mrstLow = true → t.conn.straps = straps ∧ t.conn.strapped = true ∧
        (t.conn.tap = .bypass ∨ t.conn.tap = .idcode ∨ t.conn.tap = .samplePreload))) ∧
    (∃ t, exec .powerLoss s = .next t ∧ clears t ∧ t.aon = 0 ∧ t.conn.vin = false ∧ t.power = Power.reset ∧ t.telem = Telem.reset ∧
      t.mem.dev = [] ∧ t.golger = Golger.reset ∧ t.hearth.flash = (cutStaging s).hearth.flash ∧ t.hearth.otp = s.hearth.otp ∧ t.test.last = 3) ∧
    (s.hearth.staging = none → cutStaging s = s) ∧
    (∀ g, s.hearth.staging = some g → SMap.wf flashBlank s.hearth.flash = true → let base := slotBase (otherSlot s)
      (cutStaging s).flashBytes base 4 = [0xFF, 0xFF, 0xFF, 0xFF] ∧
      ∀ a, a < base ∨ base + slotBytes ≤ a → g.bytes ≤ slotBytes → (cutStaging s).flashBytes a 1 = s.flashBytes a 1) ∧
    exec .powerUp s = .next s ∧
    (∀ s0 : State, s0.conn.vin = false → ∃ t, exec .powerUp s0 = .next t ∧ t.aon = 0 ∧ t.conn.vin = true ∧ t.conn.pwrGood = true ∧
      t.out = s0.out ++ [.pin 2 true] ∧ t.hearth = s0.hearth) ∧
    exec .refclkLoss s = .next (if s.conn.linkUp && !s.conn.sris then
      { s with conn := { s.conn with linkUp := false, sris := true } } else s) ∧
    (∀ env, (s.conn.mrstLow = true ∨ s.powered = false ∨ s.hearth.stage ≠ 0 → exec (.bootStart env) s = .next s) ∧
      (s.conn.mrstLow = false → s.powered = true → s.hearth.stage = 0 →
        let kept := s.test.memKept = true ∧ env.quickTrain = true
        ∃ t, exec (.bootStart env) s = .next t ∧ t.conn.linkUp = true ∧ t.conn.perstLow = false ∧
          (¬kept → env.fullTrain = false → t.hearth.stage = 5) ∧
          (kept ∨ env.fullTrain = true → env.lintelOk = false → t.hearth.stage = 6) ∧
          (kept ∨ env.fullTrain = true → env.lintelOk = true → t.hearth.stage = 8 ∧ t.hearth.ready = true ∧
            (∀ d, d < 2 → (t.die d).hbmReady = true ∧ (t.die d).lintelReady = true) ∧
            (¬kept → bit s.telem.ctrl.toNat 31 = false → t.mem.dev = [])) ∧
          (env.flashOk = false ∨ (if s.conn.strapped then s.conn.straps else env.straps).getLsbD 3 = false →
            t.hearth.recovery = true)))

/-- R572: a TAP instruction is selected; one that drives pins needs MRST# low and else selects BYPASS. IDCODE shifts out both
dies' identification. Without input power nothing happens. -/
def Obligations.TapInstructions : Prop :=
  ∀ (s : State),
    let sel := fun (i : Instr) (x : TapInstr) => exec i s = .next { s with conn := { s.conn with tap := x } }
    (s.conn.vin = false → ∀ i ∈ [.bypass, .idcode, .samplePreload, .extest, .clamp, .highz, .extestPulse, .extestTrain],
      exec i s = .next s) ∧
    (s.conn.vin = true → sel .bypass .bypass ∧ sel .samplePreload .samplePreload ∧
      exec .idcode s = .next ({ s with conn := { s.conn with tap := .idcode } }.emit (.tdo [0x1C193A6B, 0x1C192A6B])) ∧
      (s.conn.mrstLow = true → sel .extest .extest ∧ sel .clamp .clamp ∧ sel .highz .highz ∧ sel .extestPulse .extestPulse ∧
        sel .extestTrain .extestTrain) ∧
      (s.conn.mrstLow = false → ∀ i ∈ [.extest, .clamp, .highz, .extestPulse, .extestTrain], sel i .bypass))

/-- R12–R16, R18: a read of a low word captures the high word in the function's shadow, which the next read of the high word
returns; a write of a low word is staged until the high word commits both. A high word alone goes with the low word that the
register holds, or, for a register that is write-only, with the low word of its last commit. Offsets that no register has
read zero and ignore writes. The model's choice: offsets from 4 × 2³² on name BAR4, with the MSI-X table (log entry 138). -/
def Obligations.Registers : Prop :=
  ∀ (s : State) (c off : Nat) (v : W32), s.hostReady = true → c < 32 →
    let read := exec (.reg64ShadowRead c off) s
    let write := exec (.registerWrite c off v) s
    let shows := fun (x : Nat) (t : State) => t.emit (.data (BitVec.ofNat 32 x))
    let joined := fun (w : W32) => BitVec.ofNat 64 (v.toNat * 2 ^ 32 + w.toNat)
    (off < 2 ^ 34 → off % 4 ≠ 0 ∨ mapOffset c off = none → read = .next (shows 0 s) ∧ write = .next s) ∧
    (∀ a, off < 2 ^ 34 → off % 4 = 0 → mapOffset c off = some a →
      (∀ x, reg64 s a = some x →
        read = .next (shows x { s with shadow := SMap.set none s.shadow c (some (a, BitVec.ofNat 32 (x / 2 ^ 32))) }) ∧
        write = .next { s with staging := SMap.set none s.staging c (some (a, v)) }) ∧
      (∀ x, reg64 s a = none → 4 ≤ a → reg64 s (a - 4) = some x →
        let keep := fun (w : W32) (t : State) => if isWo (a - 4) then { t with woLow := SMap.set 0 t.woLow (a - 4) w } else t
        (∀ h, s.shadow.get none c = some (a - 4, h) →
          read = .next ({ s with shadow := SMap.set none s.shadow c none }.emit (.data h))) ∧
        ((∀ h, s.shadow.get none c ≠ some (a - 4, h)) → read = .next (shows (x / 2 ^ 32) s)) ∧
        (∀ w, s.staging.get none c = some (a - 4, w) →
          write = .next (commit64 (a - 4) (joined w) (keep w { s with staging := SMap.set none s.staging c none }))) ∧
        ((∀ w, s.staging.get none c ≠ some (a - 4, w)) →
          let w := if isWo (a - 4) then s.woLow.get 0 (a - 4) else BitVec.ofNat 32 (x % 2 ^ 32)
          write = .next (commit64 (a - 4) (joined w) (keep w s)))) ∧
      (reg64 s a = none → (a < 4 ∨ reg64 s (a - 4) = none) →
        read = .next (shows (reg32 s a) s) ∧ write = .next (write32 c a v s))) ∧
    (∀ o, o < 65536 → off = 2 ^ 34 + o → read = .next (shows (if o % 4 = 0 then s.bar4Read c o else 0) s) ∧
      write = .next (if o % 4 = 0 then bar4Write c o v s else s)) ∧
    (∀ k, k < msixSize c → s.bar4Read c (16 * k + 8) = (s.msixEnt c k).data.toNat ∧
      s.bar4Read c (16 * k + 12) = b2n (s.msixEnt c k).mask) ∧
    (c = 0 → off = 0x14 → write = .next { s with stile := { s.stile with affinity := v } } ∧
      read = .next (shows s.stile.affinity.toNat s)) ∧
    (c = 0 → off = 0xA00008 → write = .next (s.setPower fun p => { p with limit := max 800 (min 2400 (v.toNat % 4096)) }) ∧
      read = .next (shows s.power.limit s)) ∧
    (∀ i, i < 408 → c = 0 → off = 0x1000000 + 0x8000 * i + 0x0C →
      write = .next (s.setSett i fun t => { t with flags := t.flags &&& ~~~(v.setWidth 8) }))
end

