-- ==== Sys2Proof/Laws/SMap.lean ====
section
/-! SUPPORT. Reading after writing a sparse map, and that every operation keeps the canonical form. -/

namespace Sys2Proof.Laws

open Sys2Proof.Machine

variable {α : Type}

@[simp] theorem get_nil (d : α) (i : Nat) : SMap.get d [] i = d := rfl

/-- What was stored is read. -/
theorem get_set_self [DecidableEq α] (d v : α) (m : SMap α) (i : Nat) (h : v ≠ d) :
    SMap.get d (SMap.set d m i v) i = v := by
  induction m with
  | nil => simp [SMap.set, h, SMap.get]
  | cons e t ih =>
    obtain ⟨k, w⟩ := e
    unfold SMap.set
    split
    · simp [h, SMap.get]
    · split
      · next hk => subst hk; simp [SMap.get]
      · next h1 h2 => simp only [SMap.get, if_neg h2, if_neg h1, ih]

/-- Storing leaves every other key. -/
theorem get_set_other [DecidableEq α] (d v : α) (m : SMap α) (i j : Nat) (h : v ≠ d) (hij : j ≠ i) :
    SMap.get d (SMap.set d m i v) j = SMap.get d m j := by
  induction m with
  | nil =>
    simp only [SMap.set, if_neg h, SMap.get, if_neg hij]
    split <;> rfl
  | cons e t ih =>
    obtain ⟨k, w⟩ := e
    unfold SMap.set
    split
    · next hk =>
      simp only [if_neg h, SMap.get, if_neg hij]
      split
      · next hj =>
        split
        · omega
        · split
          · rfl
          · omega
      · rfl
    · split
      · next hk => subst hk; simp only [if_neg h, SMap.get, if_neg hij]
      · simp only [SMap.get, ih]

/-- The last of two stores at one key counts. -/
theorem set_set [DecidableEq α] (d x y : α) (m : SMap α) (i : Nat) (h : x ≠ d) :
    SMap.set d (SMap.set d m i x) i y = SMap.set d m i y := by
  induction m with
  | nil => simp [SMap.set, h]
  | cons e t ih =>
    obtain ⟨k, w⟩ := e
    by_cases h1 : i < k
    · simp [SMap.set, h1, h]
    · by_cases h2 : i = k
      · simp [SMap.set, h2, h]
      · simp [SMap.set, h1, h2, ih]

/-- A map whose keys all lie above `lo` is canonical. -/
theorem wf_of_wfAbove [DecidableEq α] (d : α) (lo : Nat) (m : List (Nat × α)) (h : SMap.wfAbove d lo m = true) :
    SMap.wf d m = true := by
  cases m with
  | nil => rfl
  | cons e t => simp_all [SMap.wf, SMap.wfAbove]

theorem wfAbove_mono [DecidableEq α] (d : α) (a b : Nat) (m : List (Nat × α)) (h : SMap.wfAbove d b m = true)
    (hab : a ≤ b) : SMap.wfAbove d a m = true := by
  cases m with
  | nil => rfl
  | cons e t =>
    simp only [SMap.wfAbove, Bool.and_eq_true, decide_eq_true_eq] at h ⊢
    exact ⟨⟨by omega, h.1.2⟩, h.2⟩

theorem wfAbove_set [DecidableEq α] (d v : α) (lo i : Nat) (m : SMap α) (h : SMap.wfAbove d lo m = true)
    (hi : lo < i) : SMap.wfAbove d lo (SMap.set d m i v) = true := by
  induction m generalizing lo with
  | nil =>
    simp only [SMap.set]
    split
    · rfl
    · next hv => simp [SMap.wfAbove, hi, hv]
  | cons e t ih =>
    obtain ⟨k, w⟩ := e
    simp only [SMap.wfAbove, Bool.and_eq_true, decide_eq_true_eq] at h
    unfold SMap.set
    split
    · next hk =>
      split
      · simp [SMap.wfAbove, h]
      · next hv => simp [SMap.wfAbove, h, hi, hk, hv]
    · split
      · next hk =>
        split
        · exact wfAbove_mono d lo k t h.2 (by omega)
        · next hv => simp [SMap.wfAbove, h, hv]
      · next h1 h2 =>
        have := ih k h.2 (by omega)
        simp [SMap.wfAbove, h, this]

/-- A store keeps the canonical form. -/
theorem wf_set [DecidableEq α] (d v : α) (m : SMap α) (i : Nat) (h : SMap.wf d m = true) :
    SMap.wf d (SMap.set d m i v) = true := by
  cases m with
  | nil =>
    simp only [SMap.set]
    split
    · rfl
    · next hv => simp [SMap.wf, SMap.wfAbove, hv]
  | cons e t =>
    obtain ⟨k, w⟩ := e
    simp only [SMap.wf, Bool.and_eq_true, decide_eq_true_eq] at h
    unfold SMap.set
    split
    · next hk =>
      split
      · simp [SMap.wf, h]
      · next hv => simp [SMap.wf, SMap.wfAbove, h, hk, hv]
    · split
      · split
        · exact wf_of_wfAbove d k t h.2
        · next hv => simp [SMap.wf, h, hv]
      · next h1 h2 =>
        have := wfAbove_set d v k i t h.2 (by omega)
        simp [SMap.wf, h, this]

theorem wf_modify [DecidableEq α] (d : α) (m : SMap α) (i : Nat) (f : α → α) (h : SMap.wf d m = true) :
    SMap.wf d (SMap.modify d m i f) = true := wf_set d _ m i h

theorem wf_setMany [DecidableEq α] (d : α) (m : SMap α) (k : Nat) (vs : List α) (h : SMap.wf d m = true) :
    SMap.wf d (SMap.setMany d m k vs) = true := by
  induction vs generalizing m k with
  | nil => exact h
  | cons v t ih => exact ih _ _ (wf_set d v m k h)

theorem wfAbove_filter [DecidableEq α] (d : α) (p : Nat × α → Bool) (lo : Nat) (m : List (Nat × α))
    (h : SMap.wfAbove d lo m = true) : SMap.wfAbove d lo (m.filter p) = true := by
  induction m generalizing lo with
  | nil => rfl
  | cons e t ih =>
    simp only [SMap.wfAbove, Bool.and_eq_true, decide_eq_true_eq] at h
    by_cases hp : p e
    · simp [List.filter_cons, hp, SMap.wfAbove, h, ih _ h.2]
    · simp only [List.filter_cons, hp]
      exact ih lo (wfAbove_mono d lo e.1 t h.2 (by omega))

theorem wf_filter [DecidableEq α] (d : α) (p : Nat × α → Bool) (m : List (Nat × α)) (h : SMap.wf d m = true) :
    SMap.wf d (m.filter p) = true := by
  induction m with
  | nil => rfl
  | cons e t ih =>
    simp only [SMap.wf, Bool.and_eq_true, decide_eq_true_eq] at h
    by_cases hp : p e
    · simp [List.filter_cons, hp, SMap.wf, h, wfAbove_filter d p e.1 t h.2]
    · simp only [List.filter_cons, hp]
      exact ih (wf_of_wfAbove d e.1 t h.2)

theorem wf_clear [DecidableEq α] (d : α) (m : SMap α) (lo n : Nat) (h : SMap.wf d m = true) :
    SMap.wf d (SMap.clear m lo n) = true := wf_filter d _ m h

end Sys2Proof.Laws
end

