-- ==== Sys2Proof/Laws/State.lean ====
section
/-! SUPPORT. What each update of the state leaves: one lemma for each update and each field it does not write. -/

namespace Sys2Proof.Laws

open Sys2Proof.Machine

variable (s : State)

@[simp] theorem setSett_pending (i : Nat) (f : Sett → Sett) : (s.setSett i f).pending = s.pending := rfl
@[simp] theorem setSett_aon (i : Nat) (f : Sett → Sett) : (s.setSett i f).aon = s.aon := rfl
@[simp] theorem setSett_fresh (i : Nat) (f : Sett → Sett) : (s.setSett i f).fresh = s.fresh := rfl
@[simp] theorem setSett_out (i : Nat) (f : Sett → Sett) : (s.setSett i f).out = s.out := rfl
@[simp] theorem setSett_shadow (i : Nat) (f : Sett → Sett) : (s.setSett i f).shadow = s.shadow := rfl
@[simp] theorem setSett_staging (i : Nat) (f : Sett → Sett) : (s.setSett i f).staging = s.staging := rfl
@[simp] theorem setSett_woLow (i : Nat) (f : Sett → Sett) : (s.setSett i f).woLow = s.woLow := rfl
@[simp] theorem setSett_cairn (i : Nat) (f : Sett → Sett) : (s.setSett i f).cairn = s.cairn := rfl
@[simp] theorem setSett_mem (i : Nat) (f : Sett → Sett) : (s.setSett i f).mem = s.mem := rfl
@[simp] theorem setSett_xlat (i : Nat) (f : Sett → Sett) : (s.setSett i f).xlat = s.xlat := rfl
@[simp] theorem setSett_stile (i : Nat) (f : Sett → Sett) : (s.setSett i f).stile = s.stile := rfl
@[simp] theorem setSett_golger (i : Nat) (f : Sett → Sett) : (s.setSett i f).golger = s.golger := rfl
@[simp] theorem setSett_mortar (i : Nat) (f : Sett → Sett) : (s.setSett i f).mortar = s.mortar := rfl
@[simp] theorem setSett_codec (i : Nat) (f : Sett → Sett) : (s.setSett i f).codec = s.codec := rfl
@[simp] theorem setSett_hearth (i : Nat) (f : Sett → Sett) : (s.setSett i f).hearth = s.hearth := rfl
@[simp] theorem setSett_power (i : Nat) (f : Sett → Sett) : (s.setSett i f).power = s.power := rfl
@[simp] theorem setSett_telem (i : Nat) (f : Sett → Sett) : (s.setSett i f).telem = s.telem := rfl
@[simp] theorem setSett_test (i : Nat) (f : Sett → Sett) : (s.setSett i f).test = s.test := rfl
@[simp] theorem setSett_conn (i : Nat) (f : Sett → Sett) : (s.setSett i f).conn = s.conn := rfl

@[simp] theorem setCl_pending (c : Nat) (f : Client → Client) : (s.setCl c f).pending = s.pending := rfl
@[simp] theorem setCl_aon (c : Nat) (f : Client → Client) : (s.setCl c f).aon = s.aon := rfl
@[simp] theorem setCl_fresh (c : Nat) (f : Client → Client) : (s.setCl c f).fresh = s.fresh := rfl
@[simp] theorem setCl_out (c : Nat) (f : Client → Client) : (s.setCl c f).out = s.out := rfl
@[simp] theorem setCl_shadow (c : Nat) (f : Client → Client) : (s.setCl c f).shadow = s.shadow := rfl
@[simp] theorem setCl_staging (c : Nat) (f : Client → Client) : (s.setCl c f).staging = s.staging := rfl
@[simp] theorem setCl_woLow (c : Nat) (f : Client → Client) : (s.setCl c f).woLow = s.woLow := rfl
@[simp] theorem setCl_setts (c : Nat) (f : Client → Client) : (s.setCl c f).setts = s.setts := rfl
@[simp] theorem setCl_cairn (c : Nat) (f : Client → Client) : (s.setCl c f).cairn = s.cairn := rfl
@[simp] theorem setCl_mem (c : Nat) (f : Client → Client) : (s.setCl c f).mem = s.mem := rfl
@[simp] theorem setCl_xlat (c : Nat) (f : Client → Client) : (s.setCl c f).xlat = s.xlat := rfl
@[simp] theorem setCl_golger (c : Nat) (f : Client → Client) : (s.setCl c f).golger = s.golger := rfl
@[simp] theorem setCl_mortar (c : Nat) (f : Client → Client) : (s.setCl c f).mortar = s.mortar := rfl
@[simp] theorem setCl_codec (c : Nat) (f : Client → Client) : (s.setCl c f).codec = s.codec := rfl
@[simp] theorem setCl_hearth (c : Nat) (f : Client → Client) : (s.setCl c f).hearth = s.hearth := rfl
@[simp] theorem setCl_power (c : Nat) (f : Client → Client) : (s.setCl c f).power = s.power := rfl
@[simp] theorem setCl_telem (c : Nat) (f : Client → Client) : (s.setCl c f).telem = s.telem := rfl
@[simp] theorem setCl_test (c : Nat) (f : Client → Client) : (s.setCl c f).test = s.test := rfl
@[simp] theorem setCl_conn (c : Nat) (f : Client → Client) : (s.setCl c f).conn = s.conn := rfl

@[simp] theorem setQ_pending (c n : Nat) (f : Queue → Queue) : (s.setQ c n f).pending = s.pending := rfl
@[simp] theorem setQ_aon (c n : Nat) (f : Queue → Queue) : (s.setQ c n f).aon = s.aon := rfl
@[simp] theorem setQ_fresh (c n : Nat) (f : Queue → Queue) : (s.setQ c n f).fresh = s.fresh := rfl
@[simp] theorem setQ_out (c n : Nat) (f : Queue → Queue) : (s.setQ c n f).out = s.out := rfl
@[simp] theorem setQ_shadow (c n : Nat) (f : Queue → Queue) : (s.setQ c n f).shadow = s.shadow := rfl
@[simp] theorem setQ_staging (c n : Nat) (f : Queue → Queue) : (s.setQ c n f).staging = s.staging := rfl
@[simp] theorem setQ_woLow (c n : Nat) (f : Queue → Queue) : (s.setQ c n f).woLow = s.woLow := rfl
@[simp] theorem setQ_setts (c n : Nat) (f : Queue → Queue) : (s.setQ c n f).setts = s.setts := rfl
@[simp] theorem setQ_cairn (c n : Nat) (f : Queue → Queue) : (s.setQ c n f).cairn = s.cairn := rfl
@[simp] theorem setQ_mem (c n : Nat) (f : Queue → Queue) : (s.setQ c n f).mem = s.mem := rfl
@[simp] theorem setQ_xlat (c n : Nat) (f : Queue → Queue) : (s.setQ c n f).xlat = s.xlat := rfl
@[simp] theorem setQ_golger (c n : Nat) (f : Queue → Queue) : (s.setQ c n f).golger = s.golger := rfl
@[simp] theorem setQ_mortar (c n : Nat) (f : Queue → Queue) : (s.setQ c n f).mortar = s.mortar := rfl
@[simp] theorem setQ_codec (c n : Nat) (f : Queue → Queue) : (s.setQ c n f).codec = s.codec := rfl
@[simp] theorem setQ_hearth (c n : Nat) (f : Queue → Queue) : (s.setQ c n f).hearth = s.hearth := rfl
@[simp] theorem setQ_power (c n : Nat) (f : Queue → Queue) : (s.setQ c n f).power = s.power := rfl
@[simp] theorem setQ_telem (c n : Nat) (f : Queue → Queue) : (s.setQ c n f).telem = s.telem := rfl
@[simp] theorem setQ_test (c n : Nat) (f : Queue → Queue) : (s.setQ c n f).test = s.test := rfl
@[simp] theorem setQ_conn (c n : Nat) (f : Queue → Queue) : (s.setQ c n f).conn = s.conn := rfl

@[simp] theorem setCairn_pending (t : Nat) (f : Cairn → Cairn) : (s.setCairn t f).pending = s.pending := rfl
@[simp] theorem setCairn_aon (t : Nat) (f : Cairn → Cairn) : (s.setCairn t f).aon = s.aon := rfl
@[simp] theorem setCairn_fresh (t : Nat) (f : Cairn → Cairn) : (s.setCairn t f).fresh = s.fresh := rfl
@[simp] theorem setCairn_out (t : Nat) (f : Cairn → Cairn) : (s.setCairn t f).out = s.out := rfl
@[simp] theorem setCairn_shadow (t : Nat) (f : Cairn → Cairn) : (s.setCairn t f).shadow = s.shadow := rfl
@[simp] theorem setCairn_staging (t : Nat) (f : Cairn → Cairn) : (s.setCairn t f).staging = s.staging := rfl
@[simp] theorem setCairn_woLow (t : Nat) (f : Cairn → Cairn) : (s.setCairn t f).woLow = s.woLow := rfl
@[simp] theorem setCairn_setts (t : Nat) (f : Cairn → Cairn) : (s.setCairn t f).setts = s.setts := rfl
@[simp] theorem setCairn_mem (t : Nat) (f : Cairn → Cairn) : (s.setCairn t f).mem = s.mem := rfl
@[simp] theorem setCairn_xlat (t : Nat) (f : Cairn → Cairn) : (s.setCairn t f).xlat = s.xlat := rfl
@[simp] theorem setCairn_stile (t : Nat) (f : Cairn → Cairn) : (s.setCairn t f).stile = s.stile := rfl
@[simp] theorem setCairn_golger (t : Nat) (f : Cairn → Cairn) : (s.setCairn t f).golger = s.golger := rfl
@[simp] theorem setCairn_mortar (t : Nat) (f : Cairn → Cairn) : (s.setCairn t f).mortar = s.mortar := rfl
@[simp] theorem setCairn_codec (t : Nat) (f : Cairn → Cairn) : (s.setCairn t f).codec = s.codec := rfl
@[simp] theorem setCairn_hearth (t : Nat) (f : Cairn → Cairn) : (s.setCairn t f).hearth = s.hearth := rfl
@[simp] theorem setCairn_power (t : Nat) (f : Cairn → Cairn) : (s.setCairn t f).power = s.power := rfl
@[simp] theorem setCairn_telem (t : Nat) (f : Cairn → Cairn) : (s.setCairn t f).telem = s.telem := rfl
@[simp] theorem setCairn_test (t : Nat) (f : Cairn → Cairn) : (s.setCairn t f).test = s.test := rfl
@[simp] theorem setCairn_conn (t : Nat) (f : Cairn → Cairn) : (s.setCairn t f).conn = s.conn := rfl

@[simp] theorem setDie_pending (d : Nat) (f : DieMem → DieMem) : (s.setDie d f).pending = s.pending := rfl
@[simp] theorem setDie_aon (d : Nat) (f : DieMem → DieMem) : (s.setDie d f).aon = s.aon := rfl
@[simp] theorem setDie_fresh (d : Nat) (f : DieMem → DieMem) : (s.setDie d f).fresh = s.fresh := rfl
@[simp] theorem setDie_out (d : Nat) (f : DieMem → DieMem) : (s.setDie d f).out = s.out := rfl
@[simp] theorem setDie_shadow (d : Nat) (f : DieMem → DieMem) : (s.setDie d f).shadow = s.shadow := rfl
@[simp] theorem setDie_staging (d : Nat) (f : DieMem → DieMem) : (s.setDie d f).staging = s.staging := rfl
@[simp] theorem setDie_woLow (d : Nat) (f : DieMem → DieMem) : (s.setDie d f).woLow = s.woLow := rfl
@[simp] theorem setDie_setts (d : Nat) (f : DieMem → DieMem) : (s.setDie d f).setts = s.setts := rfl
@[simp] theorem setDie_cairn (d : Nat) (f : DieMem → DieMem) : (s.setDie d f).cairn = s.cairn := rfl
@[simp] theorem setDie_xlat (d : Nat) (f : DieMem → DieMem) : (s.setDie d f).xlat = s.xlat := rfl
@[simp] theorem setDie_stile (d : Nat) (f : DieMem → DieMem) : (s.setDie d f).stile = s.stile := rfl
@[simp] theorem setDie_golger (d : Nat) (f : DieMem → DieMem) : (s.setDie d f).golger = s.golger := rfl
@[simp] theorem setDie_mortar (d : Nat) (f : DieMem → DieMem) : (s.setDie d f).mortar = s.mortar := rfl
@[simp] theorem setDie_codec (d : Nat) (f : DieMem → DieMem) : (s.setDie d f).codec = s.codec := rfl
@[simp] theorem setDie_hearth (d : Nat) (f : DieMem → DieMem) : (s.setDie d f).hearth = s.hearth := rfl
@[simp] theorem setDie_power (d : Nat) (f : DieMem → DieMem) : (s.setDie d f).power = s.power := rfl
@[simp] theorem setDie_telem (d : Nat) (f : DieMem → DieMem) : (s.setDie d f).telem = s.telem := rfl
@[simp] theorem setDie_test (d : Nat) (f : DieMem → DieMem) : (s.setDie d f).test = s.test := rfl
@[simp] theorem setDie_conn (d : Nat) (f : DieMem → DieMem) : (s.setDie d f).conn = s.conn := rfl

@[simp] theorem setLine_pending (k : Nat) (f : Line → Line) : (s.setLine k f).pending = s.pending := rfl
@[simp] theorem setLine_aon (k : Nat) (f : Line → Line) : (s.setLine k f).aon = s.aon := rfl
@[simp] theorem setLine_fresh (k : Nat) (f : Line → Line) : (s.setLine k f).fresh = s.fresh := rfl
@[simp] theorem setLine_out (k : Nat) (f : Line → Line) : (s.setLine k f).out = s.out := rfl
@[simp] theorem setLine_shadow (k : Nat) (f : Line → Line) : (s.setLine k f).shadow = s.shadow := rfl
@[simp] theorem setLine_staging (k : Nat) (f : Line → Line) : (s.setLine k f).staging = s.staging := rfl
@[simp] theorem setLine_woLow (k : Nat) (f : Line → Line) : (s.setLine k f).woLow = s.woLow := rfl
@[simp] theorem setLine_setts (k : Nat) (f : Line → Line) : (s.setLine k f).setts = s.setts := rfl
@[simp] theorem setLine_cairn (k : Nat) (f : Line → Line) : (s.setLine k f).cairn = s.cairn := rfl
@[simp] theorem setLine_xlat (k : Nat) (f : Line → Line) : (s.setLine k f).xlat = s.xlat := rfl
@[simp] theorem setLine_stile (k : Nat) (f : Line → Line) : (s.setLine k f).stile = s.stile := rfl
@[simp] theorem setLine_golger (k : Nat) (f : Line → Line) : (s.setLine k f).golger = s.golger := rfl
@[simp] theorem setLine_mortar (k : Nat) (f : Line → Line) : (s.setLine k f).mortar = s.mortar := rfl
@[simp] theorem setLine_codec (k : Nat) (f : Line → Line) : (s.setLine k f).codec = s.codec := rfl
@[simp] theorem setLine_hearth (k : Nat) (f : Line → Line) : (s.setLine k f).hearth = s.hearth := rfl
@[simp] theorem setLine_power (k : Nat) (f : Line → Line) : (s.setLine k f).power = s.power := rfl
@[simp] theorem setLine_telem (k : Nat) (f : Line → Line) : (s.setLine k f).telem = s.telem := rfl
@[simp] theorem setLine_test (k : Nat) (f : Line → Line) : (s.setLine k f).test = s.test := rfl
@[simp] theorem setLine_conn (k : Nat) (f : Line → Line) : (s.setLine k f).conn = s.conn := rfl

@[simp] theorem setClient_pending (c : Nat) (f : XlatClient → XlatClient) : (s.setClient c f).pending = s.pending := rfl
@[simp] theorem setClient_aon (c : Nat) (f : XlatClient → XlatClient) : (s.setClient c f).aon = s.aon := rfl
@[simp] theorem setClient_fresh (c : Nat) (f : XlatClient → XlatClient) : (s.setClient c f).fresh = s.fresh := rfl
@[simp] theorem setClient_out (c : Nat) (f : XlatClient → XlatClient) : (s.setClient c f).out = s.out := rfl
@[simp] theorem setClient_shadow (c : Nat) (f : XlatClient → XlatClient) : (s.setClient c f).shadow = s.shadow := rfl
@[simp] theorem setClient_staging (c : Nat) (f : XlatClient → XlatClient) : (s.setClient c f).staging = s.staging := rfl
@[simp] theorem setClient_woLow (c : Nat) (f : XlatClient → XlatClient) : (s.setClient c f).woLow = s.woLow := rfl
@[simp] theorem setClient_setts (c : Nat) (f : XlatClient → XlatClient) : (s.setClient c f).setts = s.setts := rfl
@[simp] theorem setClient_cairn (c : Nat) (f : XlatClient → XlatClient) : (s.setClient c f).cairn = s.cairn := rfl
@[simp] theorem setClient_mem (c : Nat) (f : XlatClient → XlatClient) : (s.setClient c f).mem = s.mem := rfl
@[simp] theorem setClient_stile (c : Nat) (f : XlatClient → XlatClient) : (s.setClient c f).stile = s.stile := rfl
@[simp] theorem setClient_golger (c : Nat) (f : XlatClient → XlatClient) : (s.setClient c f).golger = s.golger := rfl
@[simp] theorem setClient_mortar (c : Nat) (f : XlatClient → XlatClient) : (s.setClient c f).mortar = s.mortar := rfl
@[simp] theorem setClient_codec (c : Nat) (f : XlatClient → XlatClient) : (s.setClient c f).codec = s.codec := rfl
@[simp] theorem setClient_hearth (c : Nat) (f : XlatClient → XlatClient) : (s.setClient c f).hearth = s.hearth := rfl
@[simp] theorem setClient_power (c : Nat) (f : XlatClient → XlatClient) : (s.setClient c f).power = s.power := rfl
@[simp] theorem setClient_telem (c : Nat) (f : XlatClient → XlatClient) : (s.setClient c f).telem = s.telem := rfl
@[simp] theorem setClient_test (c : Nat) (f : XlatClient → XlatClient) : (s.setClient c f).test = s.test := rfl
@[simp] theorem setClient_conn (c : Nat) (f : XlatClient → XlatClient) : (s.setClient c f).conn = s.conn := rfl

@[simp] theorem emit_pending (o : Out) : (s.emit o).pending = s.pending := rfl
@[simp] theorem emit_aon (o : Out) : (s.emit o).aon = s.aon := rfl
@[simp] theorem emit_fresh (o : Out) : (s.emit o).fresh = s.fresh := rfl
@[simp] theorem emit_shadow (o : Out) : (s.emit o).shadow = s.shadow := rfl
@[simp] theorem emit_staging (o : Out) : (s.emit o).staging = s.staging := rfl
@[simp] theorem emit_woLow (o : Out) : (s.emit o).woLow = s.woLow := rfl
@[simp] theorem emit_setts (o : Out) : (s.emit o).setts = s.setts := rfl
@[simp] theorem emit_cairn (o : Out) : (s.emit o).cairn = s.cairn := rfl
@[simp] theorem emit_mem (o : Out) : (s.emit o).mem = s.mem := rfl
@[simp] theorem emit_xlat (o : Out) : (s.emit o).xlat = s.xlat := rfl
@[simp] theorem emit_stile (o : Out) : (s.emit o).stile = s.stile := rfl
@[simp] theorem emit_golger (o : Out) : (s.emit o).golger = s.golger := rfl
@[simp] theorem emit_mortar (o : Out) : (s.emit o).mortar = s.mortar := rfl
@[simp] theorem emit_codec (o : Out) : (s.emit o).codec = s.codec := rfl
@[simp] theorem emit_hearth (o : Out) : (s.emit o).hearth = s.hearth := rfl
@[simp] theorem emit_power (o : Out) : (s.emit o).power = s.power := rfl
@[simp] theorem emit_telem (o : Out) : (s.emit o).telem = s.telem := rfl
@[simp] theorem emit_test (o : Out) : (s.emit o).test = s.test := rfl
@[simp] theorem emit_conn (o : Out) : (s.emit o).conn = s.conn := rfl

@[simp] theorem flag_pending (i : Nat) (f : Fl) : (s.flag i f).pending = s.pending := rfl
@[simp] theorem flag_aon (i : Nat) (f : Fl) : (s.flag i f).aon = s.aon := rfl
@[simp] theorem flag_fresh (i : Nat) (f : Fl) : (s.flag i f).fresh = s.fresh := rfl
@[simp] theorem flag_out (i : Nat) (f : Fl) : (s.flag i f).out = s.out := rfl
@[simp] theorem flag_shadow (i : Nat) (f : Fl) : (s.flag i f).shadow = s.shadow := rfl
@[simp] theorem flag_staging (i : Nat) (f : Fl) : (s.flag i f).staging = s.staging := rfl
@[simp] theorem flag_woLow (i : Nat) (f : Fl) : (s.flag i f).woLow = s.woLow := rfl
@[simp] theorem flag_cairn (i : Nat) (f : Fl) : (s.flag i f).cairn = s.cairn := rfl
@[simp] theorem flag_mem (i : Nat) (f : Fl) : (s.flag i f).mem = s.mem := rfl
@[simp] theorem flag_xlat (i : Nat) (f : Fl) : (s.flag i f).xlat = s.xlat := rfl
@[simp] theorem flag_stile (i : Nat) (f : Fl) : (s.flag i f).stile = s.stile := rfl
@[simp] theorem flag_golger (i : Nat) (f : Fl) : (s.flag i f).golger = s.golger := rfl
@[simp] theorem flag_mortar (i : Nat) (f : Fl) : (s.flag i f).mortar = s.mortar := rfl
@[simp] theorem flag_codec (i : Nat) (f : Fl) : (s.flag i f).codec = s.codec := rfl
@[simp] theorem flag_hearth (i : Nat) (f : Fl) : (s.flag i f).hearth = s.hearth := rfl
@[simp] theorem flag_power (i : Nat) (f : Fl) : (s.flag i f).power = s.power := rfl
@[simp] theorem flag_telem (i : Nat) (f : Fl) : (s.flag i f).telem = s.telem := rfl
@[simp] theorem flag_test (i : Nat) (f : Fl) : (s.flag i f).test = s.test := rfl
@[simp] theorem flag_conn (i : Nat) (f : Fl) : (s.flag i f).conn = s.conn := rfl

@[simp] theorem setPort_pending (p : Nat) (f : GPort → GPort) : (s.setPort p f).pending = s.pending := rfl
@[simp] theorem setPort_aon (p : Nat) (f : GPort → GPort) : (s.setPort p f).aon = s.aon := rfl
@[simp] theorem setPort_fresh (p : Nat) (f : GPort → GPort) : (s.setPort p f).fresh = s.fresh := rfl
@[simp] theorem setPort_out (p : Nat) (f : GPort → GPort) : (s.setPort p f).out = s.out := rfl
@[simp] theorem setPort_shadow (p : Nat) (f : GPort → GPort) : (s.setPort p f).shadow = s.shadow := rfl
@[simp] theorem setPort_staging (p : Nat) (f : GPort → GPort) : (s.setPort p f).staging = s.staging := rfl
@[simp] theorem setPort_woLow (p : Nat) (f : GPort → GPort) : (s.setPort p f).woLow = s.woLow := rfl
@[simp] theorem setPort_setts (p : Nat) (f : GPort → GPort) : (s.setPort p f).setts = s.setts := rfl
@[simp] theorem setPort_cairn (p : Nat) (f : GPort → GPort) : (s.setPort p f).cairn = s.cairn := rfl
@[simp] theorem setPort_mem (p : Nat) (f : GPort → GPort) : (s.setPort p f).mem = s.mem := rfl
@[simp] theorem setPort_xlat (p : Nat) (f : GPort → GPort) : (s.setPort p f).xlat = s.xlat := rfl
@[simp] theorem setPort_stile (p : Nat) (f : GPort → GPort) : (s.setPort p f).stile = s.stile := rfl
@[simp] theorem setPort_mortar (p : Nat) (f : GPort → GPort) : (s.setPort p f).mortar = s.mortar := rfl
@[simp] theorem setPort_codec (p : Nat) (f : GPort → GPort) : (s.setPort p f).codec = s.codec := rfl
@[simp] theorem setPort_hearth (p : Nat) (f : GPort → GPort) : (s.setPort p f).hearth = s.hearth := rfl
@[simp] theorem setPort_power (p : Nat) (f : GPort → GPort) : (s.setPort p f).power = s.power := rfl
@[simp] theorem setPort_telem (p : Nat) (f : GPort → GPort) : (s.setPort p f).telem = s.telem := rfl
@[simp] theorem setPort_test (p : Nat) (f : GPort → GPort) : (s.setPort p f).test = s.test := rfl
@[simp] theorem setPort_conn (p : Nat) (f : GPort → GPort) : (s.setPort p f).conn = s.conn := rfl

@[simp] theorem setCtx_pending (c : Nat) (f : Ctx → Ctx) : (s.setCtx c f).pending = s.pending := rfl
@[simp] theorem setCtx_aon (c : Nat) (f : Ctx → Ctx) : (s.setCtx c f).aon = s.aon := rfl
@[simp] theorem setCtx_fresh (c : Nat) (f : Ctx → Ctx) : (s.setCtx c f).fresh = s.fresh := rfl
@[simp] theorem setCtx_out (c : Nat) (f : Ctx → Ctx) : (s.setCtx c f).out = s.out := rfl
@[simp] theorem setCtx_shadow (c : Nat) (f : Ctx → Ctx) : (s.setCtx c f).shadow = s.shadow := rfl
@[simp] theorem setCtx_staging (c : Nat) (f : Ctx → Ctx) : (s.setCtx c f).staging = s.staging := rfl
@[simp] theorem setCtx_woLow (c : Nat) (f : Ctx → Ctx) : (s.setCtx c f).woLow = s.woLow := rfl
@[simp] theorem setCtx_setts (c : Nat) (f : Ctx → Ctx) : (s.setCtx c f).setts = s.setts := rfl
@[simp] theorem setCtx_cairn (c : Nat) (f : Ctx → Ctx) : (s.setCtx c f).cairn = s.cairn := rfl
@[simp] theorem setCtx_mem (c : Nat) (f : Ctx → Ctx) : (s.setCtx c f).mem = s.mem := rfl
@[simp] theorem setCtx_xlat (c : Nat) (f : Ctx → Ctx) : (s.setCtx c f).xlat = s.xlat := rfl
@[simp] theorem setCtx_stile (c : Nat) (f : Ctx → Ctx) : (s.setCtx c f).stile = s.stile := rfl
@[simp] theorem setCtx_golger (c : Nat) (f : Ctx → Ctx) : (s.setCtx c f).golger = s.golger := rfl
@[simp] theorem setCtx_codec (c : Nat) (f : Ctx → Ctx) : (s.setCtx c f).codec = s.codec := rfl
@[simp] theorem setCtx_hearth (c : Nat) (f : Ctx → Ctx) : (s.setCtx c f).hearth = s.hearth := rfl
@[simp] theorem setCtx_power (c : Nat) (f : Ctx → Ctx) : (s.setCtx c f).power = s.power := rfl
@[simp] theorem setCtx_telem (c : Nat) (f : Ctx → Ctx) : (s.setCtx c f).telem = s.telem := rfl
@[simp] theorem setCtx_test (c : Nat) (f : Ctx → Ctx) : (s.setCtx c f).test = s.test := rfl
@[simp] theorem setCtx_conn (c : Nat) (f : Ctx → Ctx) : (s.setCtx c f).conn = s.conn := rfl

@[simp] theorem setColl_pending (c : Nat) (f : Coll → Coll) : (s.setColl c f).pending = s.pending := rfl
@[simp] theorem setColl_aon (c : Nat) (f : Coll → Coll) : (s.setColl c f).aon = s.aon := rfl
@[simp] theorem setColl_fresh (c : Nat) (f : Coll → Coll) : (s.setColl c f).fresh = s.fresh := rfl
@[simp] theorem setColl_out (c : Nat) (f : Coll → Coll) : (s.setColl c f).out = s.out := rfl
@[simp] theorem setColl_shadow (c : Nat) (f : Coll → Coll) : (s.setColl c f).shadow = s.shadow := rfl
@[simp] theorem setColl_staging (c : Nat) (f : Coll → Coll) : (s.setColl c f).staging = s.staging := rfl
@[simp] theorem setColl_woLow (c : Nat) (f : Coll → Coll) : (s.setColl c f).woLow = s.woLow := rfl
@[simp] theorem setColl_setts (c : Nat) (f : Coll → Coll) : (s.setColl c f).setts = s.setts := rfl
@[simp] theorem setColl_cairn (c : Nat) (f : Coll → Coll) : (s.setColl c f).cairn = s.cairn := rfl
@[simp] theorem setColl_mem (c : Nat) (f : Coll → Coll) : (s.setColl c f).mem = s.mem := rfl
@[simp] theorem setColl_xlat (c : Nat) (f : Coll → Coll) : (s.setColl c f).xlat = s.xlat := rfl
@[simp] theorem setColl_stile (c : Nat) (f : Coll → Coll) : (s.setColl c f).stile = s.stile := rfl
@[simp] theorem setColl_golger (c : Nat) (f : Coll → Coll) : (s.setColl c f).golger = s.golger := rfl
@[simp] theorem setColl_codec (c : Nat) (f : Coll → Coll) : (s.setColl c f).codec = s.codec := rfl
@[simp] theorem setColl_hearth (c : Nat) (f : Coll → Coll) : (s.setColl c f).hearth = s.hearth := rfl
@[simp] theorem setColl_power (c : Nat) (f : Coll → Coll) : (s.setColl c f).power = s.power := rfl
@[simp] theorem setColl_telem (c : Nat) (f : Coll → Coll) : (s.setColl c f).telem = s.telem := rfl
@[simp] theorem setColl_test (c : Nat) (f : Coll → Coll) : (s.setColl c f).test = s.test := rfl
@[simp] theorem setColl_conn (c : Nat) (f : Coll → Coll) : (s.setColl c f).conn = s.conn := rfl

@[simp] theorem setGroup_pending (g : Nat) (f : Group → Group) : (s.setGroup g f).pending = s.pending := rfl
@[simp] theorem setGroup_aon (g : Nat) (f : Group → Group) : (s.setGroup g f).aon = s.aon := rfl
@[simp] theorem setGroup_fresh (g : Nat) (f : Group → Group) : (s.setGroup g f).fresh = s.fresh := rfl
@[simp] theorem setGroup_out (g : Nat) (f : Group → Group) : (s.setGroup g f).out = s.out := rfl
@[simp] theorem setGroup_shadow (g : Nat) (f : Group → Group) : (s.setGroup g f).shadow = s.shadow := rfl
@[simp] theorem setGroup_staging (g : Nat) (f : Group → Group) : (s.setGroup g f).staging = s.staging := rfl
@[simp] theorem setGroup_woLow (g : Nat) (f : Group → Group) : (s.setGroup g f).woLow = s.woLow := rfl
@[simp] theorem setGroup_setts (g : Nat) (f : Group → Group) : (s.setGroup g f).setts = s.setts := rfl
@[simp] theorem setGroup_cairn (g : Nat) (f : Group → Group) : (s.setGroup g f).cairn = s.cairn := rfl
@[simp] theorem setGroup_mem (g : Nat) (f : Group → Group) : (s.setGroup g f).mem = s.mem := rfl
@[simp] theorem setGroup_xlat (g : Nat) (f : Group → Group) : (s.setGroup g f).xlat = s.xlat := rfl
@[simp] theorem setGroup_stile (g : Nat) (f : Group → Group) : (s.setGroup g f).stile = s.stile := rfl
@[simp] theorem setGroup_golger (g : Nat) (f : Group → Group) : (s.setGroup g f).golger = s.golger := rfl
@[simp] theorem setGroup_codec (g : Nat) (f : Group → Group) : (s.setGroup g f).codec = s.codec := rfl
@[simp] theorem setGroup_hearth (g : Nat) (f : Group → Group) : (s.setGroup g f).hearth = s.hearth := rfl
@[simp] theorem setGroup_power (g : Nat) (f : Group → Group) : (s.setGroup g f).power = s.power := rfl
@[simp] theorem setGroup_telem (g : Nat) (f : Group → Group) : (s.setGroup g f).telem = s.telem := rfl
@[simp] theorem setGroup_test (g : Nat) (f : Group → Group) : (s.setGroup g f).test = s.test := rfl
@[simp] theorem setGroup_conn (g : Nat) (f : Group → Group) : (s.setGroup g f).conn = s.conn := rfl

@[simp] theorem setCore_pending (c : Nat) (f : CodecCore → CodecCore) : (s.setCore c f).pending = s.pending := rfl
@[simp] theorem setCore_aon (c : Nat) (f : CodecCore → CodecCore) : (s.setCore c f).aon = s.aon := rfl
@[simp] theorem setCore_fresh (c : Nat) (f : CodecCore → CodecCore) : (s.setCore c f).fresh = s.fresh := rfl
@[simp] theorem setCore_out (c : Nat) (f : CodecCore → CodecCore) : (s.setCore c f).out = s.out := rfl
@[simp] theorem setCore_shadow (c : Nat) (f : CodecCore → CodecCore) : (s.setCore c f).shadow = s.shadow := rfl
@[simp] theorem setCore_staging (c : Nat) (f : CodecCore → CodecCore) : (s.setCore c f).staging = s.staging := rfl
@[simp] theorem setCore_woLow (c : Nat) (f : CodecCore → CodecCore) : (s.setCore c f).woLow = s.woLow := rfl
@[simp] theorem setCore_setts (c : Nat) (f : CodecCore → CodecCore) : (s.setCore c f).setts = s.setts := rfl
@[simp] theorem setCore_cairn (c : Nat) (f : CodecCore → CodecCore) : (s.setCore c f).cairn = s.cairn := rfl
@[simp] theorem setCore_mem (c : Nat) (f : CodecCore → CodecCore) : (s.setCore c f).mem = s.mem := rfl
@[simp] theorem setCore_xlat (c : Nat) (f : CodecCore → CodecCore) : (s.setCore c f).xlat = s.xlat := rfl
@[simp] theorem setCore_stile (c : Nat) (f : CodecCore → CodecCore) : (s.setCore c f).stile = s.stile := rfl
@[simp] theorem setCore_golger (c : Nat) (f : CodecCore → CodecCore) : (s.setCore c f).golger = s.golger := rfl
@[simp] theorem setCore_mortar (c : Nat) (f : CodecCore → CodecCore) : (s.setCore c f).mortar = s.mortar := rfl
@[simp] theorem setCore_hearth (c : Nat) (f : CodecCore → CodecCore) : (s.setCore c f).hearth = s.hearth := rfl
@[simp] theorem setCore_power (c : Nat) (f : CodecCore → CodecCore) : (s.setCore c f).power = s.power := rfl
@[simp] theorem setCore_telem (c : Nat) (f : CodecCore → CodecCore) : (s.setCore c f).telem = s.telem := rfl
@[simp] theorem setCore_test (c : Nat) (f : CodecCore → CodecCore) : (s.setCore c f).test = s.test := rfl
@[simp] theorem setCore_conn (c : Nat) (f : CodecCore → CodecCore) : (s.setCore c f).conn = s.conn := rfl

@[simp] theorem setStrm_pending (k : Nat) (f : Stream → Stream) : (s.setStrm k f).pending = s.pending := rfl
@[simp] theorem setStrm_aon (k : Nat) (f : Stream → Stream) : (s.setStrm k f).aon = s.aon := rfl
@[simp] theorem setStrm_fresh (k : Nat) (f : Stream → Stream) : (s.setStrm k f).fresh = s.fresh := rfl
@[simp] theorem setStrm_out (k : Nat) (f : Stream → Stream) : (s.setStrm k f).out = s.out := rfl
@[simp] theorem setStrm_shadow (k : Nat) (f : Stream → Stream) : (s.setStrm k f).shadow = s.shadow := rfl
@[simp] theorem setStrm_staging (k : Nat) (f : Stream → Stream) : (s.setStrm k f).staging = s.staging := rfl
@[simp] theorem setStrm_woLow (k : Nat) (f : Stream → Stream) : (s.setStrm k f).woLow = s.woLow := rfl
@[simp] theorem setStrm_setts (k : Nat) (f : Stream → Stream) : (s.setStrm k f).setts = s.setts := rfl
@[simp] theorem setStrm_cairn (k : Nat) (f : Stream → Stream) : (s.setStrm k f).cairn = s.cairn := rfl
@[simp] theorem setStrm_mem (k : Nat) (f : Stream → Stream) : (s.setStrm k f).mem = s.mem := rfl
@[simp] theorem setStrm_xlat (k : Nat) (f : Stream → Stream) : (s.setStrm k f).xlat = s.xlat := rfl
@[simp] theorem setStrm_stile (k : Nat) (f : Stream → Stream) : (s.setStrm k f).stile = s.stile := rfl
@[simp] theorem setStrm_golger (k : Nat) (f : Stream → Stream) : (s.setStrm k f).golger = s.golger := rfl
@[simp] theorem setStrm_mortar (k : Nat) (f : Stream → Stream) : (s.setStrm k f).mortar = s.mortar := rfl
@[simp] theorem setStrm_hearth (k : Nat) (f : Stream → Stream) : (s.setStrm k f).hearth = s.hearth := rfl
@[simp] theorem setStrm_power (k : Nat) (f : Stream → Stream) : (s.setStrm k f).power = s.power := rfl
@[simp] theorem setStrm_telem (k : Nat) (f : Stream → Stream) : (s.setStrm k f).telem = s.telem := rfl
@[simp] theorem setStrm_test (k : Nat) (f : Stream → Stream) : (s.setStrm k f).test = s.test := rfl
@[simp] theorem setStrm_conn (k : Nat) (f : Stream → Stream) : (s.setStrm k f).conn = s.conn := rfl

@[simp] theorem setEntry_pending (e : Nat) (f : PoolEntry → PoolEntry) : (s.setEntry e f).pending = s.pending := rfl
@[simp] theorem setEntry_aon (e : Nat) (f : PoolEntry → PoolEntry) : (s.setEntry e f).aon = s.aon := rfl
@[simp] theorem setEntry_fresh (e : Nat) (f : PoolEntry → PoolEntry) : (s.setEntry e f).fresh = s.fresh := rfl
@[simp] theorem setEntry_out (e : Nat) (f : PoolEntry → PoolEntry) : (s.setEntry e f).out = s.out := rfl
@[simp] theorem setEntry_shadow (e : Nat) (f : PoolEntry → PoolEntry) : (s.setEntry e f).shadow = s.shadow := rfl
@[simp] theorem setEntry_staging (e : Nat) (f : PoolEntry → PoolEntry) : (s.setEntry e f).staging = s.staging := rfl
@[simp] theorem setEntry_woLow (e : Nat) (f : PoolEntry → PoolEntry) : (s.setEntry e f).woLow = s.woLow := rfl
@[simp] theorem setEntry_setts (e : Nat) (f : PoolEntry → PoolEntry) : (s.setEntry e f).setts = s.setts := rfl
@[simp] theorem setEntry_cairn (e : Nat) (f : PoolEntry → PoolEntry) : (s.setEntry e f).cairn = s.cairn := rfl
@[simp] theorem setEntry_mem (e : Nat) (f : PoolEntry → PoolEntry) : (s.setEntry e f).mem = s.mem := rfl
@[simp] theorem setEntry_xlat (e : Nat) (f : PoolEntry → PoolEntry) : (s.setEntry e f).xlat = s.xlat := rfl
@[simp] theorem setEntry_stile (e : Nat) (f : PoolEntry → PoolEntry) : (s.setEntry e f).stile = s.stile := rfl
@[simp] theorem setEntry_golger (e : Nat) (f : PoolEntry → PoolEntry) : (s.setEntry e f).golger = s.golger := rfl
@[simp] theorem setEntry_mortar (e : Nat) (f : PoolEntry → PoolEntry) : (s.setEntry e f).mortar = s.mortar := rfl
@[simp] theorem setEntry_hearth (e : Nat) (f : PoolEntry → PoolEntry) : (s.setEntry e f).hearth = s.hearth := rfl
@[simp] theorem setEntry_power (e : Nat) (f : PoolEntry → PoolEntry) : (s.setEntry e f).power = s.power := rfl
@[simp] theorem setEntry_telem (e : Nat) (f : PoolEntry → PoolEntry) : (s.setEntry e f).telem = s.telem := rfl
@[simp] theorem setEntry_test (e : Nat) (f : PoolEntry → PoolEntry) : (s.setEntry e f).test = s.test := rfl
@[simp] theorem setEntry_conn (e : Nat) (f : PoolEntry → PoolEntry) : (s.setEntry e f).conn = s.conn := rfl

@[simp] theorem setHearth_pending (f : Hearth → Hearth) : (s.setHearth f).pending = s.pending := rfl
@[simp] theorem setHearth_aon (f : Hearth → Hearth) : (s.setHearth f).aon = s.aon := rfl
@[simp] theorem setHearth_fresh (f : Hearth → Hearth) : (s.setHearth f).fresh = s.fresh := rfl
@[simp] theorem setHearth_out (f : Hearth → Hearth) : (s.setHearth f).out = s.out := rfl
@[simp] theorem setHearth_shadow (f : Hearth → Hearth) : (s.setHearth f).shadow = s.shadow := rfl
@[simp] theorem setHearth_staging (f : Hearth → Hearth) : (s.setHearth f).staging = s.staging := rfl
@[simp] theorem setHearth_woLow (f : Hearth → Hearth) : (s.setHearth f).woLow = s.woLow := rfl
@[simp] theorem setHearth_setts (f : Hearth → Hearth) : (s.setHearth f).setts = s.setts := rfl
@[simp] theorem setHearth_cairn (f : Hearth → Hearth) : (s.setHearth f).cairn = s.cairn := rfl
@[simp] theorem setHearth_mem (f : Hearth → Hearth) : (s.setHearth f).mem = s.mem := rfl
@[simp] theorem setHearth_xlat (f : Hearth → Hearth) : (s.setHearth f).xlat = s.xlat := rfl
@[simp] theorem setHearth_stile (f : Hearth → Hearth) : (s.setHearth f).stile = s.stile := rfl
@[simp] theorem setHearth_golger (f : Hearth → Hearth) : (s.setHearth f).golger = s.golger := rfl
@[simp] theorem setHearth_mortar (f : Hearth → Hearth) : (s.setHearth f).mortar = s.mortar := rfl
@[simp] theorem setHearth_codec (f : Hearth → Hearth) : (s.setHearth f).codec = s.codec := rfl
@[simp] theorem setHearth_power (f : Hearth → Hearth) : (s.setHearth f).power = s.power := rfl
@[simp] theorem setHearth_telem (f : Hearth → Hearth) : (s.setHearth f).telem = s.telem := rfl
@[simp] theorem setHearth_test (f : Hearth → Hearth) : (s.setHearth f).test = s.test := rfl
@[simp] theorem setHearth_conn (f : Hearth → Hearth) : (s.setHearth f).conn = s.conn := rfl

@[simp] theorem setHcore_pending (k : Nat) (f : HCore → HCore) : (s.setHcore k f).pending = s.pending := rfl
@[simp] theorem setHcore_aon (k : Nat) (f : HCore → HCore) : (s.setHcore k f).aon = s.aon := rfl
@[simp] theorem setHcore_fresh (k : Nat) (f : HCore → HCore) : (s.setHcore k f).fresh = s.fresh := rfl
@[simp] theorem setHcore_out (k : Nat) (f : HCore → HCore) : (s.setHcore k f).out = s.out := rfl
@[simp] theorem setHcore_shadow (k : Nat) (f : HCore → HCore) : (s.setHcore k f).shadow = s.shadow := rfl
@[simp] theorem setHcore_staging (k : Nat) (f : HCore → HCore) : (s.setHcore k f).staging = s.staging := rfl
@[simp] theorem setHcore_woLow (k : Nat) (f : HCore → HCore) : (s.setHcore k f).woLow = s.woLow := rfl
@[simp] theorem setHcore_setts (k : Nat) (f : HCore → HCore) : (s.setHcore k f).setts = s.setts := rfl
@[simp] theorem setHcore_cairn (k : Nat) (f : HCore → HCore) : (s.setHcore k f).cairn = s.cairn := rfl
@[simp] theorem setHcore_mem (k : Nat) (f : HCore → HCore) : (s.setHcore k f).mem = s.mem := rfl
@[simp] theorem setHcore_xlat (k : Nat) (f : HCore → HCore) : (s.setHcore k f).xlat = s.xlat := rfl
@[simp] theorem setHcore_stile (k : Nat) (f : HCore → HCore) : (s.setHcore k f).stile = s.stile := rfl
@[simp] theorem setHcore_golger (k : Nat) (f : HCore → HCore) : (s.setHcore k f).golger = s.golger := rfl
@[simp] theorem setHcore_mortar (k : Nat) (f : HCore → HCore) : (s.setHcore k f).mortar = s.mortar := rfl
@[simp] theorem setHcore_codec (k : Nat) (f : HCore → HCore) : (s.setHcore k f).codec = s.codec := rfl
@[simp] theorem setHcore_power (k : Nat) (f : HCore → HCore) : (s.setHcore k f).power = s.power := rfl
@[simp] theorem setHcore_telem (k : Nat) (f : HCore → HCore) : (s.setHcore k f).telem = s.telem := rfl
@[simp] theorem setHcore_test (k : Nat) (f : HCore → HCore) : (s.setHcore k f).test = s.test := rfl
@[simp] theorem setHcore_conn (k : Nat) (f : HCore → HCore) : (s.setHcore k f).conn = s.conn := rfl

@[simp] theorem setPower_pending (f : Power → Power) : (s.setPower f).pending = s.pending := rfl
@[simp] theorem setPower_aon (f : Power → Power) : (s.setPower f).aon = s.aon := rfl
@[simp] theorem setPower_fresh (f : Power → Power) : (s.setPower f).fresh = s.fresh := rfl
@[simp] theorem setPower_out (f : Power → Power) : (s.setPower f).out = s.out := rfl
@[simp] theorem setPower_shadow (f : Power → Power) : (s.setPower f).shadow = s.shadow := rfl
@[simp] theorem setPower_staging (f : Power → Power) : (s.setPower f).staging = s.staging := rfl
@[simp] theorem setPower_woLow (f : Power → Power) : (s.setPower f).woLow = s.woLow := rfl
@[simp] theorem setPower_setts (f : Power → Power) : (s.setPower f).setts = s.setts := rfl
@[simp] theorem setPower_cairn (f : Power → Power) : (s.setPower f).cairn = s.cairn := rfl
@[simp] theorem setPower_mem (f : Power → Power) : (s.setPower f).mem = s.mem := rfl
@[simp] theorem setPower_xlat (f : Power → Power) : (s.setPower f).xlat = s.xlat := rfl
@[simp] theorem setPower_stile (f : Power → Power) : (s.setPower f).stile = s.stile := rfl
@[simp] theorem setPower_golger (f : Power → Power) : (s.setPower f).golger = s.golger := rfl
@[simp] theorem setPower_mortar (f : Power → Power) : (s.setPower f).mortar = s.mortar := rfl
@[simp] theorem setPower_codec (f : Power → Power) : (s.setPower f).codec = s.codec := rfl
@[simp] theorem setPower_hearth (f : Power → Power) : (s.setPower f).hearth = s.hearth := rfl
@[simp] theorem setPower_telem (f : Power → Power) : (s.setPower f).telem = s.telem := rfl
@[simp] theorem setPower_test (f : Power → Power) : (s.setPower f).test = s.test := rfl
@[simp] theorem setPower_conn (f : Power → Power) : (s.setPower f).conn = s.conn := rfl

@[simp] theorem setTelem_pending (f : Telem → Telem) : (s.setTelem f).pending = s.pending := rfl
@[simp] theorem setTelem_aon (f : Telem → Telem) : (s.setTelem f).aon = s.aon := rfl
@[simp] theorem setTelem_fresh (f : Telem → Telem) : (s.setTelem f).fresh = s.fresh := rfl
@[simp] theorem setTelem_out (f : Telem → Telem) : (s.setTelem f).out = s.out := rfl
@[simp] theorem setTelem_shadow (f : Telem → Telem) : (s.setTelem f).shadow = s.shadow := rfl
@[simp] theorem setTelem_staging (f : Telem → Telem) : (s.setTelem f).staging = s.staging := rfl
@[simp] theorem setTelem_woLow (f : Telem → Telem) : (s.setTelem f).woLow = s.woLow := rfl
@[simp] theorem setTelem_setts (f : Telem → Telem) : (s.setTelem f).setts = s.setts := rfl
@[simp] theorem setTelem_cairn (f : Telem → Telem) : (s.setTelem f).cairn = s.cairn := rfl
@[simp] theorem setTelem_mem (f : Telem → Telem) : (s.setTelem f).mem = s.mem := rfl
@[simp] theorem setTelem_xlat (f : Telem → Telem) : (s.setTelem f).xlat = s.xlat := rfl
@[simp] theorem setTelem_stile (f : Telem → Telem) : (s.setTelem f).stile = s.stile := rfl
@[simp] theorem setTelem_golger (f : Telem → Telem) : (s.setTelem f).golger = s.golger := rfl
@[simp] theorem setTelem_mortar (f : Telem → Telem) : (s.setTelem f).mortar = s.mortar := rfl
@[simp] theorem setTelem_codec (f : Telem → Telem) : (s.setTelem f).codec = s.codec := rfl
@[simp] theorem setTelem_hearth (f : Telem → Telem) : (s.setTelem f).hearth = s.hearth := rfl
@[simp] theorem setTelem_power (f : Telem → Telem) : (s.setTelem f).power = s.power := rfl
@[simp] theorem setTelem_test (f : Telem → Telem) : (s.setTelem f).test = s.test := rfl
@[simp] theorem setTelem_conn (f : Telem → Telem) : (s.setTelem f).conn = s.conn := rfl

@[simp] theorem withCommand_aon (i : Instr) : (s.withCommand i).aon = s.aon := rfl
@[simp] theorem withCommand_fresh (i : Instr) : (s.withCommand i).fresh = s.fresh := rfl
@[simp] theorem withCommand_out (i : Instr) : (s.withCommand i).out = s.out := rfl
@[simp] theorem withCommand_shadow (i : Instr) : (s.withCommand i).shadow = s.shadow := rfl
@[simp] theorem withCommand_staging (i : Instr) : (s.withCommand i).staging = s.staging := rfl
@[simp] theorem withCommand_woLow (i : Instr) : (s.withCommand i).woLow = s.woLow := rfl
@[simp] theorem withCommand_setts (i : Instr) : (s.withCommand i).setts = s.setts := rfl
@[simp] theorem withCommand_cairn (i : Instr) : (s.withCommand i).cairn = s.cairn := rfl
@[simp] theorem withCommand_mem (i : Instr) : (s.withCommand i).mem = s.mem := rfl
@[simp] theorem withCommand_xlat (i : Instr) : (s.withCommand i).xlat = s.xlat := rfl
@[simp] theorem withCommand_stile (i : Instr) : (s.withCommand i).stile = s.stile := rfl
@[simp] theorem withCommand_golger (i : Instr) : (s.withCommand i).golger = s.golger := rfl
@[simp] theorem withCommand_mortar (i : Instr) : (s.withCommand i).mortar = s.mortar := rfl
@[simp] theorem withCommand_codec (i : Instr) : (s.withCommand i).codec = s.codec := rfl
@[simp] theorem withCommand_hearth (i : Instr) : (s.withCommand i).hearth = s.hearth := rfl
@[simp] theorem withCommand_power (i : Instr) : (s.withCommand i).power = s.power := rfl
@[simp] theorem withCommand_telem (i : Instr) : (s.withCommand i).telem = s.telem := rfl
@[simp] theorem withCommand_test (i : Instr) : (s.withCommand i).test = s.test := rfl
@[simp] theorem withCommand_conn (i : Instr) : (s.withCommand i).conn = s.conn := rfl

/-! A sett of a run by its logical index: it stands on the array, or in the run's save -/

@[simp] theorem setRunSett_pending (c r l : Nat) (f : Sett → Sett) : (s.setRunSett c r l f).pending = s.pending := by
  simp only [State.setRunSett]; repeat' split
  all_goals rfl
@[simp] theorem setRunSett_aon (c r l : Nat) (f : Sett → Sett) : (s.setRunSett c r l f).aon = s.aon := by
  simp only [State.setRunSett]; repeat' split
  all_goals rfl
@[simp] theorem setRunSett_fresh (c r l : Nat) (f : Sett → Sett) : (s.setRunSett c r l f).fresh = s.fresh := by
  simp only [State.setRunSett]; repeat' split
  all_goals rfl
@[simp] theorem setRunSett_out (c r l : Nat) (f : Sett → Sett) : (s.setRunSett c r l f).out = s.out := by
  simp only [State.setRunSett]; repeat' split
  all_goals rfl
@[simp] theorem setRunSett_shadow (c r l : Nat) (f : Sett → Sett) : (s.setRunSett c r l f).shadow = s.shadow := by
  simp only [State.setRunSett]; repeat' split
  all_goals rfl
@[simp] theorem setRunSett_staging (c r l : Nat) (f : Sett → Sett) : (s.setRunSett c r l f).staging = s.staging := by
  simp only [State.setRunSett]; repeat' split
  all_goals rfl
@[simp] theorem setRunSett_woLow (c r l : Nat) (f : Sett → Sett) : (s.setRunSett c r l f).woLow = s.woLow := by
  simp only [State.setRunSett]; repeat' split
  all_goals rfl
@[simp] theorem setRunSett_cairn (c r l : Nat) (f : Sett → Sett) : (s.setRunSett c r l f).cairn = s.cairn := by
  simp only [State.setRunSett]; repeat' split
  all_goals rfl
@[simp] theorem setRunSett_mem (c r l : Nat) (f : Sett → Sett) : (s.setRunSett c r l f).mem = s.mem := by
  simp only [State.setRunSett]; repeat' split
  all_goals rfl
@[simp] theorem setRunSett_xlat (c r l : Nat) (f : Sett → Sett) : (s.setRunSett c r l f).xlat = s.xlat := by
  simp only [State.setRunSett]; repeat' split
  all_goals rfl
@[simp] theorem setRunSett_golger (c r l : Nat) (f : Sett → Sett) : (s.setRunSett c r l f).golger = s.golger := by
  simp only [State.setRunSett]; repeat' split
  all_goals rfl
@[simp] theorem setRunSett_mortar (c r l : Nat) (f : Sett → Sett) : (s.setRunSett c r l f).mortar = s.mortar := by
  simp only [State.setRunSett]; repeat' split
  all_goals rfl
@[simp] theorem setRunSett_codec (c r l : Nat) (f : Sett → Sett) : (s.setRunSett c r l f).codec = s.codec := by
  simp only [State.setRunSett]; repeat' split
  all_goals rfl
@[simp] theorem setRunSett_hearth (c r l : Nat) (f : Sett → Sett) : (s.setRunSett c r l f).hearth = s.hearth := by
  simp only [State.setRunSett]; repeat' split
  all_goals rfl
@[simp] theorem setRunSett_power (c r l : Nat) (f : Sett → Sett) : (s.setRunSett c r l f).power = s.power := by
  simp only [State.setRunSett]; repeat' split
  all_goals rfl
@[simp] theorem setRunSett_telem (c r l : Nat) (f : Sett → Sett) : (s.setRunSett c r l f).telem = s.telem := by
  simp only [State.setRunSett]; repeat' split
  all_goals rfl
@[simp] theorem setRunSett_test (c r l : Nat) (f : Sett → Sett) : (s.setRunSett c r l f).test = s.test := by
  simp only [State.setRunSett]; repeat' split
  all_goals rfl
@[simp] theorem setRunSett_conn (c r l : Nat) (f : Sett → Sett) : (s.setRunSett c r l f).conn = s.conn := by
  simp only [State.setRunSett]; repeat' split
  all_goals rfl

/-! Reading what was written -/

theorem sett_setSett_self (i : Nat) (f : Sett → Sett) (h : f (s.sett i) ≠ Sett.reset) :
    (s.setSett i f).sett i = f (s.sett i) := get_set_self _ _ _ _ h

theorem sett_setSett_other (i j : Nat) (f : Sett → Sett) (h : f (s.sett i) ≠ Sett.reset) (hij : j ≠ i) :
    (s.setSett i f).sett j = s.sett j := get_set_other _ _ _ _ _ h hij

theorem setSett_setSett (i : Nat) (f g : Sett → Sett) (h : f (s.sett i) ≠ Sett.reset) :
    (s.setSett i f).setSett i g = s.setSett i fun t => g (f t) := by
  have h1 : (s.setSett i f).sett i = f (s.sett i) := sett_setSett_self s i f h
  unfold State.sett at h1 h
  simp only [State.setSett, SMap.modify] at h1 ⊢
  rw [h1, set_set _ _ _ _ _ h]

end Sys2Proof.Laws
end

