-- ==== Sys2Proof/Laws/Issue.lean ====
section
/-! SUPPORT. What the issue of a sett instruction does when nothing holds the sett. -/

namespace Sys2Proof.Laws

open Sys2Proof.Machine

@[simp] theorem hazard_nil (a b : List Nat) : hazard [] a b = false := rfl

theorem setSett_const (s : State) (i : Nat) (f : Sett → Sett) : s.setSett i f = s.setSett i fun _ => f (s.sett i) := rfl

/-! The mark that an issue leaves touches nothing but the run's own record and the phase of the sett -/

@[simp] theorem markIssued_pending (i : Nat) (s : State) : (markIssued i s).pending = s.pending := rfl
@[simp] theorem markIssued_mem (i : Nat) (s : State) : (markIssued i s).mem = s.mem := rfl
@[simp] theorem markIssued_power (i : Nat) (s : State) : (markIssued i s).power = s.power := rfl
@[simp] theorem markIssued_cairn (i : Nat) (s : State) : (markIssued i s).cairn = s.cairn := rfl
@[simp] theorem markIssued_mortar (i : Nat) (s : State) : (markIssued i s).mortar = s.mortar := rfl
@[simp] theorem markIssued_golger (i : Nat) (s : State) : (markIssued i s).golger = s.golger := rfl
@[simp] theorem markIssued_xlat (i : Nat) (s : State) : (markIssued i s).xlat = s.xlat := rfl
@[simp] theorem markIssued_now (i : Nat) (s : State) : (markIssued i s).now = s.now := rfl
@[simp] theorem markIssued_fresh (i : Nat) (s : State) : (markIssued i s).fresh = s.fresh := rfl

/-- A sett that issues does not stand as at reset once it is marked: its phase is not gated. -/
theorem marked_ne (s : State) (i : Nat) (h : s.settIssues i = true) :
    ({ s.sett i with phase := issuePhase (s.settMode i) (s.sett i).phase } : Sett) ≠ Sett.reset := by
  intro e
  have hp := congrArg Sett.phase e
  simp only [State.settIssues, Bool.and_eq_true, Bool.or_eq_true, beq_iff_eq] at h
  have hr : Sett.reset.phase = .gated := rfl
  rw [hr] at hp
  dsimp only [issuePhase] at hp
  split at hp
  · exact absurd hp (by decide)
  · next hn =>
    rcases h.1.1.1.1.1 with (h1 | h1) | h1
    · rw [h1] at hp; exact absurd hp (by decide)
    · rw [h1] at hp; exact absurd hp (by decide)
    · exact hn ⟨h1, .inl hp⟩

/-- The sett that has issued. -/
theorem markIssued_sett (s : State) (i : Nat) (h : s.settIssues i = true) :
    (markIssued i s).sett i = { s.sett i with phase := issuePhase (s.settMode i) (s.sett i).phase } := by
  rw [markIssued]
  exact sett_setSett_self _ _ _ (marked_ne s i h)

/-- The others stand. -/
theorem markIssued_other (s : State) (i j : Nat) (h : s.settIssues i = true) (hj : j ≠ i) : (markIssued i s).sett j = s.sett j := by
  rw [markIssued]
  exact sett_setSett_other _ _ _ _ (marked_ne s i h) hj

/-- A sett that runs or tests itself keeps its phase. -/
theorem markIssued_running (s : State) (i : Nat) (h : s.settIssues i = true)
    (hp : (s.sett i).phase = .running ∨ (s.sett i).phase = .selfTest) : (markIssued i s).sett i = s.sett i := by
  rw [markIssued_sett s i h]
  unfold issuePhase
  rcases hp with hp | hp <;> rw [hp] <;> rw [if_neg (by simp)] <;> rw [← hp]

/-- The instruction of the issue unit that no stall of its own holds. -/
theorem settIssue_now (ins : Instr) (u : Use) (s : State) (t' : Sett) (hu : useOf ins = some u) (hn : u.unit = none)
    (hs : issuesNow s u.st u.h) (hst : issueStall (s.sett u.st) ins u = none)
    (he : issueEffect u.st ins (markIssued u.st s) ((markIssued u.st s).sett u.st) = some t') :
    settIssue ins s = (markIssued u.st s).setSett u.st fun _ => if isCtl ins then t' else { t' with pc := t'.pc + step8 u } := by
  obtain ⟨h1, h2, -, -, h4⟩ := hs
  simp only [settIssue, hu, h1, h2, Bool.and_self, if_true, issueFree, hn, hst, h4, he, Bool.not_true,
    Bool.false_and, Bool.false_eq_true, if_false]

/-- With no instruction in a unit only SYNC.WAIT can stall. -/
theorem issueStall_now (t : Sett) (ins : Instr) (u : Use) (hq : t.queue = []) (hl : t.lane0 u.h.pred = true)
    (hw : ∀ st h f, ins ≠ .syncWait st h f) : issueStall t ins u = none := by
  simp only [issueStall, hq, hazard_nil, hl, Bool.false_eq_true, if_false, Bool.not_true, Bool.false_and]
  split
  · rfl
  split
  · next st h f _ => exact absurd rfl (hw st h f)
  · rfl
  · rfl

/-- A suppressed instruction of the issue unit only advances the pc (R84). -/
theorem settIssue_suppressed (ins : Instr) (u : Use) (s : State) (hu : useOf ins = some u) (hn : u.unit = none)
    (hs : suppressedNow s u.st u.h) (hb : isBranch ins = false) :
    settIssue ins s = (markIssued u.st s).setSett u.st fun t => { t with pc := t.pc + step8 u } := by
  obtain ⟨h1, h2, h3, -, h4⟩ := hs
  have hst : issueStall (s.sett u.st) ins u = none := by
    simp only [issueStall, h3, hazard_nil, h4, hb, Bool.not_false, Bool.and_self, Bool.false_eq_true, if_false, if_true]
    split <;> rfl
  simp only [settIssue, hu, h1, h2, Bool.and_self, if_true, issueFree, hn, hst, h4, hb, Bool.not_false]

/-- Everything that happens when a unit of an idle sett takes an instruction: it enters the queue and is attempted. -/
theorem settIssue_unit (ins : Instr) (u : Use) (q : UnitId) (s : State) (hu : useOf ins = some u) (hn : u.unit = some q)
    (hs : issuesAny s u.st) :
    settIssue ins s = runEntry failRun u.st (s.sett u.st).nextSeq (accepted s u.st q ins (step8 u)) := by
  obtain ⟨h1, h2, h3, -⟩ := hs
  have hd : ¬ unitDepth q ≤ 0 := by cases q <;> decide
  have hne : ∀ t : Sett, t.queue ≠ [] → t ≠ Sett.reset := by
    intro t h e; subst e; exact h rfl
  have hm := markIssued_sett s u.st h1
  have hg : (accepted s u.st q ins (step8 u)).sett u.st =
      { s.sett u.st with phase := issuePhase (s.settMode u.st) (s.sett u.st).phase, pc := (s.sett u.st).pc + step8 u
                         nextSeq := (s.sett u.st).nextSeq + 1, queue := [entryOf s u.st q ins .queued] } := by
    refine (sett_setSett_self _ _ _ (hne _ (by simp))).trans ?_
    rw [hm]
  have ha : settIssue ins s = advance u.st (accepted s u.st q ins (step8 u)) := by
    simp only [settIssue, hu, h1, h2, Bool.and_self, if_true, issueFree, hn, h3, List.filter_nil, List.length_nil,
      hd, if_false]
    apply congrArg (advance u.st)
    refine (setSett_const _ u.st _).trans (Eq.trans ?_ (setSett_const _ u.st _).symm)
    simp [h3, hm, entryOf]
  rw [ha, advance, advanceBy, hg]
  simp only [List.map, List.foldl, tryEntry, hg]
  simp [entryOf, entryFree, Sett.ahead, Sett.before]

end Sys2Proof.Laws
end

