-- ==== Sys2Proof/Laws/Keeps.lean ====
section
/-! SUPPORT. What every effect keeps: the queue of commands, a legal power state and canonical memory. The relation, the states
that outcomes carry, and sequences and folds. -/

namespace Sys2Proof.Laws

open Sys2Proof.Machine

set_option linter.unusedSimpArgs false

/-- `Mem.wf` as a proposition. -/
structure MemOk (m : Mem) : Prop where
  dev : SMap.wf 0 m.dev = true
  host : SMap.wf none m.host = true
  errs : SMap.wf [] m.errs = true
  stuck : SMap.wf [] m.stuck = true
  groupCrc : SMap.wf false m.groupCrc = true
  link : SMap.wf [] m.link = true
  lines : SMap.wf Line.none m.lines = true
  hostEnd : SMap.wf none m.hostEnd = true
/-- The map of the setts is canonical. -/
def SettsOk (m : SMap Sett) : Prop := SMap.wf Sett.reset m = true

/-- From `s` to `t` the queue of commands stands, and a legal power state, a canonical memory and a canonical map of setts
stay so. -/
structure Keeps (s t : State) : Prop where
  queue : t.pending = s.pending
  power : Power.legal s.power → Power.legal t.power
  mem : MemOk s.mem → MemOk t.mem
  setts : SettsOk s.setts → SettsOk t.setts

theorem memOk_iff (m : Mem) : m.wf = true ↔ MemOk m := by
  simp only [Mem.wf, Bool.and_eq_true]
  exact ⟨fun ⟨⟨⟨⟨⟨⟨⟨a, b⟩, c⟩, d⟩, e⟩, f⟩, g⟩, h⟩ => ⟨a, b, c, d, e, f, g, h⟩,
    fun ⟨a, b, c, d, e, f, g, h⟩ => ⟨⟨⟨⟨⟨⟨⟨a, b⟩, c⟩, d⟩, e⟩, f⟩, g⟩, h⟩⟩

theorem Keeps.trans {a b c : State} (h1 : Keeps a b) (h2 : Keeps b c) : Keeps a c :=
  ⟨h2.1.trans h1.1, fun x => h2.2 (h1.2 x), fun x => h2.3 (h1.3 x), fun x => h2.4 (h1.4 x)⟩
theorem Keeps.after {a b c : State} (h2 : Keeps b c) (h1 : Keeps a b) : Keeps a c := h1.trans h2
theorem Keeps.refl (a : State) : Keeps a a := ⟨rfl, id, id, id⟩

theorem foldl_keeps {α} (g : State → α → State) (h : ∀ s a, Keeps s (g s a)) (l : List α) (s : State) : Keeps s (l.foldl g s) := by
  induction l generalizing s with
  | nil => exact Keeps.refl _
  | cons a t ih => exact (h s a).trans (ih (g s a))
theorem foldl_keeps1 {α β} (g : State × β → α → State × β) (h : ∀ r a, Keeps r.1 (g r a).1) (l : List α) (s : State × β) : Keeps s.1 (l.foldl g s).1 := by
  induction l generalizing s with
  | nil => exact Keeps.refl _
  | cons a t ih => exact (h s a).trans (ih (g s a))

/-! The state that an outcome carries, and what else tells it apart -/

def Res.st {α} : Res α → State | .ok _ s => s | .fault _ _ _ s => s | .bad _ s => s
def Acc.st : Acc → State | .ok _ s => s | .fault _ s => s | .bad _ s => s
def Eff.st : Eff → State | .done s => s | .wait _ _ _ s => s | .fault _ _ _ _ _ s => s | .bad _ s => s
def sumSt : Eff ⊕ Nat × State → State | .inl e => Eff.st e | .inr x => x.2
def sumSt3 : Eff ⊕ Nat × Nat × State → State | .inl e => Eff.st e | .inr x => x.2.2
theorem bind_keeps {α β} (r : Res α) (f : α → State → Res β) (h : ∀ a s, Keeps s (Res.st (f a s))) : Keeps (Res.st r) (Res.st (r.bind f)) := by
  cases r with
  | ok a s => exact h a s
  | fault => exact Keeps.refl _
  | bad => exact Keeps.refl _
theorem mapM_keeps {α β} (f : α → State → Res β) (h : ∀ a s, Keeps s (Res.st (f a s))) (l : List α) (s : State) : Keeps s (Res.st (Res.mapM f l s)) := by
  induction l generalizing s with
  | nil => exact Keeps.refl _
  | cons a t ih =>
    refine Keeps.trans (h a s) (bind_keeps _ _ ?_)
    intro b s
    refine Keeps.trans (ih s) (bind_keeps _ _ ?_)
    intro b s
    exact Keeps.refl _
theorem toRes_keeps (va k) (a : Acc) : Res.st (a.toRes va k) = Acc.st a := by cases a <;> rfl
theorem toEff_keeps (a : Res Unit) : Eff.st a.toEff = Res.st a := by cases a <;> rfl
theorem setSett_keeps0 (s : State) (i : Nat) (f : Sett → Sett) : Keeps s (s.setSett i f) := ⟨rfl, id, id, fun h => wf_modify _ _ _ _ h⟩
theorem clearTrace_keeps (i : Nat) (s : State) : Keeps s (clearTrace i s) := by
  unfold clearTrace
  split <;> first | exact Keeps.refl _ | exact setSett_keeps0 ..
theorem runSteps_keeps (i : Nat) (f : Nat → State → Res Unit) (h : ∀ a s, Keeps s (Res.st (f a s))) (n k : Nat) (s : State) :
    Keeps s (Eff.st (runSteps i f n k s)) := by
  induction n generalizing k s with
  | zero => exact Keeps.refl _
  | succ n ih =>
    have := h k s
    unfold runSteps
    split
    · next e => rw [e] at this; exact this.trans ((clearTrace_keeps ..).trans (ih _ _))
    · next e => rw [e] at this; exact this
    · next e => rw [e] at this; exact this
theorem stepsFrom_keeps (i : Nat) (f : Nat → State → Res Unit) (h : ∀ a s, Keeps s (Res.st (f a s))) (n k : Nat) (s : State) :
    Keeps s (Eff.st (stepsFrom i f n k s)) := by
  simp only [stepsFrom]; exact runSteps_keeps i f h _ _ s
def postSt : Posted → State | .accepted s => s | .full s => s | .ended r => Res.st r
def movedSt : Moved → State | .more s => s | .stop s => s
def didSt : Did → State | .ok s => s | .fault _ _ _ s => s | .bad _ s => s
def replySt : Reply → State | .now _ _ s => s | .later s => s
theorem bindK {α β} {s0 : State} {r : Res α} {f : α → State → Res β} (h1 : Keeps s0 (Res.st r)) (h2 : ∀ a s, Keeps s (Res.st (f a s))) : Keeps s0 (Res.st (r.bind f)) := h1.trans (bind_keeps r f h2)
theorem foldK {α} {s0 s : State} {g : State → α → State} {l : List α} (h1 : Keeps s0 s) (h2 : ∀ s a, Keeps s (g s a)) : Keeps s0 (l.foldl g s) := h1.trans (foldl_keeps g h2 l s)
theorem Keeps.upd {s0 s t : State} (h : Keeps s0 s) (h1 : t.pending = s.pending) (h2 : t.power = s.power) (h3 : t.mem = s.mem) (h4 : t.setts = s.setts) : Keeps s0 t := by
  refine ⟨h1.trans h.1, ?_, ?_, ?_⟩
  · rw [h2]; exact h.2
  · rw [h3]; exact h.3
  · rw [h4]; exact h.4
theorem wf_foldl_set {α β : Type} [DecidableEq α] (d : α) (put : SMap α → β → SMap α) (hp : ∀ t e, SMap.wf d t = true → SMap.wf d (put t e) = true)
    (l : List β) (t : SMap α) (h : SMap.wf d t = true) : SMap.wf d (l.foldl put t) = true := by
  induction l generalizing t with
  | nil => exact h
  | cons a l ih => exact ih _ (hp _ _ h)
theorem powReset : Power.legal Power.reset := by unfold Power.legal; decide
theorem saveK {s0 s : State} (h : Keeps s0 s) (ag : Agent) (va : Nat) (bs : List Byte) (r : Nat × Acc) (e : writeRange s ag .write va bs = r) (hk : Keeps s (Acc.st (writeRange s ag .write va bs).2)) :
    Keeps s0 (match r.2 with | .ok _ s' => s' | .fault _ s' => s' | .bad _ s' => s') := by
  rw [e] at hk
  obtain ⟨n, a⟩ := r
  cases a <;> exact h.trans hk
theorem setPowerK {s0 s : State} {f : Power → Power} (h1 : Keeps s0 s) (h : s.power.legal → (f s.power).legal) : Keeps s0 (s.setPower f) :=
  ⟨h1.1, fun x => h (h1.2 x), h1.3, h1.4⟩
theorem clamp_le (lo hi x : Nat) (h : lo ≤ hi) : lo ≤ clampNat lo hi x ∧ clampNat lo hi x ≤ hi := by
  unfold clampNat; split
  · omega
  · split <;> omega
theorem legal_limit (p : Power) (x : Nat) (hp : p.legal) : Power.legal { p with limit := clampNat 800 2400 x } := by
  obtain ⟨a, b, c, d, e, f, g, i, j, k, m⟩ := hp
  have hc := clamp_le 800 2400 x (by decide)
  exact ⟨a, b, c, d, e, f, g, hc.1, hc.2, k, m⟩
theorem wantedLevel_le (p : Power) : wantedLevel p ≤ 3 := by
  unfold wantedLevel powerLevel currentLevel voltageLevel heatLevel
  repeat' split
  all_goals decide
theorem stepAt_if (p : Power) (l : Nat) : stepAt p l = if l = 0 then p.fmax else if l = 1 then min p.step p.fmax else 8 := by
  rcases l with _ | _ | l
  · rfl
  · rfl
  · simp [stepAt]
theorem legal_rise (p : Power) (l : Nat) (c : W64) (hp : p.legal) (hl : l ≤ 3) (h0 : 0 < l) :
    Power.legal { p with level := l, step := stepAt p l, emergCnt := c } := by
  obtain ⟨a, b, c, d, e, f, g, i, j, k, m⟩ := hp
  unfold Power.legal
  simp only [stepAt_if]
  repeat' split
  all_goals omega

/-- `s` with every field but queue, power, memory and setts replaced; opaque to unification, unlike the record. -/
@[irreducible] def anew (s : State) (a : W64) (b : Nat) (c : List Out) (d e : SMap (Option (Nat × W32))) (f : SMap W32) (g : SMap Cairn) (i : Xlat) (j : Stile)
    (k : Golger) (l : Mortar) (m : Codec) (n : Hearth) (o : Telem) (p : Test) (q : Conn) : State :=
  ⟨s.pending, a, b, c, d, e, f, s.setts, g, s.mem, i, j, k, l, m, n, s.power, o, p, q⟩
theorem mk_anew (s : State) (a : W64) (b : Nat) (c : List Out) (d e : SMap (Option (Nat × W32))) (f : SMap W32) (g : SMap Cairn) (i : Xlat) (j : Stile)
    (k : Golger) (l : Mortar) (m : Codec) (n : Hearth) (o : Telem) (p : Test) (q : Conn) :
    State.mk s.pending a b c d e f s.setts g s.mem i j k l m n s.power o p q = anew s a b c d e f g i j k l m n o p q := by unfold anew; rfl
theorem anew_keeps (s : State) (a : W64) (b : Nat) (c : List Out) (d e : SMap (Option (Nat × W32))) (f : SMap W32) (g : SMap Cairn) (i : Xlat) (j : Stile)
    (k : Golger) (l : Mortar) (m : Codec) (n : Hearth) (o : Telem) (p : Test) (q : Conn) : Keeps s (anew s a b c d e f g i j k l m n o p q) := by
  unfold anew; exact ⟨rfl, id, id, id⟩
theorem Keeps.ite {s0 a b : State} {c : Prop} [Decidable c] (h1 : Keeps s0 a) (h2 : Keeps s0 b) : Keeps s0 (if c then a else b) := by
  split <;> assumption
theorem Keeps.stOk {s0 s : State} {α} {a : α} (h : Keeps s0 s) : Keeps s0 (Res.st (.ok a s)) := h
theorem Keeps.stFault {s0 s : State} {α} {a b c} (h : Keeps s0 s) : Keeps s0 (Res.st (.fault a b c s : Res α)) := h
theorem Keeps.stBad {s0 s : State} {α} {a} (h : Keeps s0 s) : Keeps s0 (Res.st (.bad a s : Res α)) := h
theorem Keeps.stAok {s0 s : State} {a} (h : Keeps s0 s) : Keeps s0 (Acc.st (.ok a s)) := h
theorem Keeps.stAfault {s0 s : State} {a} (h : Keeps s0 s) : Keeps s0 (Acc.st (.fault a s)) := h
theorem Keeps.stAbad {s0 s : State} {a} (h : Keeps s0 s) : Keeps s0 (Acc.st (.bad a s)) := h
theorem Keeps.stDone {s0 s : State} (h : Keeps s0 s) : Keeps s0 (Eff.st (.done s)) := h
theorem Keeps.stWait {s0 s : State} {a b c} (h : Keeps s0 s) : Keeps s0 (Eff.st (.wait a b c s)) := h
theorem Keeps.stEfault {s0 s : State} {a b c d e} (h : Keeps s0 s) : Keeps s0 (Eff.st (.fault a b c d e s)) := h
theorem Keeps.stEbad {s0 s : State} {a} (h : Keeps s0 s) : Keeps s0 (Eff.st (.bad a s)) := h
theorem Keeps.stAcc {s0 s : State} (h : Keeps s0 s) : Keeps s0 (postSt (.accepted s)) := h
theorem Keeps.stEnded {s0 : State} {r : Res Unit} (h : Keeps s0 (Res.st r)) : Keeps s0 (postSt (.ended r)) := h
theorem Keeps.stFull {s0 s : State} (h : Keeps s0 s) : Keeps s0 (postSt (.full s)) := h
theorem Keeps.stMore {s0 s : State} (h : Keeps s0 s) : Keeps s0 (movedSt (.more s)) := h
theorem Keeps.stStop {s0 s : State} (h : Keeps s0 s) : Keeps s0 (movedSt (.stop s)) := h
theorem Keeps.stDok {s0 s : State} (h : Keeps s0 s) : Keeps s0 (didSt (.ok s)) := h
theorem Keeps.stDfault {s0 s : State} {a b c} (h : Keeps s0 s) : Keeps s0 (didSt (.fault a b c s)) := h
theorem Keeps.stDbad {s0 s : State} {a} (h : Keeps s0 s) : Keeps s0 (didSt (.bad a s)) := h
theorem Keeps.stNow {s0 s : State} {a b} (h : Keeps s0 s) : Keeps s0 (replySt (.now a b s)) := h
theorem Keeps.stLater {s0 s : State} (h : Keeps s0 s) : Keeps s0 (replySt (.later s)) := h
theorem Keeps.stInr {s0 s : State} {a} (h : Keeps s0 s) : Keeps s0 (sumSt (.inr (a, s))) := h
theorem Keeps.stInl {s0 : State} {e : Eff} (h : Keeps s0 (Eff.st e)) : Keeps s0 (sumSt (.inl e)) := h
theorem Keeps.toRes {s0 : State} {va k} {a : Acc} (h : Keeps s0 (Acc.st a)) : Keeps s0 (Res.st (a.toRes va k)) := by rw [toRes_keeps]; exact h
theorem Keeps.toEff {s0 : State} {a : Res Unit} (h : Keeps s0 (Res.st a)) : Keeps s0 (Eff.st a.toEff) := by rw [toEff_keeps]; exact h
theorem Keeps.iteRes {α} {s0 : State} {a b : Res α} {c : Prop} [Decidable c] (h1 : Keeps s0 (Res.st a)) (h2 : Keeps s0 (Res.st b)) :
    Keeps s0 (Res.st (if c then a else b)) := by split <;> assumption
theorem Keeps.iteAcc {s0 : State} {a b : Acc} {c : Prop} [Decidable c] (h1 : Keeps s0 (Acc.st a)) (h2 : Keeps s0 (Acc.st b)) :
    Keeps s0 (Acc.st (if c then a else b)) := by split <;> assumption
theorem Keeps.iteEff {s0 : State} {a b : Eff} {c : Prop} [Decidable c] (h1 : Keeps s0 (Eff.st a)) (h2 : Keeps s0 (Eff.st b)) :
    Keeps s0 (Eff.st (if c then a else b)) := by split <;> assumption
theorem Keeps.iteSum {s0 : State} {a b : Eff ⊕ Nat × State} {c : Prop} [Decidable c] (h1 : Keeps s0 (sumSt a)) (h2 : Keeps s0 (sumSt b)) :
    Keeps s0 (sumSt (if c then a else b)) := by split <;> assumption
theorem Keeps.iteReply {s0 : State} {a b : Reply} {c : Prop} [Decidable c] (h1 : Keeps s0 (replySt a)) (h2 : Keeps s0 (replySt b)) :
    Keeps s0 (replySt (if c then a else b)) := by split <;> assumption
theorem Keeps.iteMoved {s0 : State} {a b : Moved} {c : Prop} [Decidable c] (h1 : Keeps s0 (movedSt a)) (h2 : Keeps s0 (movedSt b)) :
    Keeps s0 (movedSt (if c then a else b)) := by split <;> assumption
theorem Keeps.iteDid {s0 : State} {a b : Did} {c : Prop} [Decidable c] (h1 : Keeps s0 (didSt a)) (h2 : Keeps s0 (didSt b)) :
    Keeps s0 (didSt (if c then a else b)) := by split <;> assumption
theorem Keeps.itePost {s0 : State} {a b : Posted} {c : Prop} [Decidable c] (h1 : Keeps s0 (postSt a)) (h2 : Keeps s0 (postSt b)) :
    Keeps s0 (postSt (if c then a else b)) := by split <;> assumption
theorem Keeps.iteFst {β} {s0 : State} {a b : State × β} {c : Prop} [Decidable c] (h1 : Keeps s0 a.1) (h2 : Keeps s0 b.1) : Keeps s0 (if c then a else b).1 := by
  split <;> assumption
theorem Keeps.iteSnd {β} {s0 : State} {a b : β × State} {c : Prop} [Decidable c] (h1 : Keeps s0 a.2) (h2 : Keeps s0 b.2) : Keeps s0 (if c then a else b).2 := by
  split <;> assumption
theorem Keeps.stSome {s0 s d : State} (h : Keeps s0 s) : Keeps s0 ((some s).getD d) := h
theorem Keeps.stNone {s0 s : State} (h : Keeps s0 s) : Keeps s0 (none.getD s) := h
theorem Keeps.iteGet {s0 d : State} {a b : Option State} {c : Prop} [Decidable c] (h1 : Keeps s0 (a.getD d)) (h2 : Keeps s0 (b.getD d)) :
    Keeps s0 ((if c then a else b).getD d) := by split <;> assumption
theorem Keeps.ofOk {α} {s0 s : State} {r : Res α} {a} (e : r = .ok a s) (h : Keeps s0 (Res.st r)) : Keeps s0 s := by rw [e] at h; exact h
theorem Keeps.ofFault {α} {s0 s : State} {r : Res α} {a b c} (e : r = .fault a b c s) (h : Keeps s0 (Res.st r)) : Keeps s0 s := by rw [e] at h; exact h
theorem Keeps.ofBad {α} {s0 s : State} {r : Res α} {a} (e : r = .bad a s) (h : Keeps s0 (Res.st r)) : Keeps s0 s := by rw [e] at h; exact h
theorem Keeps.ofAok {s0 s : State} {r : Acc} {a} (e : r = .ok a s) (h : Keeps s0 (Acc.st r)) : Keeps s0 s := by rw [e] at h; exact h
theorem Keeps.ofAfault {s0 s : State} {r : Acc} {a} (e : r = .fault a s) (h : Keeps s0 (Acc.st r)) : Keeps s0 s := by rw [e] at h; exact h
theorem Keeps.ofAbad {s0 s : State} {r : Acc} {a} (e : r = .bad a s) (h : Keeps s0 (Acc.st r)) : Keeps s0 s := by rw [e] at h; exact h
theorem Keeps.ofRok {α} {s0 s : State} {r : α × Acc} {a v} (e : r = (v, .ok a s)) (h : Keeps s0 (Acc.st r.2)) : Keeps s0 s := by rw [e] at h; exact h
theorem Keeps.ofRfault {α} {s0 s : State} {r : α × Acc} {a v} (e : r = (v, .fault a s)) (h : Keeps s0 (Acc.st r.2)) : Keeps s0 s := by rw [e] at h; exact h
theorem Keeps.ofRbad {α} {s0 s : State} {r : α × Acc} {a v} (e : r = (v, .bad a s)) (h : Keeps s0 (Acc.st r.2)) : Keeps s0 s := by rw [e] at h; exact h
theorem Keeps.ofDone {s0 s : State} {r : Eff} (e : r = .done s) (h : Keeps s0 (Eff.st r)) : Keeps s0 s := by rw [e] at h; exact h
theorem Keeps.ofWait {s0 s : State} {r : Eff} {a b c} (e : r = .wait a b c s) (h : Keeps s0 (Eff.st r)) : Keeps s0 s := by rw [e] at h; exact h
theorem Keeps.ofEfault {s0 s : State} {r : Eff} {a b c d f} (e : r = .fault a b c d f s) (h : Keeps s0 (Eff.st r)) : Keeps s0 s := by rw [e] at h; exact h
theorem Keeps.ofEbad {s0 s : State} {r : Eff} {a} (e : r = .bad a s) (h : Keeps s0 (Eff.st r)) : Keeps s0 s := by rw [e] at h; exact h
theorem Keeps.ofFst {β} {s0 s : State} {r : State × β} {b} (e : r = (s, b)) (h : Keeps s0 r.1) : Keeps s0 s := by rw [e] at h; exact h
theorem Keeps.ofSnd {β} {s0 s : State} {r : β × State} {b} (e : r = (b, s)) (h : Keeps s0 r.2) : Keeps s0 s := by rw [e] at h; exact h
theorem Keeps.ofAcc {s0 s : State} {r : Posted} (e : r = .accepted s) (h : Keeps s0 (postSt r)) : Keeps s0 s := by rw [e] at h; exact h
theorem Keeps.ofEnded {s0 : State} {r : Posted} {x : Res Unit} (e : r = .ended x) (h : Keeps s0 (postSt r)) : Keeps s0 (Res.st x) := by rw [e] at h; exact h
theorem Keeps.ofFull {s0 s : State} {r : Posted} (e : r = .full s) (h : Keeps s0 (postSt r)) : Keeps s0 s := by rw [e] at h; exact h
theorem Keeps.ofMore {s0 s : State} {r : Moved} (e : r = .more s) (h : Keeps s0 (movedSt r)) : Keeps s0 s := by rw [e] at h; exact h
theorem Keeps.ofStop {s0 s : State} {r : Moved} (e : r = .stop s) (h : Keeps s0 (movedSt r)) : Keeps s0 s := by rw [e] at h; exact h
theorem Keeps.ofDok {s0 s : State} {r : Did} (e : r = .ok s) (h : Keeps s0 (didSt r)) : Keeps s0 s := by rw [e] at h; exact h
theorem Keeps.ofDfault {s0 s : State} {r : Did} {a b c} (e : r = .fault a b c s) (h : Keeps s0 (didSt r)) : Keeps s0 s := by rw [e] at h; exact h
theorem Keeps.ofDbad {s0 s : State} {r : Did} {a} (e : r = .bad a s) (h : Keeps s0 (didSt r)) : Keeps s0 s := by rw [e] at h; exact h
theorem Keeps.ofNow {s0 s : State} {r : Reply} {a b} (e : r = .now a b s) (h : Keeps s0 (replySt r)) : Keeps s0 s := by rw [e] at h; exact h
theorem Keeps.ofLater {s0 s : State} {r : Reply} (e : r = .later s) (h : Keeps s0 (replySt r)) : Keeps s0 s := by rw [e] at h; exact h
theorem Keeps.ofInl {s0 : State} {r : Eff ⊕ Nat × State} {x} (e : r = .inl x) (h : Keeps s0 (sumSt r)) : Keeps s0 (Eff.st x) := by rw [e] at h; exact h
theorem Keeps.ofInr {s0 s : State} {r : Eff ⊕ Nat × State} {k} (e : r = .inr (k, s)) (h : Keeps s0 (sumSt r)) : Keeps s0 s := by rw [e] at h; exact h

theorem Keeps.ofGet {s0 s d : State} {r : Option State} (e : r = some s) (h : Keeps s0 (r.getD d)) : Keeps s0 s := by rw [e] at h; exact h
theorem Keeps.ofThird {β γ} {s0 s : State} {r : β × γ × State} {b c} (e : r = (b, c, s)) (h : Keeps s0 r.2.2) : Keeps s0 s := by rw [e] at h; exact h
theorem Keeps.ofPok {α β} {s0 s : State} {r : β × Res α} {a v} (e : r = (v, .ok a s)) (h : Keeps s0 (Res.st r.2)) : Keeps s0 s := by rw [e] at h; exact h
theorem Keeps.ofPfault {α β} {s0 s : State} {r : β × Res α} {a b c v} (e : r = (v, .fault a b c s)) (h : Keeps s0 (Res.st r.2)) : Keeps s0 s := by rw [e] at h; exact h
theorem Keeps.ofPbad {α β} {s0 s : State} {r : β × Res α} {a v} (e : r = (v, .bad a s)) (h : Keeps s0 (Res.st r.2)) : Keeps s0 s := by rw [e] at h; exact h
theorem Keeps.ofQok {α β γ} {s0 s : State} {r : γ × β × Res α} {a v w} (e : r = (w, v, .ok a s)) (h : Keeps s0 (Res.st r.2.2)) : Keeps s0 s := by rw [e] at h; exact h
theorem Keeps.ofQfault {α β γ} {s0 s : State} {r : γ × β × Res α} {a b c v w} (e : r = (w, v, .fault a b c s)) (h : Keeps s0 (Res.st r.2.2)) : Keeps s0 s := by rw [e] at h; exact h
theorem Keeps.ofQbad {α β γ} {s0 s : State} {r : γ × β × Res α} {a v w} (e : r = (w, v, .bad a s)) (h : Keeps s0 (Res.st r.2.2)) : Keeps s0 s := by rw [e] at h; exact h
theorem Keeps.iteThird {β γ} {s0 : State} {a b : β × γ × State} {c : Prop} [Decidable c] (h1 : Keeps s0 a.2.2) (h2 : Keeps s0 b.2.2) :
    Keeps s0 (if c then a else b).2.2 := by split <;> assumption

end Sys2Proof.Laws
end

