-- ==== Sys2Proof/Laws/KeepsSett.lean ====
section
/-! SUPPORT. `Keeps` for memory, rings, the fabric, the sett units and the issue of instructions: one lemma for each operation. -/

namespace Sys2Proof.Laws

open Sys2Proof.Machine

set_option linter.unusedSimpArgs false

theorem State_setDie_keeps (s : State) (d : Nat) (f : DieMem → DieMem) : Keeps s (State.setDie s d f) := by
  exact ⟨rfl, id, fun h => ⟨h.1, h.2, h.3, h.4, h.5, h.6, h.7, h.8⟩, id⟩
theorem State_setLine_keeps (s : State) (k : Nat) (f : Line → Line) : Keeps s (State.setLine s k f) := by
  exact ⟨rfl, id, fun h => ⟨h.1, h.2, h.3, h.4, h.5, h.6, wf_modify _ _ _ _ h.7, h.8⟩, id⟩
theorem State_emit_keeps (s : State) (o : Out) : Keeps s (State.emit s o) := by
  unfold State.emit
  repeat' first | with_reducible apply Keeps.refl | (simp only [mk_anew]; with_reducible apply Keeps.after (anew_keeps ..))
theorem linkTransfer_keeps (s : State) (b : Nat) : Keeps s ((linkTransfer s b).1) := by
  unfold linkTransfer
  split
  · exact Keeps.refl _
  · exact (State_setDie_keeps ..).trans ⟨rfl, id, fun h => ⟨h.1, h.2, h.3, h.4, h.5, wf_set _ _ _ _ h.6, h.7, h.8⟩, id⟩
theorem countBurst_keeps (s : State) (b : Nat) (o : Decoded) : Keeps s ((countBurst s b o).1) := by
  unfold countBurst
  repeat' first
  | with_reducible first
    | apply Keeps.refl | apply Keeps.after (State_setDie_keeps ..)
  | dsimp only
  | split
theorem deliver_keeps (s : State) (b : Nat) (bs : List Byte) : Keeps s (deliver s b bs) := by
  unfold deliver
  dsimp only
  split
  · exact Keeps.refl _
  · exact ⟨rfl, id, fun h => ⟨wf_setMany _ _ _ _ h.1, h.2, wf_set _ _ _ _ h.3, h.4, h.5, h.6, h.7, h.8⟩, id⟩
theorem memRead_keeps (s : State) (b : Nat) : Keeps s ((memRead s b).1) := by
  unfold memRead
  repeat' first
  | with_reducible first
    | apply Keeps.refl | apply Keeps.ite | apply Keeps.after (linkTransfer_keeps ..) | apply Keeps.after (countBurst_keeps ..)
    | apply Keeps.after (deliver_keeps ..)
theorem memWrite_keeps (s : State) (b : Nat) : Keeps s (memWrite s b) := by
  exact (linkTransfer_keeps s b).trans ⟨rfl, id, fun h => ⟨h.1, h.2, wf_set _ _ _ _ h.3, h.4, h.5, h.6, h.7, h.8⟩, id⟩
theorem memPoison_keeps (s : State) (b : Nat) : Keeps s (memPoison s b) := by
  exact (linkTransfer_keeps s b).trans ⟨rfl, id, fun h => ⟨wf_setMany _ _ _ _ h.1, h.2, wf_set _ _ _ _ h.3, h.4, h.5, h.6, h.7, h.8⟩, id⟩
theorem countEcc_keeps (k : Nat) (n : Nat) (s : State) : Keeps s (countEcc k n s) := by
  unfold countEcc
  repeat' first | with_reducible apply Keeps.refl | with_reducible apply Keeps.after (State_setDie_keeps ..)
theorem checkDirty_keeps (k : Nat) (bs : List Nat) (s : State) : Keeps s (checkDirty k bs s) := by
  unfold checkDirty
  repeat' first
  | with_reducible first
    | apply Keeps.refl | apply Keeps.ite | apply Keeps.after (State_setLine_keeps ..) | apply Keeps.after (countEcc_keeps ..)
  | dsimp only
  | split
theorem cleanLine_keeps (s : State) (k : Nat) : Keeps s (cleanLine s k) := by
  unfold cleanLine
  repeat' first
  | with_reducible first
    | apply Keeps.refl | apply Keeps.ite | apply Keeps.after (checkDirty_keeps ..) | apply Keeps.after (memWrite_keeps ..)
    | apply Keeps.after (memPoison_keeps ..) | apply Keeps.after (State_setLine_keeps ..)
    | apply Keeps.after (foldl_keeps _ (fun _ _ => ?_) _ _)
theorem dropLine_keeps (s : State) (k : Nat) : Keeps s (dropLine s k) := by
  unfold dropLine
  repeat' first
  | with_reducible first
    | apply Keeps.refl | apply Keeps.after (State_setLine_keeps ..) | apply Keeps.after (cleanLine_keeps ..)
theorem makeRoom_keeps (s : State) (k : Nat) : Keeps s (makeRoom s k) := by
  unfold makeRoom
  repeat' first
  | with_reducible first
    | apply Keeps.refl | apply Keeps.ite | apply Keeps.after (dropLine_keeps ..)
  | (simp only [mk_anew]; with_reducible apply Keeps.after (anew_keeps ..))
  | dsimp only
  | split
theorem fetchBurst_keeps (s : State) (b : Nat) (alloc : Bool) : Keeps s ((fetchBurst s b alloc).1) := by
  unfold fetchBurst
  repeat' first
  | with_reducible first
    | apply Keeps.refl | apply Keeps.after (memRead_keeps ..) | apply Keeps.after (State_setLine_keeps ..)
    | apply Keeps.after (makeRoom_keeps ..) | apply Keeps.iteFst
theorem doomWaits_keeps (b : Nat) (status : Nat) (s : State) : Keeps s (doomWaits b status s) := by
  unfold doomWaits
  repeat' first
  | with_reducible first
    | apply Keeps.refl | apply Keeps.ite
  | (simp only [mk_anew]; with_reducible apply Keeps.after (anew_keeps ..))
theorem sliceRead_keeps (s : State) (b : Nat) (alloc : Bool) : Keeps s ((sliceRead s b alloc).1) := by
  unfold sliceRead
  repeat' first
  | with_reducible first
    | apply Keeps.refl | apply Keeps.after (fetchBurst_keeps ..) | apply Keeps.after (State_setLine_keeps ..)
    | apply Keeps.after (countEcc_keeps ..) | apply Keeps.iteFst
  | split
theorem readBurst_keeps (s : State) (b : Nat) (alloc : Bool) : Keeps s ((readBurst s b alloc).1) := by
  unfold readBurst
  repeat' first
  | with_reducible first
    | apply Keeps.refl | apply Keeps.ite | apply Keeps.after (sliceRead_keeps ..) | apply Keeps.after (doomWaits_keeps ..)
theorem readBursts_keeps (alloc : Bool) (x1 : State) (x2 : List Nat) : Keeps x1 ((readBursts alloc x1 x2).1) := by
  induction x2 generalizing x1 with
  | nil => exact Keeps.refl _
  | cons b t ih =>
    unfold readBursts
    dsimp only
    split
    · exact (readBurst_keeps ..).trans (ih _)
    · exact readBurst_keeps ..
theorem devRead_keeps (s : State) (ca : Nat) (len : Nat) (alloc : Bool) : Keeps s ((devRead s ca len alloc).1) := by
  unfold devRead
  repeat' first | with_reducible apply Keeps.refl | with_reducible apply Keeps.after (readBursts_keeps ..)
theorem putBurst_keeps (b : Nat) (lo : Nat) (part : List Byte) (whole : Bool) (s : State) : Keeps s (putBurst b lo part whole s) := by
  have h : Keeps s { s with mem := { s.mem with dev := SMap.setMany 0 s.mem.dev lo part } } :=
    ⟨rfl, id, fun h => ⟨wf_setMany _ _ _ _ h.1, h.2, h.3, h.4, h.5, h.6, h.7, h.8⟩, id⟩
  unfold putBurst
  dsimp only
  split
  · exact h.trans (memWrite_keeps ..)
  · exact h.trans (State_setLine_keeps ..)
theorem writeBurst_keeps (ca : Nat) (bs : List Byte) (s : State) (b : Nat) : Keeps s (writeBurst ca bs s b) := by
  unfold writeBurst
  repeat' first
  | with_reducible first
    | apply Keeps.refl | apply Keeps.ite | apply Keeps.after (putBurst_keeps ..) | apply Keeps.after (makeRoom_keeps ..)
    | apply Keeps.after (readBurst_keeps ..) | apply Keeps.after (memPoison_keeps ..)
theorem devWrite_keeps (s : State) (ca : Nat) (bs : List Byte) : Keeps s (devWrite s ca bs) := by
  unfold devWrite
  repeat' first
  | with_reducible first
    | apply Keeps.refl | apply Keeps.after (writeBurst_keeps ..) | apply Keeps.after (foldl_keeps _ (fun _ _ => ?_) _ _)
theorem streamWrite_keeps (s : State) (ca : Nat) (bs : List Byte) : Keeps s (streamWrite s ca bs) := by
  have h : Keeps s { s with mem := { s.mem with dev := SMap.setMany 0 s.mem.dev ca bs } } :=
    ⟨rfl, id, fun h => ⟨wf_setMany _ _ _ _ h.1, h.2, h.3, h.4, h.5, h.6, h.7, h.8⟩, id⟩
  unfold streamWrite
  split
  · exact foldK (h.trans (State_setLine_keeps ..)) (fun _ _ => memWrite_keeps ..)
  · exact devWrite_keeps ..
theorem hostWrite_keeps (s : State) (a : Nat) (bs : List Byte) : Keeps s (hostWrite s a bs) := by
  exact ⟨rfl, id, fun h => ⟨h.1, wf_setMany _ _ _ _ h.2, h.3, h.4, h.5, h.6, h.7, h.8⟩, id⟩
theorem walk_keeps (obj : Option (BitVec 512)) (va : Nat) (x2 : Nat) (x3 : Nat) (x4 : State) : Keeps x4 ((walk obj va x2 x3 x4).2) := by
  induction x2 generalizing x3 x4 with
  | zero =>
    unfold walk
    repeat' first | with_reducible apply Keeps.refl
  | succ n ih =>
    unfold walk
    repeat' first
    | with_reducible first
      | apply Keeps.refl | apply Keeps.after (ih ..) | apply Keeps.after (devRead_keeps ..) | apply Keeps.iteSnd
    | dsimp only
    | split
theorem State_setClient_keeps (s : State) (c : Nat) (f : XlatClient → XlatClient) : Keeps s (State.setClient s c f) := by
  unfold State.setClient
  repeat' first | with_reducible apply Keeps.refl | (simp only [mk_anew]; with_reducible apply Keeps.after (anew_keeps ..))
theorem fillTlb_keeps (ag : Agent) (e : TlbEntry) (s : State) : Keeps s (fillTlb ag e s) := by
  unfold fillTlb
  repeat' first | with_reducible apply Keeps.refl | (simp only [mk_anew]; with_reducible apply Keeps.after (anew_keeps ..))
theorem fillL2_keeps (ag : Agent) (e : TlbEntry) (s : State) : Keeps s (fillL2 ag e s) := by
  unfold fillL2
  repeat' first | with_reducible apply Keeps.refl | (simp only [mk_anew]; with_reducible apply Keeps.after (anew_keeps ..))
theorem missXl_keeps (ag : Agent) (obj : Option (BitVec 512)) (kind : AccKind) (va : Nat) (s : State) : Keeps s ((missXl ag obj kind va s).2) := by
  unfold missXl
  repeat' first
  | with_reducible first
    | apply Keeps.refl | apply Keeps.after (fillTlb_keeps ..) | apply Keeps.after (walk_keeps ..)
    | apply Keeps.after (fillL2_keeps ..)
  | (simp only [mk_anew]; with_reducible apply Keeps.after (anew_keeps ..))
  | dsimp only
  | with_reducible refine Keeps.ofSnd (by assumption) ?_
  | split
theorem xlate_keeps (ag : Agent) (kind : AccKind) (va : Nat) (s : State) : Keeps s ((xlate ag kind va s).2) := by
  unfold xlate
  repeat' first
  | with_reducible first
    | apply Keeps.refl | apply Keeps.after (missXl_keeps ..)
  | (simp only [mk_anew]; with_reducible apply Keeps.after (anew_keeps ..))
  | with_reducible apply Keeps.iteSnd
  | dsimp only
  | split
theorem flushTlbs_keeps (client : Nat) (va : Nat) (log2 : Nat) (s : State) : Keeps s (flushTlbs client va log2 s) := by
  unfold flushTlbs
  repeat' first | with_reducible apply Keeps.refl | (simp only [mk_anew]; with_reducible apply Keeps.after (anew_keeps ..))
theorem hostRequest_keeps (fn : Nat) (addr : Nat) (len : Nat) (write : Bool) (s : State) : Keeps s ((hostRequest fn addr len write s).1) := by
  unfold hostRequest
  split
  · exact Keeps.refl _
  · exact ⟨rfl, id, fun h => ⟨h.1, h.2, h.3, h.4, h.5, h.6, h.7, h.8⟩, id⟩
theorem lockLine_keeps (ag : Agent) (va : Nat) (ca : Nat) (s : State) : Keeps s (lockLine ag va ca s) := by
  unfold lockLine
  repeat' first
  | with_reducible first
    | apply Keeps.refl | apply Keeps.ite | apply Keeps.after (State_setLine_keeps ..)
  | split
theorem peerRequest_keeps (ag : Agent) (va : Nat) (len : Nat) (bs : Option (List Byte)) (s : State) : Keeps s (peerRequest ag va len bs s) := by
  exact ⟨rfl, id, fun h => ⟨h.1, h.2, h.3, h.4, h.5, h.6, h.7, h.8⟩, id⟩
theorem readGranule_keeps (s : State) (ag : Agent) (kind : AccKind) (va : Nat) (len : Nat) : Keeps s (Acc.st (readGranule s ag kind va len)) := by
  unfold readGranule
  repeat' first
  | with_reducible first
    | apply Keeps.refl | apply Keeps.after (xlate_keeps ..) | apply Keeps.after (devRead_keeps ..)
    | apply Keeps.after (lockLine_keeps ..) | apply Keeps.after (hostRequest_keeps ..)
    | apply Keeps.after (peerRequest_keeps ..)
  | (simp only [mk_anew]; with_reducible apply Keeps.after (anew_keeps ..))
  | with_reducible first
    | apply Keeps.stAok | apply Keeps.stAfault | apply Keeps.stAbad | apply Keeps.iteAcc
  | dsimp only
  | with_reducible refine Keeps.ofSnd (by assumption) ?_
  | split
theorem writeGranule_keeps (s : State) (ag : Agent) (kind : AccKind) (va : Nat) (bs : List Byte) : Keeps s (Acc.st (writeGranule s ag kind va bs)) := by
  unfold writeGranule
  repeat' first
  | with_reducible first
    | apply Keeps.refl | apply Keeps.ite | apply Keeps.after (xlate_keeps ..) | apply Keeps.after (lockLine_keeps ..)
    | apply Keeps.after (streamWrite_keeps ..) | apply Keeps.after (devWrite_keeps ..)
    | apply Keeps.after (hostRequest_keeps ..) | apply Keeps.after (hostWrite_keeps ..)
    | apply Keeps.after (peerRequest_keeps ..) | apply Keeps.stAok | apply Keeps.stAfault | apply Keeps.stAbad
    | apply Keeps.iteAcc
  | dsimp only
  | with_reducible refine Keeps.ofSnd (by assumption) ?_
  | split
theorem readRangeGo_keeps (ag : Agent) (kind : AccKind) (x2 : List (Nat × Nat)) (x3 : List Byte) (x4 : State) : Keeps x4 (Acc.st (readRangeGo ag kind x2 x3 x4).2) := by
  induction x2 generalizing x3 x4 with
  | nil => exact Keeps.refl _
  | cons b t ih =>
    obtain ⟨b1, b2⟩ := b
    unfold readRangeGo
    split
    · exact (Keeps.ofAok (by assumption) (readGranule_keeps ..)).trans (ih ..)
    · exact readGranule_keeps ..
theorem readRange_keeps (s : State) (ag : Agent) (kind : AccKind) (va : Nat) (len : Nat) : Keeps s (Acc.st (readRange s ag kind va len).2) := by
  unfold readRange
  repeat' first | with_reducible apply Keeps.refl | with_reducible apply Keeps.after (readRangeGo_keeps ..)
theorem writeRangeGo_keeps (ag : Agent) (kind : AccKind) (x2 : List (Nat × Nat)) (x3 : List Byte) (x4 : State) : Keeps x4 (Acc.st (writeRangeGo ag kind x2 x3 x4).2) := by
  induction x2 generalizing x3 x4 with
  | nil => exact Keeps.refl _
  | cons b t ih =>
    obtain ⟨b1, b2⟩ := b
    unfold writeRangeGo
    split
    · exact (Keeps.ofAok (by assumption) (writeGranule_keeps ..)).trans (ih ..)
    · exact writeGranule_keeps ..
theorem writeRange_keeps (s : State) (ag : Agent) (kind : AccKind) (va : Nat) (bs : List Byte) : Keeps s (Acc.st (writeRange s ag kind va bs).2) := by
  unfold writeRange
  repeat' first | with_reducible apply Keeps.refl | with_reducible apply Keeps.after (writeRangeGo_keeps ..)
theorem physWrite_keeps (s : State) (fn : Nat) (host : Bool) (addr : Nat) (bs : List Byte) : Keeps s ((physWrite s fn host addr bs).getD s) := by
  unfold physWrite
  repeat' first
  | with_reducible first
    | apply Keeps.refl | apply Keeps.ite | apply Keeps.after (hostRequest_keeps ..) | apply Keeps.after (hostWrite_keeps ..)
    | apply Keeps.after (devWrite_keeps ..) | apply Keeps.stSome | apply Keeps.stNone | apply Keeps.iteGet
    | apply Keeps.after (foldl_keeps _ (fun _ _ => ?_) _ _)
  | split
theorem physWrite_keepsK {s : State} {fn : Nat} {host : Bool} {addr : Nat} {bs : List Byte} {z} (e : physWrite s fn host addr bs = some z) : Keeps s (z) := by
  have := physWrite_keeps s fn host addr bs; rw [e] at this; exact this
theorem ringWrite_keeps (s : State) (fn : Nat) (host : Bool) (addr : Nat) (bs : List Byte) : Keeps s ((ringWrite s fn host addr bs).getD s) := by
  unfold ringWrite
  repeat' first
  | with_reducible first
    | apply Keeps.refl | apply Keeps.after (physWrite_keeps ..) | apply Keeps.stNone | apply Keeps.iteGet
theorem ringWrite_keepsK {s : State} {fn : Nat} {host : Bool} {addr : Nat} {bs : List Byte} {z} (e : ringWrite s fn host addr bs = some z) : Keeps s (z) := by
  have := ringWrite_keeps s fn host addr bs; rw [e] at this; exact this
theorem physRead_keeps (s : State) (fn : Nat) (host : Bool) (addr : Nat) (len : Nat) : Keeps s (((physRead s fn host addr len).map fun z => (z).1).getD s) := by
  unfold physRead
  repeat' first
  | with_reducible first
    | apply Keeps.refl | apply Keeps.after (hostRequest_keeps ..) | apply Keeps.after (devRead_keeps ..)
  | dsimp only
  | dsimp only [Option.map_some, Option.map_none, Option.getD_some, Option.getD_none]
  | with_reducible apply Keeps.after (foldl_keeps1 _ (fun _ _ => ?_) _ _)
  | split
theorem physRead_keepsK {s : State} {fn : Nat} {host : Bool} {addr : Nat} {len : Nat} {z} (e : physRead s fn host addr len = some z) : Keeps s ((z).1) := by
  have := physRead_keeps s fn host addr len; rw [e] at this; exact this
theorem State_setSett_keeps (s : State) (i : Nat) (f : Sett → Sett) : Keeps s (State.setSett s i f) := by
  exact ⟨rfl, id, id, fun h => wf_modify _ _ _ _ h⟩
theorem State_setCl_keeps (s : State) (c : Nat) (f : Client → Client) : Keeps s (State.setCl s c f) := by
  unfold State.setCl
  repeat' first | with_reducible apply Keeps.refl | (simp only [mk_anew]; with_reducible apply Keeps.after (anew_keeps ..))
theorem State_setQ_keeps (s : State) (c : Nat) (n : Nat) (f : Queue → Queue) : Keeps s (State.setQ s c n f) := by
  unfold State.setQ
  repeat' first | with_reducible apply Keeps.refl | with_reducible apply Keeps.after (State_setCl_keeps ..)
theorem State_setCairn_keeps (s : State) (t : Nat) (f : Cairn → Cairn) : Keeps s (State.setCairn s t f) := by
  unfold State.setCairn
  repeat' first | with_reducible apply Keeps.refl | (simp only [mk_anew]; with_reducible apply Keeps.after (anew_keeps ..))
theorem signal_keeps (fn : Nat) (v : Nat) (s : State) : Keeps s (signal fn v s) := by
  unfold signal
  repeat' first
  | with_reducible first
    | apply Keeps.refl | apply Keeps.ite | apply Keeps.after (State_emit_keeps ..)
  | (simp only [mk_anew]; with_reducible apply Keeps.after (anew_keeps ..))
theorem raiseEvent_keeps (s : State) (code : Nat) (source : Nat) (kind : Nat) (data : List Byte) : Keeps s (raiseEvent s code source kind data) := by
  unfold raiseEvent
  repeat' first
  | with_reducible first
    | apply Keeps.refl | apply Keeps.ite | refine Keeps.trans ?_ (physWrite_keepsK (by assumption))
  | (simp only [mk_anew]; with_reducible apply Keeps.after (anew_keeps ..))
  | dsimp only
  | split
theorem raiseAlarm_keeps (s : State) (k : Nat) (code : Nat) (source : Nat) : Keeps s (raiseAlarm s k code source) := by
  unfold raiseAlarm
  repeat' first
  | with_reducible first
    | apply Keeps.refl | apply Keeps.ite | apply Keeps.after (signal_keeps ..) | apply Keeps.after (State_emit_keeps ..)
    | apply Keeps.after (raiseEvent_keeps ..)
  | (simp only [mk_anew]; with_reducible apply Keeps.after (anew_keeps ..))
theorem drainFault_keeps (s : State) (c : Nat) : Keeps s (drainFault s c) := by
  unfold drainFault
  repeat' first
  | with_reducible first
    | apply Keeps.refl | apply Keeps.ite | refine Keeps.trans ?_ (ringWrite_keepsK (by assumption))
    | apply Keeps.after (State_setClient_keeps ..) | apply Keeps.after (signal_keeps ..)
  | dsimp only
  | split
theorem drainFaultsGo_keeps (c : Nat) (x1 : Nat) (x2 : State) : Keeps x2 (drainFaultsGo c x1 x2) := by
  induction x1 generalizing x2 with
  | zero =>
    unfold drainFaultsGo
    repeat' first | with_reducible apply Keeps.refl
  | succ n ih =>
    unfold drainFaultsGo
    repeat' first
    | with_reducible first
      | apply Keeps.refl | apply Keeps.after (ih ..) | apply Keeps.after (drainFault_keeps ..)
theorem drainFaults_keeps (s : State) (c : Nat) : Keeps s (drainFaults s c) := by
  unfold drainFaults
  repeat' first | with_reducible apply Keeps.refl | with_reducible apply Keeps.after (drainFaultsGo_keeps ..)
theorem postFault_keeps (s : State) (c : Nat) (va : Nat) (cls : Nat) (kind : AccKind) (run : Nat) (agent : Nat) (owner : FaultOwner) (fatal : Bool) : Keeps s (postFault s c va cls kind run agent owner fatal) := by
  unfold postFault
  repeat' first
  | with_reducible first
    | apply Keeps.refl | apply Keeps.ite | apply Keeps.after (State_setClient_keeps ..)
    | apply Keeps.after (drainFaults_keeps ..)
theorem signalCq_keeps (s : State) (c : Nat) : Keeps s (signalCq s c) := by
  unfold signalCq
  repeat' first
  | with_reducible first
    | apply Keeps.refl | apply Keeps.ite | apply Keeps.after (State_setCl_keeps ..) | apply Keeps.after (signal_keeps ..)
theorem drainComp_keeps (s : State) (c : Nat) : Keeps s (drainComp s c) := by
  unfold drainComp
  repeat' first
  | with_reducible first
    | apply Keeps.refl | apply Keeps.ite | refine Keeps.trans ?_ (ringWrite_keepsK (by assumption))
    | apply Keeps.after (State_setCl_keeps ..) | apply Keeps.after (State_setQ_keeps ..)
    | apply Keeps.after (signalCq_keeps ..)
  | dsimp only
  | split
theorem drainCompsGo_keeps (c : Nat) (x1 : Nat) (x2 : State) : Keeps x2 (drainCompsGo c x1 x2) := by
  induction x1 generalizing x2 with
  | zero =>
    unfold drainCompsGo
    repeat' first | with_reducible apply Keeps.refl
  | succ n ih =>
    unfold drainCompsGo
    repeat' first
    | with_reducible first
      | apply Keeps.refl | apply Keeps.after (ih ..) | apply Keeps.after (drainComp_keeps ..)
theorem drainComps_keeps (s : State) (c : Nat) : Keeps s (drainComps s c) := by
  unfold drainComps
  repeat' first | with_reducible apply Keeps.refl | with_reducible apply Keeps.after (drainCompsGo_keeps ..)
theorem postComp_keeps (s : State) (c : Nat) (q : Nat) (d : Option Nat) (irq : Bool) (r : Comp) : Keeps s (postComp s c q d irq r) := by
  unfold postComp
  repeat' first
  | with_reducible first
    | apply Keeps.refl | apply Keeps.after (State_setCl_keeps ..) | apply Keeps.after (State_setQ_keeps ..)
    | apply Keeps.after (drainComps_keeps ..)
  | split
theorem countRunFault_keeps (s : State) : Keeps s (countRunFault s) := by
  unfold countRunFault
  repeat' first | with_reducible apply Keeps.refl | (simp only [mk_anew]; with_reducible apply Keeps.after (anew_keeps ..))
theorem fromHost_keeps (f : State → State) (h1 : ∀ y0, Keeps y0 (f y0)) (s : State) : Keeps s (fromHost f s) := by
  unfold fromHost
  repeat' first | with_reducible apply Keeps.refl | with_reducible apply Keeps.ite | with_reducible apply Keeps.after (h1 ..)
theorem freeStatus_keeps (block : Nat) (s : State) : Keeps s ((freeStatus block s).2) := by
  unfold freeStatus
  repeat' first | with_reducible apply Keeps.refl | (simp only [mk_anew]; with_reducible apply Keeps.after (anew_keeps ..))
theorem State_flag_keeps (s : State) (i : Nat) (f : Fl) : Keeps s (State.flag s i f) := by
  unfold State.flag
  repeat' first | with_reducible apply Keeps.refl | with_reducible apply Keeps.after (State_setSett_keeps ..)
theorem checkWords_keeps (i : Nat) (ws : List Nat) (s : State) : Keeps s (Res.st (checkWords i ws s)) := by
  unfold checkWords
  repeat' first
  | with_reducible first
    | apply Keeps.refl | apply Keeps.ite | apply Keeps.after (State_setSett_keeps ..) | apply Keeps.stOk | apply Keeps.stBad
    | apply Keeps.iteRes
theorem readScratch_keeps (i : Nat) (a : Nat) (len : Nat) (s : State) : Keeps s (Res.st (readScratch i a len s)) := by
  unfold readScratch
  repeat' first
  | with_reducible first
    | apply Keeps.refl | apply Keeps.after (checkWords_keeps ..) | apply Keeps.after (bind_keeps _ _ (fun _ _ => ?_))
    | apply Keeps.stOk
theorem writeScratch_keeps (i : Nat) (a : Nat) (bs : List Byte) (s : State) : Keeps s (Res.st (writeScratch i a bs s)) := by
  unfold writeScratch
  repeat' first
  | with_reducible first
    | apply Keeps.refl | apply Keeps.after (checkWords_keeps ..) | apply Keeps.after (State_setSett_keeps ..)
    | apply Keeps.after (bind_keeps _ _ (fun _ _ => ?_)) | apply Keeps.stOk
theorem onceMore_keeps (i : Nat) (f : State → Machine.Acc) (h1 : ∀ y0, Keeps y0 (Acc.st (f y0))) (s : State) : Keeps s (Acc.st (onceMore i f s)) := by
  unfold onceMore
  repeat' first
  | with_reducible first
    | apply Keeps.refl | apply Keeps.after (h1 ..) | apply Keeps.after (State_setSett_keeps ..) | apply Keeps.stAok
    | refine Keeps.ofAok (by assumption) ?_
  | split
theorem once_keeps (i : Nat) (f : State → State) (h1 : ∀ y0, Keeps y0 (f y0)) (s : State) : Keeps s (once i f s) := by
  unfold once
  repeat' first
  | with_reducible first
    | apply Keeps.refl | apply Keeps.after (h1 ..) | apply Keeps.after (onceMore_keeps _ _ (fun _ => ?_) _) | apply Keeps.stAok
    | refine Keeps.ofAok (by assumption) ?_
  | split
theorem readMem_keeps (i : Nat) (va : Nat) (len : Nat) (kind : AccKind) (s : State) : Keeps s (Res.st (readMem i va len kind s)) := by
  unfold readMem
  repeat' first
  | with_reducible first
    | apply Keeps.refl | apply Keeps.after (onceMore_keeps _ _ (fun _ => ?_) _) | apply Keeps.after (readGranule_keeps ..)
    | apply Keeps.after (bind_keeps _ _ (fun _ _ => ?_)) | apply Keeps.after (mapM_keeps _ (fun _ _ => ?_) _ _)
    | apply Keeps.stOk | apply Keeps.toRes
theorem writeMem_keeps (i : Nat) (va : Nat) (bs : List Byte) (s : State) : Keeps s (Res.st (writeMem i va bs s)) := by
  unfold writeMem
  repeat' first
  | with_reducible first
    | apply Keeps.refl | apply Keeps.after (onceMore_keeps _ _ (fun _ => ?_) _) | apply Keeps.after (writeGranule_keeps ..)
    | apply Keeps.after (bind_keeps _ _ (fun _ _ => ?_)) | apply Keeps.after (mapM_keeps _ (fun _ _ => ?_) _ _)
    | apply Keeps.stOk | apply Keeps.toRes
theorem Tens_readBytes_keeps (i : Nat) (t : Tens) (a : Nat) (len : Nat) (s : State) : Keeps s (Res.st (Tens.readBytes i t a len s)) := by
  unfold Tens.readBytes
  repeat' first
  | with_reducible first
    | apply Keeps.refl | apply Keeps.after (readMem_keeps ..) | apply Keeps.after (readScratch_keeps ..)
    | apply Keeps.after (bind_keeps _ _ (fun _ _ => ?_)) | apply Keeps.stOk | apply Keeps.iteRes
theorem Tens_writeBytes_keeps (i : Nat) (t : Tens) (a : Nat) (bs : List Byte) (s : State) : Keeps s (Res.st (Tens.writeBytes i t a bs s)) := by
  unfold Tens.writeBytes
  repeat' first
  | with_reducible first
    | apply Keeps.refl | apply Keeps.after (writeMem_keeps ..) | apply Keeps.after (writeScratch_keeps ..) | apply Keeps.stOk
    | apply Keeps.iteRes
theorem Tens_readScale_keeps (i : Nat) (t : Tens) (p : BlockAt) (s : State) : Keeps s (Res.st (Tens.readScale i t p s)) := by
  unfold Tens.readScale
  repeat' first
  | with_reducible first
    | apply Keeps.refl | apply Keeps.after (Tens_readBytes_keeps ..) | apply Keeps.after (bind_keeps _ _ (fun _ _ => ?_))
    | apply Keeps.stOk | apply Keeps.iteRes
theorem Tens_readBlock_keeps (i : Nat) (t : Tens) (p : BlockAt) (s : State) : Keeps s (Res.st (Tens.readBlock i t p s)) := by
  unfold Tens.readBlock
  repeat' first
  | with_reducible first
    | apply Keeps.refl | apply Keeps.after (Tens_readBytes_keeps ..) | apply Keeps.after (Tens_readScale_keeps ..)
    | apply Keeps.after (bind_keeps _ _ (fun _ _ => ?_)) | apply Keeps.stOk | apply Keeps.iteRes
theorem Tens_writeBlock_keeps (i : Nat) (t : Tens) (p : BlockAt) (codes : List Nat) (scale : Nat) (s : State) : Keeps s (Res.st (Tens.writeBlock i t p codes scale s)) := by
  unfold Tens.writeBlock
  repeat' first
  | with_reducible first
    | apply Keeps.refl | apply Keeps.after (Tens_writeBytes_keeps ..) | apply Keeps.after (bind_keeps _ _ (fun _ _ => ?_))
    | apply Keeps.stOk | apply Keeps.iteRes
theorem moveBlock_keeps (i : Nat) (src : Tens) (sp : BlockAt) (dst : Tens) (dp : BlockAt) (s : State) : Keeps s (Res.st (moveBlock i src sp dst dp s)) := by
  unfold moveBlock
  repeat' first
  | with_reducible first
    | apply Keeps.refl | apply Keeps.ite | apply Keeps.after (Tens_readBlock_keeps ..)
    | apply Keeps.after (Tens_writeBlock_keeps ..) | apply Keeps.after (State_flag_keeps ..)
    | apply Keeps.after (bind_keeps _ _ (fun _ _ => ?_)) | apply Keeps.stOk | apply Keeps.iteRes
theorem writeSteps_keeps (i : Nat) (va : Nat) (bs : List Byte) (g : Nat) (s : State) : Keeps s (Eff.st (writeSteps i va bs g s)) := by
  unfold writeSteps
  repeat' first
  | with_reducible first
    | apply Keeps.refl | apply Keeps.after (writeMem_keeps ..) | apply Keeps.after (stepsFrom_keeps _ _ (fun _ _ => ?_) _ _ _)
    | apply Keeps.stOk
  | split
theorem readRest_keeps (i : Nat) (va : Nat) (len : Nat) (got : List Byte) (s : State) : Keeps s (Res.st ((readRest i va len got s).2)) := by
  unfold readRest
  suffices h : ∀ (l : List (Nat × Nat)) (r : List Byte × Res Unit), Keeps s (Res.st r.2) → Keeps s (Res.st (l.foldl
      (fun (r : List Byte × Res Unit) g => match r.2 with
        | .ok _ s => match readMem i g.1 g.2 .read s with
          | .ok bs s' => (r.1 ++ bs, .ok () s')
          | .fault c v k s' => (r.1, .fault c v k s')
          | .bad x s' => (r.1, .bad x s')
        | _ => r) r).2) from h _ _ (Keeps.refl _)
  intro l
  induction l with
  | nil => exact fun _ h => h
  | cons g t ih =>
    intro r h
    rw [List.foldl_cons]
    refine ih _ ?_
    obtain ⟨x, r⟩ := r
    cases r with
    | fault => exact h
    | bad => exact h
    | ok a s1 =>
      have hr := readMem_keeps i g.1 g.2 .read s1
      dsimp only
      split
      · next e => rw [e] at hr; exact Keeps.trans h hr
      · next e => rw [e] at hr; exact Keeps.trans h hr
      · next e => rw [e] at hr; exact Keeps.trans h hr
theorem Tens_readElem_keeps (i : Nat) (t : Tens) (c : Nat × Nat × Nat × Nat) (s : State) : Keeps s (Res.st (Tens.readElem i t c s)) := by
  unfold Tens.readElem
  repeat' first
  | with_reducible first
    | apply Keeps.refl | apply Keeps.after (Tens_readBytes_keeps ..) | apply Keeps.after (Tens_readScale_keeps ..)
    | apply Keeps.after (bind_keeps _ _ (fun _ _ => ?_)) | apply Keeps.stOk | apply Keeps.iteRes
theorem Tens_readOpt_keeps (i : Nat) (t : Tens) (c : Nat × Nat × Nat × Nat) (s : State) : Keeps s (Res.st (Tens.readOpt i t c s)) := by
  unfold Tens.readOpt
  repeat' first
  | with_reducible first
    | apply Keeps.refl | apply Keeps.after (Tens_readElem_keeps ..) | apply Keeps.after (bind_keeps _ _ (fun _ _ => ?_))
    | apply Keeps.stOk
theorem Tens_readVal_keeps (i : Nat) (t : Tens) (c : Nat × Nat × Nat × Nat) (s : State) : Keeps s (Res.st (Tens.readVal i t c s)) := by
  unfold Tens.readVal
  repeat' first
  | with_reducible first
    | apply Keeps.refl | apply Keeps.after (Tens_readOpt_keeps ..) | apply Keeps.after (bind_keeps _ _ (fun _ _ => ?_))
    | apply Keeps.stOk
theorem Tens_writeWide_keeps (i : Nat) (t : Tens) (c : Nat × Nat × Nat × Nat) (code : Nat) (s : State) : Keeps s (Res.st (Tens.writeWide i t c code s)) := by
  unfold Tens.writeWide
  repeat' first
  | with_reducible first
    | apply Keeps.refl | apply Keeps.after (Tens_writeBytes_keeps ..) | apply Keeps.stOk | apply Keeps.iteRes
theorem Tens_readRowOpt_keeps (i : Nat) (t : Tens) (c : Nat × Nat × Nat) (s : State) : Keeps s (Res.st (Tens.readRowOpt i t c s)) := by
  unfold Tens.readRowOpt
  repeat' first
  | with_reducible first
    | apply Keeps.refl | apply Keeps.after (Tens_readBlock_keeps ..) | apply Keeps.after (bind_keeps _ _ (fun _ _ => ?_))
    | apply Keeps.after (mapM_keeps _ (fun _ _ => ?_) _ _) | apply Keeps.stOk
theorem Tens_readRow_keeps (i : Nat) (t : Tens) (c : Nat × Nat × Nat) (s : State) : Keeps s (Res.st (Tens.readRow i t c s)) := by
  unfold Tens.readRow
  repeat' first
  | with_reducible first
    | apply Keeps.refl | apply Keeps.after (Tens_readRowOpt_keeps ..) | apply Keeps.after (bind_keeps _ _ (fun _ _ => ?_))
    | apply Keeps.stOk
theorem Tens_writeRow_keeps (i : Nat) (t : Tens) (src : Fmt) (c : Nat × Nat × Nat) (vs : List Val) (s : State) : Keeps s (Res.st (Tens.writeRow i t src c vs s)) := by
  unfold Tens.writeRow
  refine bindK (mapM_keeps _ (fun b s => ?_) _ _) (fun _ _ => Keeps.refl _)
  extract_lets p n mine
  split
  · exact Keeps.refl _
  · split
    · exact bindK (Tens_writeBlock_keeps ..) (fun _ _ => State_flag_keeps ..)
    · exact bindK (Tens_readBlock_keeps ..) (fun _ _ => bindK (Tens_writeBlock_keeps ..) (fun _ _ => State_flag_keeps ..))
theorem recordBlock_keeps (i : Nat) (slot : Option Nat) (narrow : Bool) (w : Option Narrowed) (s : State) : Keeps s (recordBlock i slot narrow w s) := by
  unfold recordBlock
  repeat' first
  | with_reducible first
    | apply Keeps.refl | apply Keeps.ite | apply Keeps.after (State_setSett_keeps ..)
  | split
theorem tileRows_keeps (i : Nat) (t : Tens) (row : Nat → Nat → Nat → Nat) (v : Nat → Nat) (s : State) : Keeps s (Res.st (tileRows i t row v s)) := by
  unfold tileRows
  repeat' first
  | with_reducible first
    | apply Keeps.refl | apply Keeps.after (Tens_readBytes_keeps ..) | apply Keeps.after (bind_keeps _ _ (fun _ _ => ?_))
    | apply Keeps.after (mapM_keeps _ (fun _ _ => ?_) _ _) | apply Keeps.stOk
theorem tileScales_keeps (i : Nat) (t : Tens) (sc : Nat → Nat → Nat → Nat) (v : Nat → Nat) (s : State) : Keeps s (Res.st (tileScales i t sc v s)) := by
  unfold tileScales
  repeat' first
  | with_reducible first
    | apply Keeps.refl | apply Keeps.after (Tens_readBytes_keeps ..) | apply Keeps.after (bind_keeps _ _ (fun _ _ => ?_))
    | apply Keeps.after (mapM_keeps _ (fun _ _ => ?_) _ _) | apply Keeps.stOk
theorem tileBytes_keeps (i : Nat) (t : Tens) (v : Nat → Nat) (s : State) : Keeps s (Res.st (tileBytes i t v s)) := by
  unfold tileBytes
  repeat' first
  | with_reducible first
    | apply Keeps.refl | apply Keeps.after (tileRows_keeps ..) | apply Keeps.after (tileScales_keeps ..)
    | apply Keeps.after (bind_keeps _ _ (fun _ _ => ?_)) | apply Keeps.stOk
theorem markMixed_keeps (i : Nat) (tiles : List (BitVec 512 × Nat)) (s : State) : Keeps s (Res.st (markMixed i tiles s)) := by
  unfold markMixed
  repeat' first
  | with_reducible first
    | apply Keeps.refl | apply Keeps.after (readMem_keeps ..) | apply Keeps.after (writeMem_keeps ..)
    | apply Keeps.after (bind_keeps _ _ (fun _ _ => ?_)) | apply Keeps.after (mapM_keeps _ (fun _ _ => ?_) _ _)
    | apply Keeps.stOk
theorem markStores_keeps (i : Nat) (rs : List (Nat × Nat)) (s : State) : Keeps s (Res.st (markStores i rs s)) := by
  unfold markStores
  repeat' first
  | with_reducible first
    | apply Keeps.refl | apply Keeps.after (markMixed_keeps ..) | apply Keeps.stOk | apply Keeps.iteRes
theorem storeHeaders_keeps (i : Nat) (exact : Bool) (dst : Tens) (rs : List (Nat × Nat)) (v : Nat → Nat) (s : State) : Keeps s (Res.st (storeHeaders i exact dst rs v s)) := by
  unfold storeHeaders
  repeat' first
  | with_reducible first
    | apply Keeps.refl | apply Keeps.after (tileBytes_keeps ..) | apply Keeps.after (writeMem_keeps ..)
    | apply Keeps.after (markMixed_keeps ..) | apply Keeps.after (bind_keeps _ _ (fun _ _ => ?_)) | apply Keeps.stOk
    | apply Keeps.iteRes
  | dsimp only
  | split
theorem tileAgrees_keeps (i : Nat) (src : Tens) (o : BitVec 512) (k : Nat) (s : State) : Keeps s (Res.st (tileAgrees i src o k s)) := by
  unfold tileAgrees
  repeat' first
  | with_reducible first
    | apply Keeps.refl | apply Keeps.after (readMem_keeps ..) | apply Keeps.after (tileRows_keeps ..)
    | apply Keeps.after (tileScales_keeps ..) | apply Keeps.after (bind_keeps _ _ (fun _ _ => ?_)) | apply Keeps.stOk
    | apply Keeps.iteRes
theorem bypassLintel_keeps (ag : Agent) (va : Nat) (len : Nat) (s : State) : Keeps s (bypassLintel ag va len s) := by
  unfold bypassLintel
  repeat' first
  | with_reducible first
    | apply Keeps.refl | apply Keeps.after (xlate_keeps ..) | apply Keeps.after (State_setLine_keeps ..)
    | refine Keeps.ofSnd (by assumption) ?_ | apply Keeps.after (foldl_keeps _ (fun _ _ => ?_) _ _)
  | split
theorem countTileCrc_keeps (va : Nat) (s : State) : Keeps s (countTileCrc va s) := by
  unfold countTileCrc
  repeat' first | with_reducible apply Keeps.refl | with_reducible apply Keeps.after (State_setDie_keeps ..)
theorem checkTile_keeps (i : Nat) (src : Tens) (again : State → Res Unit) (h1 : ∀ y0, Keeps y0 (Res.st (again y0))) (s : State) : Keeps s (Res.st (checkTile i src again s)) := by
  unfold checkTile
  repeat' first
  | with_reducible first
    | apply Keeps.refl | apply Keeps.after (h1 ..) | apply Keeps.after (tileAgrees_keeps ..)
    | apply Keeps.after (once_keeps _ _ (fun _ => ?_) _) | apply Keeps.after (bypassLintel_keeps ..)
    | apply Keeps.after (countTileCrc_keeps ..) | apply Keeps.after (bind_keeps _ _ (fun _ _ => ?_)) | apply Keeps.stOk
    | apply Keeps.stBad | apply Keeps.iteRes
  | dsimp only
  | split
theorem moveAll_keeps (i : Nat) (src : Tens) (dst : Tens) (s : State) : Keeps s (Res.st (moveAll i src dst s)) := by
  unfold moveAll
  repeat' first
  | with_reducible first
    | apply Keeps.refl | apply Keeps.after (moveBlock_keeps ..) | apply Keeps.after (bind_keeps _ _ (fun _ _ => ?_))
    | apply Keeps.after (mapM_keeps _ (fun _ _ => ?_) _ _) | apply Keeps.stOk
theorem moveSteps_keeps (i : Nat) (src : Tens) (dst : Tens) (slot : Option Nat) (crc : Bool) (exact : Bool) (k : Nat) (s : State) : Keeps s (Res.st (moveSteps i src dst slot crc exact k s)) := by
  unfold moveSteps
  repeat' first
  | with_reducible first
    | apply Keeps.refl | apply Keeps.after (moveBlock_keeps ..) | apply Keeps.after (recordBlock_keeps ..)
    | apply Keeps.after (checkTile_keeps _ _ _ (fun _ => ?_) _) | apply Keeps.after (moveAll_keeps ..)
    | apply Keeps.after (storeHeaders_keeps ..) | apply Keeps.after (bind_keeps _ _ (fun _ _ => ?_)) | apply Keeps.stOk
    | apply Keeps.iteRes
theorem effStrLoad_keeps (i : Nat) (f : LayT) (prog : Nat) (s : State) : Keeps s (Eff.st (effStrLoad i f prog s)) := by
  unfold effStrLoad
  repeat' first
  | with_reducible first
    | apply Keeps.refl | apply Keeps.after (moveSteps_keeps ..) | apply Keeps.after (stepsFrom_keeps _ _ (fun _ _ => ?_) _ _ _)
theorem effStrStore_keeps (i : Nat) (f : LayT) (prog : Nat) (s : State) : Keeps s (Eff.st (effStrStore i f prog s)) := by
  unfold effStrStore
  repeat' first
  | with_reducible first
    | apply Keeps.refl | apply Keeps.after (moveSteps_keeps ..) | apply Keeps.after (stepsFrom_keeps _ _ (fun _ _ => ?_) _ _ _)
theorem copyBlock_keeps (i : Nat) (src : Tens) (dst : Tens) (p : BlockAt) (s : State) : Keeps s (Res.st (copyBlock i src dst p s)) := by
  unfold copyBlock
  repeat' first
  | with_reducible first
    | apply Keeps.refl | apply Keeps.after (Tens_readBlock_keeps ..) | apply Keeps.after (Tens_writeBlock_keeps ..)
    | apply Keeps.after (Tens_writeBytes_keeps ..)
    | apply Keeps.after (bind_keeps _ _ (fun _ _ => ?_)) | apply Keeps.stOk | apply Keeps.iteRes
  | dsimp only
theorem copySteps_keeps (i : Nat) (src : Tens) (dst : Tens) (k : Nat) (s : State) : Keeps s (Res.st (copySteps i src dst k s)) := by
  unfold copySteps
  repeat' first
  | with_reducible first
    | apply Keeps.refl | apply Keeps.after (copyBlock_keeps ..) | apply Keeps.after (checkTile_keeps _ _ _ (fun _ => ?_) _)
    | apply Keeps.after (storeHeaders_keeps ..) | apply Keeps.after (bind_keeps _ _ (fun _ _ => ?_))
    | apply Keeps.after (mapM_keeps _ (fun _ _ => ?_) _ _) | apply Keeps.stOk | apply Keeps.iteRes
theorem effStrCopy_keeps (i : Nat) (f : LayT) (prog : Nat) (s : State) : Keeps s (Eff.st (effStrCopy i f prog s)) := by
  unfold effStrCopy
  repeat' first
  | with_reducible first
    | apply Keeps.refl | apply Keeps.after (copySteps_keeps ..) | apply Keeps.after (stepsFrom_keeps _ _ (fun _ _ => ?_) _ _ _)
theorem indexAt_keeps (i : Nat) (t : Tens) (j : Nat) (s : State) : Keeps s (Res.st (indexAt i t j s)) := by
  unfold indexAt
  repeat' first
  | with_reducible first
    | apply Keeps.refl | apply Keeps.after (Tens_readElem_keeps ..) | apply Keeps.after (bind_keeps _ _ (fun _ _ => ?_))
    | apply Keeps.stOk | apply Keeps.iteRes
theorem gatherRead_keeps (i : Nat) (src : Tens) (idx : Tens) (dst : Tens) (k : Nat) (s : State) : Keeps s (Res.st (gatherRead i src idx dst k s)) := by
  unfold gatherRead
  repeat' first
  | with_reducible first
    | apply Keeps.refl | apply Keeps.after (indexAt_keeps ..) | apply Keeps.after (Tens_readBlock_keeps ..)
    | apply Keeps.after (bind_keeps _ _ (fun _ _ => ?_)) | apply Keeps.stOk | apply Keeps.iteRes
theorem gatherWrite_keeps (i : Nat) (dst : Tens) (k : Nat) (b : Nat × Fl × List Nat) (s : State) : Keeps s (Res.st (gatherWrite i dst k b s)) := by
  unfold gatherWrite
  repeat' first
  | with_reducible first
    | apply Keeps.refl | apply Keeps.ite | apply Keeps.after (Tens_writeBlock_keeps ..)
    | apply Keeps.after (State_flag_keeps ..) | apply Keeps.after (bind_keeps _ _ (fun _ _ => ?_)) | apply Keeps.stOk
theorem gatherStep_keeps (i : Nat) (src : Tens) (idx : Tens) (dst : Tens) (k : Nat) (s : State) : Keeps s (Res.st (gatherStep i src idx dst k s)) := by
  unfold gatherStep
  repeat' first
  | with_reducible first
    | apply Keeps.refl | apply Keeps.after (gatherRead_keeps ..) | apply Keeps.after (gatherWrite_keeps ..)
    | apply Keeps.after (storeHeaders_keeps ..) | apply Keeps.after (bind_keeps _ _ (fun _ _ => ?_)) | apply Keeps.iteRes
theorem gatherReads_keeps (i : Nat) (src : Tens) (idx : Tens) (dst : Tens) (x4 : Nat) (x5 : Nat) (x6 : List (Nat × Fl × List Nat)) (x7 : State) : Keeps x7 (Res.st ((gatherReads i src idx dst x4 x5 x6 x7).2)) := by
  induction x4 generalizing x5 x6 x7 with
  | zero =>
    unfold gatherReads
    repeat' first | with_reducible apply Keeps.refl | with_reducible apply Keeps.stOk
  | succ n ih =>
    unfold gatherReads
    repeat' first
    | with_reducible first
      | apply Keeps.refl | apply Keeps.after (clearTrace_keeps ..) | apply Keeps.after (ih ..)
      | apply Keeps.after (gatherRead_keeps ..) | apply Keeps.stFault | apply Keeps.stBad
      | refine Keeps.ofOk (by assumption) ?_ | refine Keeps.ofFault (by assumption) ?_ | refine Keeps.ofBad (by assumption) ?_
    | split
theorem gatherPlace_keeps (i : Nat) (dst : Tens) (bs : List (Nat × Fl × List Nat)) (prog : Nat) (s : State) : Keeps s (Eff.st (gatherPlace i dst bs prog s)) := by
  unfold gatherPlace
  repeat' first
  | with_reducible first
    | apply Keeps.refl | apply Keeps.after (gatherWrite_keeps ..) | apply Keeps.after (storeHeaders_keeps ..)
    | apply Keeps.after (stepsFrom_keeps _ _ (fun _ _ => ?_) _ _ _) | apply Keeps.stEfault | apply Keeps.iteRes
    | refine Keeps.ofEfault (by assumption) ?_
  | split
theorem effStrGather_keeps (i : Nat) (f : LayT) (prog : Nat) (aux : List Nat) (s : State) : Keeps s (Eff.st (effStrGather i f prog aux s)) := by
  unfold effStrGather
  repeat' first
  | with_reducible first
    | apply Keeps.refl | apply Keeps.after (gatherReads_keeps ..) | apply Keeps.after (gatherPlace_keeps ..)
    | apply Keeps.after (gatherStep_keeps ..) | apply Keeps.after (stepsFrom_keeps _ _ (fun _ _ => ?_) _ _ _)
    | apply Keeps.stEfault | apply Keeps.stEbad | apply Keeps.iteEff
  | dsimp only
  | with_reducible first
    | refine Keeps.ofPok (by assumption) ?_ | refine Keeps.ofPfault (by assumption) ?_ | refine Keeps.ofPbad (by assumption) ?_
  | split
theorem scanBlock_keeps (i : Nat) (t : Tens) (k : Nat) (s : State) : Keeps s (Res.st (scanBlock i t k s)) := by
  unfold scanBlock
  repeat' first
  | with_reducible first
    | apply Keeps.refl | apply Keeps.after (Tens_readScale_keeps ..) | apply Keeps.after (Tens_readBlock_keeps ..)
    | apply Keeps.after (bind_keeps _ _ (fun _ _ => ?_)) | apply Keeps.stOk | apply Keeps.iteRes
theorem scanFrom_keeps (i : Nat) (t : Tens) (x2 : Nat) (x3 : Nat) (x4 : Nat) (x5 : State) : Keeps x5 (Res.st ((scanFrom i t x2 x3 x4 x5).2.2)) := by
  induction x2 generalizing x3 x4 x5 with
  | zero =>
    unfold scanFrom
    repeat' first | with_reducible apply Keeps.refl | with_reducible apply Keeps.stOk
  | succ n ih =>
    unfold scanFrom
    repeat' first
    | with_reducible first
      | apply Keeps.refl | apply Keeps.after (clearTrace_keeps ..) | apply Keeps.after (ih ..)
      | apply Keeps.after (scanBlock_keeps ..) | apply Keeps.stFault | apply Keeps.stBad | refine Keeps.ofOk (by assumption) ?_
      | refine Keeps.ofFault (by assumption) ?_ | refine Keeps.ofBad (by assumption) ?_
    | split
theorem effStrScan_keeps (i : Nat) (f : LayT) (prog : Nat) (aux : List Nat) (s : State) : Keeps s (Eff.st (effStrScan i f prog aux s)) := by
  unfold effStrScan
  repeat' first
  | with_reducible first
    | apply Keeps.refl | apply Keeps.after (scanFrom_keeps ..) | apply Keeps.after (State_setSett_keeps ..)
    | apply Keeps.stDone | apply Keeps.stEfault | apply Keeps.stEbad
  | dsimp only
  | with_reducible first
    | refine Keeps.ofQok (by assumption) ?_ | refine Keeps.ofQfault (by assumption) ?_ | refine Keeps.ofQbad (by assumption) ?_
  | split
theorem prefetch_keeps (ag : Agent) (va : Nat) (len : Nat) (s : State) : Keeps s (prefetch ag va len s) := by
  unfold prefetch
  repeat' first
  | with_reducible first
    | apply Keeps.refl | apply Keeps.after (xlate_keeps ..) | apply Keeps.after (readBurst_keeps ..)
    | refine Keeps.ofSnd (by assumption) ?_ | apply Keeps.after (foldl_keeps _ (fun _ _ => ?_) _ _)
  | split
theorem effStrPref_keeps (i : Nat) (f : LayT) (s : State) : Keeps s (Eff.st (effStrPref i f s)) := by
  unfold effStrPref
  repeat' first
  | with_reducible first
    | apply Keeps.refl | apply Keeps.ite | apply Keeps.after (prefetch_keeps ..) | apply Keeps.stDone
    | apply Keeps.after (foldl_keeps _ (fun _ _ => ?_) _ _)
theorem actRow_keeps (i : Nat) (t : Tens) (c : Nat × Nat × Nat) (k : Nat) (s : State) : Keeps s (Res.st (actRow i t c k s)) := by
  unfold actRow
  repeat' first
  | with_reducible first
    | apply Keeps.refl | apply Keeps.after (Tens_readRowOpt_keeps ..) | apply Keeps.after (bind_keeps _ _ (fun _ _ => ?_))
    | apply Keeps.stOk
theorem mmaRow_keeps (i : Nat) (seq : Nat) (lb : Nat) (acc : Bool) (src : Tens) (depth : Nat) (m : Nat) (s : State) : Keeps s (Res.st (mmaRow i seq lb acc src depth m s)) := by
  unfold mmaRow
  repeat' first
  | with_reducible first
    | apply Keeps.refl | apply Keeps.after (actRow_keeps ..) | apply Keeps.after (State_setSett_keeps ..)
    | apply Keeps.after (bind_keeps _ _ (fun _ _ => ?_)) | apply Keeps.stOk | apply Keeps.stBad | apply Keeps.iteRes
theorem effMma_keeps (i : Nat) (seq : Nat) (f : LayT) (s : State) : Keeps s (Eff.st (effMma i seq f s)) := by
  unfold effMma
  repeat' first
  | with_reducible first
    | apply Keeps.refl | apply Keeps.ite | apply Keeps.after (State_setSett_keeps ..) | apply Keeps.after (State_flag_keeps ..)
    | apply Keeps.after (mmaRow_keeps ..) | apply Keeps.after (runSteps_keeps _ _ (fun _ _ => ?_) _ _ _) | apply Keeps.stDone
    | apply Keeps.iteEff
theorem effMmaWld_keeps (i : Nat) (f : LayT) (s : State) : Keeps s (Eff.st (effMmaWld i f s)) := by
  unfold effMmaWld
  repeat' first
  | with_reducible first
    | apply Keeps.refl | apply Keeps.after (State_flag_keeps ..) | apply Keeps.after (State_setSett_keeps ..)
    | apply Keeps.after (Tens_readVal_keeps ..) | apply Keeps.after (bind_keeps _ _ (fun _ _ => ?_))
    | apply Keeps.after (mapM_keeps _ (fun _ _ => ?_) _ _) | apply Keeps.stOk | apply Keeps.stDone | apply Keeps.toEff
    | apply Keeps.iteEff
theorem effLdgAnchor_keeps (i : Nat) (f : LayT) (s : State) : Keeps s (Eff.st (effLdgAnchor i f s)) := by
  unfold effLdgAnchor
  repeat' first
  | with_reducible first
    | apply Keeps.refl | apply Keeps.after (State_setSett_keeps ..) | apply Keeps.stDone
theorem cvtBlock_keeps (i : Nat) (lb : Nat) (keep : Bool) (dst : Tens) (p : BlockAt) (s : State) : Keeps s (Res.st (cvtBlock i lb keep dst p s)) := by
  unfold cvtBlock
  extract_lets m b n base ls vs w
  split
  · exact Keeps.refl _
  · split
    · exact Keeps.refl _
    · refine Keeps.trans ?_ (bind_keeps _ _ (fun _ _ => ?_))
      · exact Tens_writeBlock_keeps ..
      · extract_lets
        exact State_setSett_keeps ..
theorem effLdgCvt_keeps (i : Nat) (f : LayT) (s : State) : Keeps s (Eff.st (effLdgCvt i f s)) := by
  unfold effLdgCvt
  repeat' first
  | with_reducible first
    | apply Keeps.refl | apply Keeps.after (State_flag_keeps ..) | apply Keeps.after (cvtBlock_keeps ..)
    | apply Keeps.after (runSteps_keeps _ _ (fun _ _ => ?_) _ _ _) | apply Keeps.stDone | apply Keeps.iteEff
theorem effVecLd_keeps (i : Nat) (h : Hdr) (f : LayV) (s : State) : Keeps s (Eff.st (effVecLd i h f s)) := by
  unfold effVecLd
  repeat' first
  | with_reducible first
    | apply Keeps.refl | apply Keeps.after (State_setSett_keeps ..) | apply Keeps.after (Tens_readElem_keeps ..)
    | apply Keeps.after (bind_keeps _ _ (fun _ _ => ?_)) | apply Keeps.after (mapM_keeps _ (fun _ _ => ?_) _ _)
    | apply Keeps.stOk | apply Keeps.stDone | apply Keeps.toEff | apply Keeps.iteRes | apply Keeps.iteEff
theorem stWide_keeps (i : Nat) (dst : Tens) (b : Nat) (p : Nat) (v : BitVec 4096) (s : State) : Keeps s (Res.st (stWide i dst b p v s)) := by
  unfold stWide
  repeat' first
  | with_reducible first
    | apply Keeps.refl | apply Keeps.after (Tens_writeWide_keeps ..) | apply Keeps.after (State_flag_keeps ..)
    | apply Keeps.after (bind_keeps _ _ (fun _ _ => ?_)) | apply Keeps.after (mapM_keeps _ (fun _ _ => ?_) _ _)
    | apply Keeps.stOk | apply Keeps.iteRes
theorem stNarrowBlock_keeps (i : Nat) (dst : Tens) (e : Nat) (k0 : Nat) (p : Nat) (v : BitVec 4096) (s : State) : Keeps s (Res.st (stNarrowBlock i dst e k0 p v s)) := by
  unfold stNarrowBlock
  repeat' first
  | with_reducible first
    | apply Keeps.refl | apply Keeps.after (Tens_readBlock_keeps ..) | apply Keeps.after (Tens_writeBlock_keeps ..)
    | apply Keeps.after (State_flag_keeps ..) | apply Keeps.after (bind_keeps _ _ (fun _ _ => ?_)) | apply Keeps.stOk
    | apply Keeps.iteRes
theorem effVecSt_keeps (i : Nat) (h : Hdr) (f : LayV) (s : State) : Keeps s (Eff.st (effVecSt i h f s)) := by
  unfold effVecSt
  repeat' first
  | with_reducible first
    | apply Keeps.refl | apply Keeps.after (State_flag_keeps ..) | apply Keeps.after (stNarrowBlock_keeps ..)
    | apply Keeps.after (stWide_keeps ..) | apply Keeps.after (bind_keeps _ _ (fun _ _ => ?_))
    | apply Keeps.after (mapM_keeps _ (fun _ _ => ?_) _ _) | apply Keeps.stOk | apply Keeps.stDone | apply Keeps.toEff
    | apply Keeps.iteRes | apply Keeps.iteEff
theorem storePrefix_keeps (i : Nat) (src : Fmt) (dst : Tens) (p : BlockAt) (vs : List Val) (s : State) : Keeps s (Res.st (storePrefix i src dst p vs s)) := by
  unfold storePrefix
  repeat' first
  | with_reducible first
    | apply Keeps.refl | apply Keeps.after (Tens_writeBlock_keeps ..) | apply Keeps.after (State_flag_keeps ..)
    | apply Keeps.after (Tens_readBlock_keeps ..) | apply Keeps.after (bind_keeps _ _ (fun _ _ => ?_)) | apply Keeps.stOk
    | apply Keeps.iteRes
theorem fnBlock_keeps (i : Nat) (op : FnOp) (a : Tens) (b : Tens) (dst : Tens) (hasB : Bool) (k : Nat) (s : State) : Keeps s (Res.st (fnBlock i op a b dst hasB k s)) := by
  unfold fnBlock
  repeat' first
  | with_reducible first
    | apply Keeps.refl | apply Keeps.ite | apply Keeps.after (Tens_readBlock_keeps ..)
    | apply Keeps.after (State_flag_keeps ..) | apply Keeps.after (storePrefix_keeps ..)
    | apply Keeps.after (bind_keeps _ _ (fun _ _ => ?_)) | apply Keeps.stOk | apply Keeps.iteRes
theorem flagEmptyOps_keeps (i : Nat) (rs : List (BitVec 4)) (s : State) : Keeps s (flagEmptyOps i rs s) := by
  unfold flagEmptyOps
  repeat' first
  | with_reducible first
    | apply Keeps.refl | apply Keeps.ite | apply Keeps.after (State_flag_keeps ..)
theorem effFn_keeps (op : FnOp) (i : Nat) (h : Hdr) (f : LayF) (prog : Nat) (s : State) : Keeps s (Eff.st (effFn op i h f prog s)) := by
  unfold effFn
  repeat' first
  | with_reducible first
    | apply Keeps.refl | apply Keeps.after (State_setSett_keeps ..) | apply Keeps.after (fnBlock_keeps ..)
    | apply Keeps.after (flagEmptyOps_keeps ..) | apply Keeps.after (stepsFrom_keeps _ _ (fun _ _ => ?_) _ _ _)
    | apply Keeps.stDone | apply Keeps.stEbad | apply Keeps.iteEff
theorem storeRow_keeps (i : Nat) (ofmt : Fmt) (dst : Tens) (c : Nat × Nat × Nat) (ys : List Val) (s : State) : Keeps s (Res.st (storeRow i ofmt dst c ys s)) := by
  unfold storeRow
  refine bindK (mapM_keeps _ (fun b s => ?_) _ _) (fun _ _ => Keeps.refl _)
  extract_lets p mine w s1
  split
  · exact Keeps.refl _
  · split
    · exact (State_flag_keeps ..).trans (Tens_writeBlock_keeps ..)
    · exact (State_flag_keeps ..).trans (storePrefix_keeps ..)
theorem rowStep_keeps (op : RowOp) (i : Nat) (f : LayT) (a : Tens) (dst : Tens) (g : List Val) (b : List Val) (k : Nat) (s : State) : Keeps s (Res.st (rowStep op i f a dst g b k s)) := by
  unfold rowStep
  repeat' first
  | with_reducible first
    | apply Keeps.refl | apply Keeps.after (Tens_readRow_keeps ..) | apply Keeps.after (State_setSett_keeps ..)
    | apply Keeps.after (storeRow_keeps ..) | apply Keeps.after (bind_keeps _ _ (fun _ _ => ?_))
theorem effRow_keeps (op : RowOp) (i : Nat) (f : LayT) (prog : Nat) (s : State) : Keeps s (Eff.st (effRow op i f prog s)) := by
  unfold effRow
  repeat' first
  | with_reducible first
    | apply Keeps.refl | apply Keeps.after (flagEmptyOps_keeps ..) | apply Keeps.after (Tens_readRow_keeps ..)
    | apply Keeps.after (rowStep_keeps ..) | apply Keeps.after (bind_keeps _ _ (fun _ _ => ?_))
    | apply Keeps.after (stepsFrom_keeps _ _ (fun _ _ => ?_) _ _ _) | apply Keeps.stOk | apply Keeps.stEfault
    | apply Keeps.stEbad | apply Keeps.iteRes
  | dsimp only
  | with_reducible first
    | refine Keeps.ofOk (by assumption) ?_ | refine Keeps.ofFault (by assumption) ?_ | refine Keeps.ofBad (by assumption) ?_
  | split
theorem qntStep_keeps (i : Nat) (src : Tens) (dst : Tens) (slot : Nat) (k : Nat) (s : State) : Keeps s (Res.st (qntStep i src dst slot k s)) := by
  unfold qntStep
  repeat' first
  | with_reducible first
    | apply Keeps.refl | apply Keeps.after (moveBlock_keeps ..) | apply Keeps.after (recordBlock_keeps ..)
    | apply Keeps.after (bind_keeps _ _ (fun _ _ => ?_)) | apply Keeps.stOk
theorem effQntCvt_keeps (i : Nat) (f : LayT) (prog : Nat) (s : State) : Keeps s (Eff.st (effQntCvt i f prog s)) := by
  unfold effQntCvt
  repeat' first
  | with_reducible first
    | apply Keeps.refl | apply Keeps.after (qntStep_keeps ..) | apply Keeps.after (flagEmptyOps_keeps ..)
    | apply Keeps.after (stepsFrom_keeps _ _ (fun _ _ => ?_) _ _ _)
theorem readRecord_keeps (i : Nat) (r : BitVec 4) (n : Nat) (s : State) : Keeps s (Res.st (readRecord i r n s)) := by
  unfold readRecord
  repeat' first
  | with_reducible first
    | apply Keeps.refl | apply Keeps.after (State_flag_keeps ..) | apply Keeps.after (Tens_readBytes_keeps ..)
    | apply Keeps.after (bind_keeps _ _ (fun _ _ => ?_)) | apply Keeps.stOk | apply Keeps.iteRes
theorem effEscCheck_keeps (i : Nat) (seq : Nat) (f : LayT) (s : State) : Keeps s (Eff.st (effEscCheck i seq f s)) := by
  unfold effEscCheck
  repeat' first
  | with_reducible first
    | apply Keeps.refl | apply Keeps.after (readRecord_keeps ..) | apply Keeps.after (State_setSett_keeps ..)
    | apply Keeps.after (bind_keeps _ _ (fun _ _ => ?_)) | apply Keeps.stOk | apply Keeps.toEff
theorem countEsc_keeps (s : State) (i : Nat) (slot : Nat) (step : Nat) (layer : Nat) : Keeps s (countEsc s i slot step layer) := by
  unfold countEsc
  repeat' first
  | with_reducible first
    | apply Keeps.refl | apply Keeps.ite | apply Keeps.after (raiseEvent_keeps ..) | apply Keeps.after (raiseAlarm_keeps ..)
  | (simp only [mk_anew]; with_reducible apply Keeps.after (anew_keeps ..))
theorem countExh_keeps (s : State) (i : Nat) (slot : Nat) (step : Nat) (worst : Nat) (layer : Nat) : Keeps s (countExh s i slot step worst layer) := by
  unfold countExh
  repeat' first
  | with_reducible first
    | apply Keeps.refl | apply Keeps.ite | apply Keeps.after (State_setSett_keeps ..) | apply Keeps.after (raiseEvent_keeps ..)
  | (simp only [mk_anew]; with_reducible apply Keeps.after (anew_keeps ..))
theorem effEscMark_keeps (i : Nat) (seq : Nat) (f : LayT) (s : State) : Keeps s (Eff.st (effEscMark i seq f s)) := by
  unfold effEscMark
  repeat' first
  | with_reducible first
    | apply Keeps.refl | apply Keeps.ite | apply Keeps.after (State_setSett_keeps ..) | apply Keeps.after (countEsc_keeps ..)
    | apply Keeps.after (countExh_keeps ..) | apply Keeps.stDone
  | dsimp only
  | split
theorem effEscPin_keeps (i : Nat) (f : LayT) (s : State) : Keeps s (Eff.st (effEscPin i f s)) := by
  unfold effEscPin
  repeat' first
  | with_reducible first
    | apply Keeps.refl | apply Keeps.after (State_setSett_keeps ..) | apply Keeps.stDone
theorem effEscClr_keeps (i : Nat) (seq : Nat) (f : LayT) (s : State) : Keeps s (Eff.st (effEscClr i seq f s)) := by
  unfold effEscClr
  repeat' first
  | with_reducible first
    | apply Keeps.refl | apply Keeps.after (State_setSett_keeps ..) | apply Keeps.stDone
theorem winRow_keeps (i : Nat) (f : LayW) (ext : W64) (g : WinGeo) (src : Tens) (depth : Nat) (m : Nat) (s : State) : Keeps s (Res.st (winRow i f ext g src depth m s)) := by
  unfold winRow
  repeat' first
  | with_reducible first
    | apply Keeps.refl | apply Keeps.after (Tens_readOpt_keeps ..) | apply Keeps.after (mapM_keeps _ (fun _ _ => ?_) _ _)
    | apply Keeps.stOk
  | split
theorem convRow_keeps (i : Nat) (seq : Nat) (f : LayW) (ext : W64) (g : WinGeo) (src : Tens) (depth : Nat) (m : Nat) (s : State) : Keeps s (Res.st (convRow i seq f ext g src depth m s)) := by
  unfold convRow
  repeat' first
  | with_reducible first
    | apply Keeps.refl | apply Keeps.after (winRow_keeps ..) | apply Keeps.after (State_setSett_keeps ..)
    | apply Keeps.after (bind_keeps _ _ (fun _ _ => ?_)) | apply Keeps.stOk | apply Keeps.stBad | apply Keeps.iteRes
theorem effWinConv_keeps (i : Nat) (seq : Nat) (f : LayW) (ext : W64) (prog : Nat) (s : State) : Keeps s (Eff.st (effWinConv i seq f ext prog s)) := by
  unfold effWinConv
  repeat' first
  | with_reducible first
    | apply Keeps.refl | apply Keeps.ite | apply Keeps.after (State_setSett_keeps ..)
    | apply Keeps.after (flagEmptyOps_keeps ..) | apply Keeps.after (State_flag_keeps ..)
    | apply Keeps.after (convRow_keeps ..) | apply Keeps.after (stepsFrom_keeps _ _ (fun _ _ => ?_) _ _ _) | apply Keeps.stDone
    | apply Keeps.iteEff
theorem poolRow_keeps (i : Nat) (f : LayW) (ext : W64) (g : WinGeo) (src : Tens) (m : Nat) (s : State) : Keeps s (Res.st (poolRow i f ext g src m s)) := by
  unfold poolRow
  repeat' first
  | with_reducible first
    | apply Keeps.refl | apply Keeps.after (Tens_readOpt_keeps ..) | apply Keeps.after (bind_keeps _ _ (fun _ _ => ?_))
    | apply Keeps.after (mapM_keeps _ (fun _ _ => ?_) _ _) | apply Keeps.stOk
theorem poolStore_keeps (i : Nat) (g : WinGeo) (dst : Tens) (m : Nat) (ys : List Val) (s : State) : Keeps s (Res.st (poolStore i g dst m ys s)) := by
  unfold poolStore
  repeat' first
  | with_reducible first
    | apply Keeps.refl | apply Keeps.ite | apply Keeps.after (State_flag_keeps ..) | apply Keeps.after (storePrefix_keeps ..)
    | apply Keeps.after (bind_keeps _ _ (fun _ _ => ?_)) | apply Keeps.after (mapM_keeps _ (fun _ _ => ?_) _ _)
    | apply Keeps.stOk
theorem effWinPool_keeps (i : Nat) (f : LayW) (ext : W64) (s : State) : Keeps s (Eff.st (effWinPool i f ext s)) := by
  unfold effWinPool
  repeat' first
  | with_reducible first
    | apply Keeps.refl | apply Keeps.after (flagEmptyOps_keeps ..) | apply Keeps.after (State_flag_keeps ..)
    | apply Keeps.after (poolRow_keeps ..) | apply Keeps.after (poolStore_keeps ..)
    | apply Keeps.after (bind_keeps _ _ (fun _ _ => ?_)) | apply Keeps.after (mapM_keeps _ (fun _ _ => ?_) _ _)
    | apply Keeps.stOk | apply Keeps.stDone | apply Keeps.toEff | apply Keeps.iteEff
theorem complexAt_keeps (i : Nat) (t : Tens) (m : Nat) (s : State) : Keeps s (Res.st (complexAt i t m s)) := by
  unfold complexAt
  repeat' first
  | with_reducible first
    | apply Keeps.refl | apply Keeps.after (Tens_readVal_keeps ..) | apply Keeps.after (bind_keeps _ _ (fun _ _ => ?_))
    | apply Keeps.stOk
theorem fftStep_keeps (q : Nat) (i : Nat) (f : LayT) (aa : Tens) (ad : Tens) (ws : List (Val × Val)) (logn : Nat) (first : Nat) (batch : Nat) (k : Nat) (s : State) : Keeps s (Res.st (fftStep q i f aa ad ws logn first batch k s)) := by
  unfold fftStep
  repeat' first
  | with_reducible first
    | apply Keeps.refl | apply Keeps.after (Tens_readRow_keeps ..) | apply Keeps.after (State_flag_keeps ..)
    | apply Keeps.after (storePrefix_keeps ..) | apply Keeps.after (bind_keeps _ _ (fun _ _ => ?_))
    | apply Keeps.after (mapM_keeps _ (fun _ _ => ?_) _ _) | apply Keeps.stOk
theorem effFft_keeps (q : Nat) (i : Nat) (f : LayT) (s : State) : Keeps s (Eff.st (effFft q i f s)) := by
  unfold effFft
  repeat' first
  | with_reducible first
    | apply Keeps.refl | apply Keeps.after (flagEmptyOps_keeps ..) | apply Keeps.after (State_flag_keeps ..)
    | apply Keeps.after (complexAt_keeps ..) | apply Keeps.after (fftStep_keeps ..)
    | apply Keeps.after (mapM_keeps _ (fun _ _ => ?_) _ _) | apply Keeps.after (runSteps_keeps _ _ (fun _ _ => ?_) _ _ _)
    | apply Keeps.stDone | apply Keeps.stEfault | apply Keeps.stEbad | apply Keeps.iteEff
  | dsimp only
  | with_reducible first
    | refine Keeps.ofOk (by assumption) ?_ | refine Keeps.ofFault (by assumption) ?_ | refine Keeps.ofBad (by assumption) ?_
  | split
theorem cmulStep_keeps (i : Nat) (f : LayT) (aa : Tens) (ab : Tens) (ad : Tens) (k : Nat) (s : State) : Keeps s (Res.st (cmulStep i f aa ab ad k s)) := by
  unfold cmulStep
  repeat' first
  | with_reducible first
    | apply Keeps.refl | apply Keeps.after (Tens_readRow_keeps ..) | apply Keeps.after (State_flag_keeps ..)
    | apply Keeps.after (storePrefix_keeps ..) | apply Keeps.after (bind_keeps _ _ (fun _ _ => ?_))
    | apply Keeps.after (mapM_keeps _ (fun _ _ => ?_) _ _) | apply Keeps.stOk | apply Keeps.iteRes
theorem effFftCmul_keeps (i : Nat) (f : LayT) (s : State) : Keeps s (Eff.st (effFftCmul i f s)) := by
  unfold effFftCmul
  repeat' first
  | with_reducible first
    | apply Keeps.refl | apply Keeps.after (cmulStep_keeps ..) | apply Keeps.after (flagEmptyOps_keeps ..)
    | apply Keeps.after (runSteps_keeps _ _ (fun _ _ => ?_) _ _ _)
theorem readPairs_keeps (i : Nat) (t : Tens) (s : State) : Keeps s (Res.st (readPairs i t s)) := by
  unfold readPairs
  repeat' first
  | with_reducible first
    | apply Keeps.refl | apply Keeps.after (Tens_readElem_keeps ..) | apply Keeps.after (bind_keeps _ _ (fun _ _ => ?_))
    | apply Keeps.after (mapM_keeps _ (fun _ _ => ?_) _ _) | apply Keeps.stOk
theorem writePairs_keeps (i : Nat) (t : Tens) (ps : List (Nat × Nat)) (s : State) : Keeps s (Res.st (writePairs i t ps s)) := by
  unfold writePairs
  repeat' first
  | with_reducible first
    | apply Keeps.refl | apply Keeps.after (Tens_writeWide_keeps ..) | apply Keeps.after (bind_keeps _ _ (fun _ _ => ?_))
    | apply Keeps.after (mapM_keeps _ (fun _ _ => ?_) _ _) | apply Keeps.stOk
theorem setSd_keeps (i : Nat) (sd : BitVec 5) (v : Nat) (s : State) : Keeps s (setSd i sd v s) := by
  unfold setSd
  repeat' first | with_reducible apply Keeps.refl | with_reducible apply Keeps.after (State_setSett_keeps ..)
theorem effSort_keeps (i : Nat) (f : LayT) (top : Option Nat) (s : State) : Keeps s (Eff.st (effSort i f top s)) := by
  unfold effSort
  repeat' first
  | with_reducible first
    | apply Keeps.refl | apply Keeps.ite | apply Keeps.after (flagEmptyOps_keeps ..) | apply Keeps.after (setSd_keeps ..)
    | apply Keeps.after (State_flag_keeps ..) | apply Keeps.after (readPairs_keeps ..)
    | apply Keeps.after (writePairs_keeps ..) | apply Keeps.after (bind_keeps _ _ (fun _ _ => ?_)) | apply Keeps.stOk
    | apply Keeps.stDone | apply Keeps.toEff | apply Keeps.iteEff
theorem effSortPairs_keeps (i : Nat) (f : LayT) (s : State) : Keeps s (Eff.st (effSortPairs i f s)) := by
  unfold effSortPairs
  repeat' first | with_reducible apply Keeps.refl | with_reducible apply Keeps.after (effSort_keeps ..)
theorem effSortTopk_keeps (i : Nat) (f : LayT) (s : State) : Keeps s (Eff.st (effSortTopk i f s)) := by
  unfold effSortTopk
  repeat' first | with_reducible apply Keeps.refl | with_reducible apply Keeps.after (effSort_keeps ..)
theorem mergeFinish_keeps (i : Nat) (self : Nat) (f : LayT) (runs : Option (List Nat)) (ps : List (Nat × Nat)) (s : State) : Keeps s (Res.st (mergeFinish i self f runs ps s)) := by
  unfold mergeFinish
  repeat' first
  | with_reducible first
    | apply Keeps.refl | apply Keeps.after (setSd_keeps ..) | apply Keeps.after (writePairs_keeps ..)
    | apply Keeps.after (bind_keeps _ _ (fun _ _ => ?_)) | apply Keeps.stOk | apply Keeps.iteRes
  | dsimp only
  | split
theorem sendBack_keeps (tree : Tree) (levels : Nat) (aux : List Nat) (s : State) : Keeps s (sendBack tree levels aux s) := by
  unfold sendBack
  repeat' first
  | with_reducible first
    | apply Keeps.refl | apply Keeps.after (State_setSett_keeps ..) | apply Keeps.after (foldl_keeps _ (fun _ _ => ?_) _ _)
  | split
theorem climb_keeps (i : Nat) (f : LayT) (r : MergeReq) (tree : Tree) (x4 : Nat) (x5 : Nat) (x6 : Bool) (x7 : List MPair) (x8 : State) : Keeps x8 (Eff.st (climb i f r tree x4 x5 x6 x7 x8)) := by
  induction x4 generalizing x5 x6 x7 x8 with
  | zero =>
    unfold climb
    repeat' first | with_reducible apply Keeps.refl | with_reducible apply Keeps.stWait
  | succ n ih =>
    unfold climb
    repeat' first
    | with_reducible first
      | apply Keeps.refl | apply ih | apply Keeps.after (ih ..) | apply Keeps.after (mergeFinish_keeps ..)
      | apply Keeps.after (sendBack_keeps ..) | apply Keeps.after (State_setSett_keeps ..) | apply Keeps.stWait
      | apply Keeps.toEff | apply Keeps.iteEff
    | dsimp only
    | split
theorem effSortMerge_keeps (i : Nat) (f : LayT) (prog : Nat) (aux : List Nat) (s : State) : Keeps s (Eff.st (effSortMerge i f prog aux s)) := by
  unfold effSortMerge
  repeat' first
  | with_reducible first
    | apply Keeps.refl | apply Keeps.ite | apply Keeps.after (sendBack_keeps ..) | apply Keeps.after (readPairs_keeps ..)
    | apply Keeps.after (mergeFinish_keeps ..) | apply Keeps.after (flagEmptyOps_keeps ..)
    | apply Keeps.after (State_flag_keeps ..) | apply Keeps.after (climb_keeps ..)
    | apply Keeps.after (bind_keeps _ _ (fun _ _ => ?_)) | apply Keeps.stOk | apply Keeps.stWait | apply Keeps.stEfault
    | apply Keeps.stEbad | apply Keeps.toEff | apply Keeps.iteRes | apply Keeps.iteEff
  | dsimp only
  | with_reducible first
    | refine Keeps.ofOk (by assumption) ?_ | refine Keeps.ofFault (by assumption) ?_ | refine Keeps.ofBad (by assumption) ?_
  | split
theorem lookupPage_keeps (i : Nat) (aa : Tens) (k : Nat) (s : State) : Keeps s (Res.st (lookupPage i aa k s)) := by
  unfold lookupPage
  repeat' first
  | with_reducible first
    | apply Keeps.refl | apply Keeps.after (Tens_readElem_keeps ..) | apply Keeps.after (bind_keeps _ _ (fun _ _ => ?_))
    | apply Keeps.stOk
theorem lookupStore_keeps (i : Nat) (tb : Nat) (epoch : Nat) (ad : Tens) (k : Nat) (pages : List Nat) (s : State) : Keeps s (Res.st (lookupStore i tb epoch ad k pages s)) := by
  unfold lookupStore
  repeat' first
  | with_reducible first
    | apply Keeps.refl | apply Keeps.after (Tens_writeWide_keeps ..) | apply Keeps.after (State_setCairn_keeps ..)
    | apply Keeps.after (bind_keeps _ _ (fun _ _ => ?_)) | apply Keeps.after (mapM_keeps _ (fun _ _ => ?_) _ _)
    | apply Keeps.stOk
theorem effCairnLookup_keeps (i : Nat) (f : LayT) (prog : Nat) (aux : List Nat) (s : State) : Keeps s (Eff.st (effCairnLookup i f prog aux s)) := by
  unfold effCairnLookup
  repeat' first
  | with_reducible first
    | apply Keeps.refl | apply Keeps.after (clearTrace_keeps ..) | apply Keeps.after (setSd_keeps ..)
    | apply Keeps.after (State_flag_keeps ..) | apply Keeps.after (markStores_keeps ..)
    | apply Keeps.after (lookupStore_keeps ..) | apply Keeps.after (lookupPage_keeps ..)
    | apply Keeps.after (bind_keeps _ _ (fun _ _ => ?_)) | apply Keeps.after (mapM_keeps _ (fun _ _ => ?_) _ _)
    | apply Keeps.after (stepsFrom_keeps _ _ (fun _ _ => ?_) _ _ _) | apply Keeps.stOk | apply Keeps.stDone
    | apply Keeps.stEfault | apply Keeps.stEbad | apply Keeps.iteRes | apply Keeps.iteEff
  | dsimp only
  | with_reducible first
    | refine Keeps.ofOk (by assumption) ?_ | refine Keeps.ofFault (by assumption) ?_ | refine Keeps.ofBad (by assumption) ?_
    | refine Keeps.ofDone (by assumption) ?_ | refine Keeps.ofEfault (by assumption) ?_
  | split
theorem fillRead_keeps (i : Nat) (aa : Tens) (k : Nat) (s : State) : Keeps s (Res.st (fillRead i aa k s)) := by
  unfold fillRead
  repeat' first
  | with_reducible first
    | apply Keeps.refl | apply Keeps.after (Tens_readElem_keeps ..) | apply Keeps.after (bind_keeps _ _ (fun _ _ => ?_))
    | apply Keeps.stOk
theorem fillStep_keeps (i : Nat) (tb : Nat) (epoch : Nat) (base : Nat) (aa : Tens) (n : Nat) (g : Nat) (s : State) : Keeps s (Res.st (fillStep i tb epoch base aa n g s)) := by
  unfold fillStep
  repeat' first
  | with_reducible first
    | apply Keeps.refl | apply Keeps.after (fillRead_keeps ..) | apply Keeps.after (State_setCairn_keeps ..)
    | apply Keeps.after (bind_keeps _ _ (fun _ _ => ?_)) | apply Keeps.after (mapM_keeps _ (fun _ _ => ?_) _ _)
    | apply Keeps.stOk
theorem effCairnFill_keeps (i : Nat) (f : LayT) (prog : Nat) (aux : List Nat) (s : State) : Keeps s (Eff.st (effCairnFill i f prog aux s)) := by
  unfold effCairnFill
  repeat' first
  | with_reducible first
    | apply Keeps.refl | apply Keeps.after (fillStep_keeps ..) | apply Keeps.after (stepsFrom_keeps _ _ (fun _ _ => ?_) _ _ _)
    | apply Keeps.stWait | apply Keeps.stEfault | apply Keeps.iteEff | refine Keeps.ofEfault (by assumption) ?_
  | split
theorem effCairnFlip_keeps (i : Nat) (f : LayT) (s : State) : Keeps s (Eff.st (effCairnFlip i f s)) := by
  unfold effCairnFlip
  repeat' first
  | with_reducible first
    | apply Keeps.refl | apply Keeps.after (setSd_keeps ..) | apply Keeps.after (State_setCairn_keeps ..) | apply Keeps.stDone
    | apply Keeps.stWait | apply Keeps.iteEff
theorem cairnClearStart_keeps (tb : Nat) (s : State) : Keeps s (cairnClearStart tb s) := by
  unfold cairnClearStart
  repeat' first
  | with_reducible first
    | apply Keeps.refl | apply Keeps.ite | apply Keeps.after (State_setCairn_keeps ..)
theorem cairnClearDone_keeps (tb : Nat) (s : State) : Keeps s (cairnClearDone tb s) := by
  unfold cairnClearDone
  repeat' first | with_reducible apply Keeps.refl | with_reducible apply Keeps.after (State_setCairn_keeps ..)
theorem lintelRead_keeps (i : Nat) (va : Nat) (kind : AccKind) (s : State) : Keeps s (Res.st (lintelRead i va kind s)) := by
  unfold lintelRead
  repeat' first
  | with_reducible first
    | apply Keeps.refl | apply Keeps.after (readMem_keeps ..) | apply Keeps.after (bind_keeps _ _ (fun _ _ => ?_))
    | apply Keeps.stOk
theorem lintelAtomic_keeps (i : Nat) (va : Nat) (f : Nat → Nat) (s : State) : Keeps s (Res.st (lintelAtomic i va f s)) := by
  unfold lintelAtomic
  repeat' first
  | with_reducible first
    | apply Keeps.refl | apply Keeps.after (lintelRead_keeps ..) | apply Keeps.after (writeMem_keeps ..)
    | apply Keeps.after (bind_keeps _ _ (fun _ _ => ?_)) | apply Keeps.stOk
theorem registerWait_keeps (w : LintelWait) (s : State) : Keeps s (registerWait w s) := by
  unfold registerWait
  repeat' first
  | with_reducible apply Keeps.refl
  | split
  | with_reducible apply Keeps.after (State_setDie_keeps ..)
  | exact ⟨rfl, id, fun h => ⟨h.1, h.2, h.3, h.4, h.5, h.6, h.7, h.8⟩, id⟩
theorem dropWait_keeps (w : LintelWait) (s : State) : Keeps s (dropWait w s) := by
  unfold dropWait
  repeat' first
  | with_reducible apply Keeps.refl
  | split
  | with_reducible apply Keeps.after (State_setDie_keeps ..)
  | exact ⟨rfl, id, fun h => ⟨h.1, h.2, h.3, h.4, h.5, h.6, h.7, h.8⟩, id⟩
theorem lintelWait_keeps (i : Nat) (va : Nat) (pop : Bool) (value : Nat) (s : State) : Keeps s (Res.st (lintelWait i va pop value s)) := by
  unfold lintelWait
  repeat' first
  | with_reducible first
    | apply Keeps.refl | apply Keeps.after (lintelRead_keeps ..) | apply Keeps.after (dropWait_keeps ..)
    | apply Keeps.after (registerWait_keeps ..) | apply Keeps.after (bind_keeps _ _ (fun _ _ => ?_)) | apply Keeps.stOk
    | apply Keeps.iteRes
theorem kvWords_keeps (i : Nat) (aa : Tens) (n : Nat) (s : State) : Keeps s (Res.st (kvWords i aa n s)) := by
  unfold kvWords
  repeat' first
  | with_reducible first
    | apply Keeps.refl | apply Keeps.after (Tens_readElem_keeps ..) | apply Keeps.after (bind_keeps _ _ (fun _ _ => ?_))
    | apply Keeps.after (mapM_keeps _ (fun _ _ => ?_) _ _) | apply Keeps.stOk
theorem kvLoadPart_keeps (i : Nat) (p : Pool) (head : Nat) (words : List Nat) (ad : Tens) (j : Nat) (g : Nat) (s : State) : Keeps s (Eff.st (kvLoadPart i p head words ad j g s)) := by
  unfold kvLoadPart
  repeat' first
  | with_reducible first
    | apply Keeps.refl | apply Keeps.after (readMem_keeps ..) | apply Keeps.after (Tens_writeBytes_keeps ..)
    | apply Keeps.after (bind_keeps _ _ (fun _ _ => ?_)) | apply Keeps.after (stepsFrom_keeps _ _ (fun _ _ => ?_) _ _ _)
  | split
theorem kvLoadGo_keeps (i : Nat) (p : Pool) (head : Nat) (words : List Nat) (ad : Tens) (x5 : Nat) (x6 : Nat) (x7 : Nat) (x8 : State) : Keeps x8 (Eff.st (kvLoadGo i p head words ad x5 x6 x7 x8)) := by
  induction x5 generalizing x6 x7 x8 with
  | zero =>
    unfold kvLoadGo
    repeat' first | with_reducible apply Keeps.refl | with_reducible apply Keeps.stDone
  | succ n ih =>
    unfold kvLoadGo
    repeat' first
    | with_reducible first
      | apply Keeps.refl | apply Keeps.after (ih ..) | apply Keeps.after (kvLoadPart_keeps ..) | apply Keeps.stEfault
      | refine Keeps.ofDone (by assumption) ?_ | refine Keeps.ofEfault (by assumption) ?_
    | split
theorem effKvLoad_keeps (i : Nat) (f : LayT) (prog : Nat) (aux : List Nat) (s0 : State) : Keeps s0 (Eff.st (effKvLoad i f prog aux s0)) := by
  unfold effKvLoad
  repeat' first
  | with_reducible first
    | apply Keeps.refl | apply Keeps.after (flagEmptyOps_keeps ..) | apply Keeps.after (readMem_keeps ..)
    | apply Keeps.after (State_flag_keeps ..) | apply Keeps.after (kvWords_keeps ..) | apply Keeps.after (kvLoadGo_keeps ..)
    | apply Keeps.stOk | apply Keeps.stDone | apply Keeps.stEfault | apply Keeps.stEbad | apply Keeps.iteRes
    | apply Keeps.iteEff
  | dsimp only
  | with_reducible first
    | refine Keeps.ofOk (by assumption) ?_ | refine Keeps.ofFault (by assumption) ?_ | refine Keeps.ofBad (by assumption) ?_
  | split
theorem kvSummStep_keeps (i : Nat) (aa : Tens) (ad : Tens) (k : Nat) (s : State) : Keeps s (Res.st (kvSummStep i aa ad k s)) := by
  unfold kvSummStep
  extract_lets hd pg
  refine bindK (mapM_keeps _ (fun b s => Tens_readRow_keeps ..) _ _) (fun _ _ => ?_)
  extract_lets n means
  refine bindK (mapM_keeps _ (fun b s => ?_) _ _) (fun _ _ => Keeps.refl _)
  extract_lets p m w
  split
  · exact Keeps.refl _
  · exact bindK (Tens_writeBlock_keeps ..) (fun _ _ => State_flag_keeps ..)
theorem effKvSumm_keeps (i : Nat) (f : LayT) (prog : Nat) (s : State) : Keeps s (Eff.st (effKvSumm i f prog s)) := by
  unfold effKvSumm
  repeat' first
  | with_reducible first
    | apply Keeps.refl | apply Keeps.after (kvSummStep_keeps ..) | apply Keeps.after (flagEmptyOps_keeps ..)
    | apply Keeps.after (stepsFrom_keeps _ _ (fun _ _ => ?_) _ _ _)
theorem scatBlocks_keeps (i : Nat) (p : Pool) (aa : Tens) (c : Nat × Nat × Nat) (s : State) : Keeps s (Res.st (scatBlocks i p aa c s)) := by
  unfold scatBlocks
  repeat' first
  | with_reducible first
    | apply Keeps.refl | apply Keeps.after (Tens_readBlock_keeps ..) | apply Keeps.after (bind_keeps _ _ (fun _ _ => ?_))
    | apply Keeps.after (mapM_keeps _ (fun _ _ => ?_) _ _) | apply Keeps.stOk | apply Keeps.iteRes
theorem scatRow_keeps (i : Nat) (table : Nat) (ab : Tens) (c : Scat) (s : State) : Keeps s (Res.st (scatRow i table ab c s)) := by
  unfold scatRow
  repeat' first
  | with_reducible first
    | apply Keeps.refl | apply Keeps.after (Tens_readElem_keeps ..) | apply Keeps.after (readMem_keeps ..)
    | apply Keeps.after (bind_keeps _ _ (fun _ _ => ?_)) | apply Keeps.stOk
  | split
theorem scatStage_keeps (i : Nat) (pool : Nat) (p : Pool) (r : ScatRow) (c : Scat) (s : State) : Keeps s (Res.st (scatStage i pool p r c s)) := by
  unfold scatStage
  repeat' first
  | with_reducible first
    | apply Keeps.refl | apply Keeps.after (lintelAtomic_keeps ..) | apply Keeps.after (lintelWait_keeps ..)
    | apply Keeps.after (writeMem_keeps ..) | apply Keeps.after (bind_keeps _ _ (fun _ _ => ?_)) | apply Keeps.stOk
    | apply Keeps.iteRes
  | dsimp only
  | split
theorem scatPublish_keeps (i : Nat) (p : Pool) (r : ScatRow) (c : Scat) (bs : List Narrowed) (s : State) : Keeps s (Res.st (scatPublish i p r c bs s)) := by
  unfold scatPublish
  repeat' first
  | with_reducible first
    | apply Keeps.refl | apply Keeps.after (lintelAtomic_keeps ..) | apply Keeps.after (bind_keeps _ _ (fun _ _ => ?_))
    | apply Keeps.stOk
theorem scatToken_keeps (i : Nat) (p : Pool) (aa : Tens) (r : ScatRow) (c : Scat) (s : State) : Keeps s (Eff.st (scatToken i p aa r c s)) := by
  unfold scatToken
  repeat' first
  | with_reducible first
    | apply Keeps.refl | apply Keeps.after (lintelRead_keeps ..) | apply Keeps.after (scatBlocks_keeps ..)
    | apply Keeps.after (writeMem_keeps ..) | apply Keeps.after (markStores_keeps ..)
    | apply Keeps.after (scatPublish_keeps ..) | apply Keeps.after (State_flag_keeps ..)
    | apply Keeps.after (bind_keeps _ _ (fun _ _ => ?_)) | apply Keeps.after (stepsFrom_keeps _ _ (fun _ _ => ?_) _ _ _)
    | apply Keeps.stOk | apply Keeps.stEfault | apply Keeps.stEbad
  | dsimp only
  | with_reducible first
    | refine Keeps.ofOk (by assumption) ?_ | refine Keeps.ofFault (by assumption) ?_ | refine Keeps.ofBad (by assumption) ?_
  | split
theorem scatRun_keeps (i : Nat) (pool : Nat) (table : Nat) (n : Nat) (p : Pool) (aa : Tens) (ab : Tens) (x7 : Nat) (x8 : Scat) (x9 : State) : Keeps x9 (Eff.st (scatRun i pool table n p aa ab x7 x8 x9)) := by
  induction x7 generalizing x8 x9 with
  | zero =>
    unfold scatRun
    repeat' first | with_reducible apply Keeps.refl | with_reducible apply Keeps.stDone
  | succ n ih =>
    unfold scatRun
    repeat' first
    | with_reducible first
      | apply Keeps.refl | apply Keeps.after (ih ..) | apply Keeps.after (scatRow_keeps ..)
      | apply Keeps.after (scatToken_keeps ..) | apply Keeps.after (scatStage_keeps ..) | apply Keeps.stDone
      | apply Keeps.stWait | apply Keeps.stEfault | apply Keeps.stEbad | apply Keeps.iteEff
      | refine Keeps.ofOk (by assumption) ?_ | refine Keeps.ofFault (by assumption) ?_ | refine Keeps.ofBad (by assumption) ?_
      | refine Keeps.ofDone (by assumption) ?_ | refine Keeps.ofEfault (by assumption) ?_
    | split
theorem effKvScatter_keeps (i : Nat) (f : LayT) (aux : List Nat) (s0 : State) : Keeps s0 (Eff.st (effKvScatter i f aux s0)) := by
  unfold effKvScatter
  repeat' first
  | with_reducible first
    | apply Keeps.refl | apply Keeps.after (flagEmptyOps_keeps ..) | apply Keeps.after (readMem_keeps ..)
    | apply Keeps.after (scatRun_keeps ..) | apply Keeps.stDone | apply Keeps.stEfault | apply Keeps.stEbad
    | apply Keeps.iteEff | refine Keeps.ofOk (by assumption) ?_ | refine Keeps.ofFault (by assumption) ?_
    | refine Keeps.ofBad (by assumption) ?_
  | split
theorem pWord_keeps (i : Nat) (ad : Tens) (r : Nat) (e : Nat) (s : State) : Keeps s (Res.st (pWord i ad r e s)) := by
  unfold pWord
  repeat' first
  | with_reducible first
    | apply Keeps.refl | apply Keeps.after (Tens_readElem_keeps ..) | apply Keeps.after (bind_keeps _ _ (fun _ _ => ?_))
    | apply Keeps.stOk
theorem readPRow_keeps (i : Nat) (ad : Tens) (r : Nat) (s : State) : Keeps s (Res.st (readPRow i ad r s)) := by
  unfold readPRow
  repeat' first
  | with_reducible first
    | apply Keeps.refl | apply Keeps.after (pWord_keeps ..) | apply Keeps.after (bind_keeps _ _ (fun _ _ => ?_))
    | apply Keeps.after (mapM_keeps _ (fun _ _ => ?_) _ _) | apply Keeps.stOk
theorem writeKS_keeps (i : Nat) (ad : Tens) (r : Nat) (k : Option Int) (sum : Nat) (s : State) : Keeps s (Res.st (writeKS i ad r k sum s)) := by
  unfold writeKS
  repeat' first
  | with_reducible first
    | apply Keeps.refl | apply Keeps.after (Tens_writeWide_keeps ..) | apply Keeps.after (bind_keeps _ _ (fun _ _ => ?_))
    | apply Keeps.after (mapM_keeps _ (fun _ _ => ?_) _ _) | apply Keeps.stOk
theorem storeProbs_keeps (i : Nat) (ab : Tens) (r : Nat) (ps : List Val) (s : State) : Keeps s (Res.st (storeProbs i ab r ps s)) := by
  unfold storeProbs
  repeat' first
  | with_reducible first
    | apply Keeps.refl | apply Keeps.after (Tens_writeBlock_keeps ..) | apply Keeps.after (State_flag_keeps ..)
    | apply Keeps.after (bind_keeps _ _ (fun _ _ => ?_)) | apply Keeps.after (mapM_keeps _ (fun _ _ => ?_) _ _)
    | apply Keeps.stOk | apply Keeps.iteRes
theorem attnRow_keeps (i : Nat) (compat : Bool) (sc : Val) (aa : Tens) (ab : Tens) (ad : Tens) (r : Nat) (s : State) : Keeps s (Res.st (attnRow i compat sc aa ab ad r s)) := by
  unfold attnRow
  repeat' first
  | with_reducible first
    | apply Keeps.refl | apply Keeps.ite | apply Keeps.after (Tens_readRow_keeps ..) | apply Keeps.after (readPRow_keeps ..)
    | apply Keeps.after (State_flag_keeps ..) | apply Keeps.after (storeProbs_keeps ..) | apply Keeps.after (writeKS_keeps ..)
    | apply Keeps.after (bind_keeps _ _ (fun _ _ => ?_)) | apply Keeps.stOk | apply Keeps.iteRes
theorem attnRows_keeps (i : Nat) (f : LayT) (compat : Bool) (sc : Val) (aa : Tens) (ab : Tens) (ad : Tens) (x7 : Nat) (x8 : Nat) (x9 : Nat) (x10 : State) : Keeps x10 (Eff.st (attnRows i f compat sc aa ab ad x7 x8 x9 x10)) := by
  induction x7 generalizing x8 x9 x10 with
  | zero =>
    unfold attnRows
    repeat' first
    | with_reducible first
      | apply Keeps.refl | apply Keeps.after (setSd_keeps ..) | apply Keeps.stDone
  | succ n ih =>
    unfold attnRows
    repeat' first
    | with_reducible first
      | apply Keeps.refl | apply Keeps.after (ih ..) | apply Keeps.after (attnRow_keeps ..) | apply Keeps.stEfault
      | apply Keeps.stEbad | refine Keeps.ofOk (by assumption) ?_ | refine Keeps.ofFault (by assumption) ?_
      | refine Keeps.ofBad (by assumption) ?_
    | split
theorem effAttnStep_keeps (i : Nat) (f : LayT) (prog : Nat) (aux : List Nat) (s : State) : Keeps s (Eff.st (effAttnStep i f prog aux s)) := by
  unfold effAttnStep
  repeat' first
  | with_reducible first
    | apply Keeps.refl | apply Keeps.after (attnRows_keeps ..) | apply Keeps.after (flagEmptyOps_keeps ..)
theorem readMRow_keeps (i : Nat) (ad : Tens) (w : Nat) (r : Nat) (s : State) : Keeps s (Res.st (readMRow i ad w r s)) := by
  unfold readMRow
  repeat' first
  | with_reducible first
    | apply Keeps.refl | apply Keeps.after (readPRow_keeps ..) | apply Keeps.after (pWord_keeps ..)
    | apply Keeps.after (bind_keeps _ _ (fun _ _ => ?_)) | apply Keeps.after (mapM_keeps _ (fun _ _ => ?_) _ _)
    | apply Keeps.stOk
theorem writeMRow_keeps (i : Nat) (ad : Tens) (r : Nat) (m : MRow) (s : State) : Keeps s (Res.st (writeMRow i ad r m s)) := by
  unfold writeMRow
  repeat' first
  | with_reducible first
    | apply Keeps.refl | apply Keeps.ite | apply Keeps.after (State_flag_keeps ..)
    | apply Keeps.after (Tens_writeWide_keeps ..) | apply Keeps.after (pWord_keeps ..) | apply Keeps.after (writeKS_keeps ..)
    | apply Keeps.after (bind_keeps _ _ (fun _ _ => ?_)) | apply Keeps.after (mapM_keeps _ (fun _ _ => ?_) _ _)
theorem attnClimb_keeps (i : Nat) (sa : Nat) (w : Nat) (ad : Tens) (tree : Tree) (x5 : Nat) (x6 : Nat) (x7 : List MRow) (x8 : State) : Keeps x8 (Eff.st (attnClimb i sa w ad tree x5 x6 x7 x8)) := by
  induction x5 generalizing x6 x7 x8 with
  | zero =>
    unfold attnClimb
    repeat' first | with_reducible apply Keeps.refl | with_reducible apply Keeps.stWait
  | succ n ih =>
    unfold attnClimb
    repeat' first
    | with_reducible first
      | apply Keeps.refl | apply ih | apply Keeps.after (ih ..) | apply Keeps.after (writeMRow_keeps ..)
      | apply Keeps.after (State_setSett_keeps ..) | apply Keeps.after (bind_keeps _ _ (fun _ _ => ?_))
      | apply Keeps.after (mapM_keeps _ (fun _ _ => ?_) _ _)
    | (simp only [mk_anew]; with_reducible apply Keeps.after (anew_keeps ..))
    | with_reducible first
      | apply Keeps.stOk | apply Keeps.stWait | apply Keeps.toEff | apply Keeps.iteEff
    | dsimp only
    | split
theorem effAttnMerge_keeps (i : Nat) (f : LayT) (prog : Nat) (aux : List Nat) (s : State) : Keeps s (Eff.st (effAttnMerge i f prog aux s)) := by
  unfold effAttnMerge
  repeat' first
  | with_reducible first
    | apply Keeps.refl | apply Keeps.after (attnClimb_keeps ..) | apply Keeps.after (readMRow_keeps ..)
    | apply Keeps.after (flagEmptyOps_keeps ..) | apply Keeps.after (mapM_keeps _ (fun _ _ => ?_) _ _) | apply Keeps.stEfault
    | apply Keeps.stEbad | apply Keeps.iteEff | refine Keeps.ofOk (by assumption) ?_ | refine Keeps.ofFault (by assumption) ?_
    | refine Keeps.ofBad (by assumption) ?_
  | split
theorem fillSlot_keeps (j : Nat) (d : Nat) (tag : Nat) (elen : Nat) (trunc : Bool) (bs : List Byte) (s : State) : Keeps s (Res.st (fillSlot j d tag elen trunc bs s)) := by
  unfold fillSlot
  repeat' first
  | with_reducible first
    | apply Keeps.refl | apply Keeps.after (writeScratch_keeps ..) | apply Keeps.after (State_setSett_keeps ..)
    | apply Keeps.after (bind_keeps _ _ (fun _ _ => ?_)) | apply Keeps.stOk
theorem freeSlot_keeps (i : Nat) (d : Nat) (s : State) : Keeps s (freeSlot i d s) := by
  unfold freeSlot
  repeat' first
  | with_reducible first
    | apply Keeps.refl | apply Keeps.after (State_setSett_keeps ..)
  | dsimp only
  | split
theorem haloPayload_keeps (i : Nat) (aa : Tens) (s : State) : Keeps s (Res.st (haloPayload i aa s)) := by
  unfold haloPayload
  repeat' first
  | with_reducible first
    | apply Keeps.refl | apply Keeps.after (tileRows_keeps ..) | apply Keeps.after (tileScales_keeps ..)
    | apply Keeps.after (bind_keeps _ _ (fun _ _ => ?_)) | apply Keeps.stOk
theorem effHaloPut_keeps (i : Nat) (f : LayT) (s : State) : Keeps s (Eff.st (effHaloPut i f s)) := by
  unfold effHaloPut
  repeat' first
  | with_reducible first
    | apply Keeps.refl | apply Keeps.after (haloPayload_keeps ..) | apply Keeps.after (flagEmptyOps_keeps ..)
    | apply Keeps.after (fillSlot_keeps ..) | apply Keeps.after (State_setSett_keeps ..)
    | apply Keeps.after (bind_keeps _ _ (fun _ _ => ?_)) | apply Keeps.stOk | apply Keeps.stWait | apply Keeps.toEff
    | apply Keeps.iteEff
  | dsimp only
  | split
theorem takeRows_keeps (i : Nat) (ad : Tens) (es : List Byte) (s : State) : Keeps s (Res.st (takeRows i ad es s)) := by
  unfold takeRows
  repeat' first
  | with_reducible first
    | apply Keeps.refl | apply Keeps.after (Tens_writeBytes_keeps ..) | apply Keeps.after (bind_keeps _ _ (fun _ _ => ?_))
    | apply Keeps.after (mapM_keeps _ (fun _ _ => ?_) _ _) | apply Keeps.stOk
theorem takeScales_keeps (i : Nat) (ad : Tens) (ss : List Byte) (s : State) : Keeps s (Res.st (takeScales i ad ss s)) := by
  unfold takeScales
  repeat' first
  | with_reducible first
    | apply Keeps.refl | apply Keeps.after (Tens_writeBytes_keeps ..) | apply Keeps.after (bind_keeps _ _ (fun _ _ => ?_))
    | apply Keeps.after (mapM_keeps _ (fun _ _ => ?_) _ _) | apply Keeps.stOk | apply Keeps.iteRes
theorem effHaloTake_keeps (i : Nat) (f : LayT) (s : State) : Keeps s (Eff.st (effHaloTake i f s)) := by
  unfold effHaloTake
  repeat' first
  | with_reducible first
    | apply Keeps.refl | apply Keeps.after (flagEmptyOps_keeps ..) | apply Keeps.after (readScratch_keeps ..)
    | apply Keeps.after (takeRows_keeps ..) | apply Keeps.after (takeScales_keeps ..) | apply Keeps.after (freeSlot_keeps ..)
    | apply Keeps.after (State_setSett_keeps ..) | apply Keeps.after (bind_keeps _ _ (fun _ _ => ?_)) | apply Keeps.stOk
    | apply Keeps.stWait | apply Keeps.toEff
  | dsimp only
  | split
theorem spillGo_keeps (i : Nat) (d : Nat) (ad : Tens) (limit : Nat) (x4 : Nat) (x5 : Nat) (x6 : Nat) (x7 : Nat) (x8 : State) : Keeps x8 (sumSt3 (spillGo i d ad limit x4 x5 x6 x7 x8)) := by
  induction x4 generalizing x5 x6 x7 x8 with
  | zero => exact Keeps.refl _
  | succ n ih =>
    unfold spillGo
    dsimp only
    split
    · exact Keeps.refl _
    · split
      · exact Keeps.refl _
      · have hr := readScratch_keeps i (((x8.sett i).port d).base + ((x8.sett i).port d).oldest * ((x8.sett i).port d).slotBytes) ‹HaloSlot›.len x8
        split
        · next bs s1 e =>
          rw [e] at hr
          have hw := writeSteps_keeps i (ad.base + x6) (spillRecord ‹HaloSlot› bs) x7 s1
          split
          · next e2 => rw [e2] at hw; exact (Keeps.trans hr hw).trans ((freeSlot_keeps ..).trans (ih ..))
          · next e2 => rw [e2] at hw; exact Keeps.trans hr hw
          · exact Keeps.trans hr hw
        · next e => rw [e] at hr; exact hr
        · next e => rw [e] at hr; exact hr
theorem effHaloSpill_keeps (i : Nat) (f : LayT) (aux : List Nat) (s : State) : Keeps s (Eff.st (effHaloSpill i f aux s)) := by
  unfold effHaloSpill
  dsimp only
  split
  · exact (State_flag_keeps s i flEmpty).trans (setSd_keeps ..)
  · have hk := spillGo_keeps i (modDir f) (tens (s.sett i) f.ad) (tens (s.sett i) f.ad).extent
      (if aux.getD 3 0 = 1 then 0 else ((s.sett i).port (modDir f)).slots.length) (aux.getD 0 0) (aux.getD 1 0) (aux.getD 2 0) s
    split
    · next e => rw [e] at hk; exact hk
    · next n off s1 e =>
      rw [e] at hk
      refine Keeps.trans hk ?_
      split
      · exact setSd_keeps ..
      · have hh := storeHeaders_keeps i true (tens (s.sett i) f.ad) [((tens (s.sett i) f.ad).base, off)] (tens (s.sett i) f.ad).valid s1
        split
        · next e2 => rw [e2] at hh; exact Keeps.trans hh (setSd_keeps ..)
        · next e2 => rw [e2] at hh; exact hh
        · next e2 => rw [e2] at hh; exact hh
theorem fillGo_keeps (i : Nat) (d : Nat) (aa : Tens) (limit : Nat) (total : Nat) (x5 : Nat) (x6 : Nat) (x7 : Nat) (x8 : List Byte) (x9 : State) : Keeps x9 (sumSt (fillGo i d aa limit total x5 x6 x7 x8 x9)) := by
  induction x5 generalizing x6 x7 x8 x9 with
  | zero =>
    unfold fillGo
    repeat' first | with_reducible apply Keeps.refl | with_reducible apply Keeps.stInr
  | succ n ih =>
    unfold fillGo
    repeat' first
    | with_reducible first
      | apply Keeps.refl | apply Keeps.after (ih ..) | apply Keeps.after (readRest_keeps ..)
      | apply Keeps.after (State_setSett_keeps ..) | apply Keeps.after (fillSlot_keeps ..) | apply Keeps.stWait
      | apply Keeps.stEfault | apply Keeps.stEbad | apply Keeps.stInr | apply Keeps.stInl | apply Keeps.iteSum
    | dsimp only
    | with_reducible first
      | refine Keeps.ofOk (by assumption) ?_ | refine Keeps.ofFault (by assumption) ?_ | refine Keeps.ofBad (by assumption) ?_
      | refine Keeps.ofPok (by assumption) ?_ | refine Keeps.ofPfault (by assumption) ?_
      | refine Keeps.ofPbad (by assumption) ?_
    | split
theorem effHaloFill_keeps (i : Nat) (f : LayT) (aux : List Nat) (s : State) : Keeps s (Eff.st (effHaloFill i f aux s)) := by
  unfold effHaloFill
  repeat' first
  | with_reducible first
    | apply Keeps.refl | apply Keeps.after (setSd_keeps ..) | apply Keeps.after (State_flag_keeps ..)
    | apply Keeps.after (fillGo_keeps ..) | apply Keeps.stDone | apply Keeps.iteEff | refine Keeps.ofInl (by assumption) ?_
    | refine Keeps.ofInr (by assumption) ?_
  | split
theorem creditArrives_keeps (i : Nat) (d : Nat) (s : State) : Keeps s (creditArrives i d s) := by
  unfold creditArrives
  repeat' first | with_reducible apply Keeps.refl | with_reducible apply Keeps.after (State_setSett_keeps ..)
theorem effWaitge_keeps (i : Nat) (f : LayB) (prog : Nat) (s : State) : Keeps s (Eff.st (effWaitge i f prog s)) := by
  unfold effWaitge
  repeat' first
  | with_reducible first
    | apply Keeps.refl | apply Keeps.after (lintelWait_keeps ..) | apply Keeps.stDone | apply Keeps.stWait
    | apply Keeps.stEfault | apply Keeps.stEbad | apply Keeps.iteEff | refine Keeps.ofOk (by assumption) ?_
    | refine Keeps.ofFault (by assumption) ?_ | refine Keeps.ofBad (by assumption) ?_
  | split
theorem effAtom_keeps (g : Nat → Nat → Nat) (i : Nat) (f : LayB) (s : State) : Keeps s (Eff.st (effAtom g i f s)) := by
  unfold effAtom
  repeat' first
  | with_reducible first
    | apply Keeps.refl | apply Keeps.after (lintelAtomic_keeps ..) | apply Keeps.after (setSd_keeps ..)
    | apply Keeps.after (bind_keeps _ _ (fun _ _ => ?_)) | apply Keeps.stOk | apply Keeps.toEff
theorem effWcTake_keeps (i : Nat) (f : LayB) (s : State) : Keeps s (Eff.st (effWcTake i f s)) := by
  unfold effWcTake
  repeat' first | with_reducible apply Keeps.refl | with_reducible apply Keeps.after (effAtom_keeps ..)
theorem effAtomMax_keeps (i : Nat) (f : LayB) (s : State) : Keeps s (Eff.st (effAtomMax i f s)) := by
  unfold effAtomMax
  repeat' first | with_reducible apply Keeps.refl | with_reducible apply Keeps.after (effAtom_keeps ..)
theorem effAtomMin_keeps (i : Nat) (f : LayB) (s : State) : Keeps s (Eff.st (effAtomMin i f s)) := by
  unfold effAtomMin
  repeat' first | with_reducible apply Keeps.refl | with_reducible apply Keeps.after (effAtom_keeps ..)
theorem effAtomXchg_keeps (i : Nat) (f : LayB) (s : State) : Keeps s (Eff.st (effAtomXchg i f s)) := by
  unfold effAtomXchg
  repeat' first | with_reducible apply Keeps.refl | with_reducible apply Keeps.after (effAtom_keeps ..)
theorem effAtomCas_keeps (i : Nat) (f : LayB) (ext : W64) (s : State) : Keeps s (Eff.st (effAtomCas i f ext s)) := by
  unfold effAtomCas
  repeat' first | with_reducible apply Keeps.refl | with_reducible apply Keeps.after (effAtom_keeps ..)
theorem redStep_keeps (i : Nat) (op : Nat → Nat → Nat × Fl) (aa : Tens) (ad : Tens) (k : Nat) (s : State) : Keeps s (Res.st (redStep i op aa ad k s)) := by
  unfold redStep
  repeat' first
  | with_reducible first
    | apply Keeps.refl | apply Keeps.after (Tens_readElem_keeps ..) | apply Keeps.after (readMem_keeps ..)
    | apply Keeps.after (writeMem_keeps ..) | apply Keeps.after (State_flag_keeps ..)
    | apply Keeps.after (bind_keeps _ _ (fun _ _ => ?_)) | apply Keeps.stOk
theorem effRed_keeps (op : Nat → Nat → Nat × Fl) (fmt : Fmt) (i : Nat) (f : LayB) (prog : Nat) (s : State) : Keeps s (Eff.st (effRed op fmt i f prog s)) := by
  unfold effRed
  repeat' first
  | with_reducible first
    | apply Keeps.refl | apply Keeps.after (flagEmptyOps_keeps ..) | apply Keeps.after (State_flag_keeps ..)
    | apply Keeps.after (redStep_keeps ..) | apply Keeps.after (markStores_keeps ..)
    | apply Keeps.after (stepsFrom_keeps _ _ (fun _ _ => ?_) _ _ _) | apply Keeps.stDone | apply Keeps.iteRes
    | apply Keeps.iteEff
theorem effRedAdd_keeps (i : Nat) (f : LayB) (prog : Nat) (s : State) : Keeps s (Eff.st (effRedAdd i f prog s)) := by
  unfold effRedAdd
  repeat' first | with_reducible apply Keeps.refl | with_reducible apply Keeps.after (effRed_keeps ..)
theorem effRedMax_keeps (i : Nat) (f : LayB) (prog : Nat) (s : State) : Keeps s (Eff.st (effRedMax i f prog s)) := by
  unfold effRedMax
  repeat' first | with_reducible apply Keeps.refl | with_reducible apply Keeps.after (effRed_keeps ..)
theorem hyperWords_keeps (i : Nat) (ad : Tens) (s : State) : Keeps s (Res.st (hyperWords i ad s)) := by
  unfold hyperWords
  repeat' first
  | with_reducible first
    | apply Keeps.refl | apply Keeps.after (Tens_readVal_keeps ..) | apply Keeps.after (mapM_keeps _ (fun _ _ => ?_) _ _)
theorem sweepRecord_keeps (i : Nat) (rule : Nat) (step : Nat) (h : Hyper) (aa : Tens) (ab : Tens) (k : Nat) (s : State) : Keeps s (Res.st (sweepRecord i rule step h aa ab k s)) := by
  unfold sweepRecord
  repeat' first
  | with_reducible first
    | apply Keeps.refl | apply Keeps.ite | apply Keeps.after (readMem_keeps ..) | apply Keeps.after (Tens_readVal_keeps ..)
    | apply Keeps.after (markStores_keeps ..) | apply Keeps.after (writeMem_keeps ..) | apply Keeps.after (State_flag_keeps ..)
    | apply Keeps.after (bind_keeps _ _ (fun _ _ => ?_)) | apply Keeps.after (mapM_keeps _ (fun _ _ => ?_) _ _)
    | apply Keeps.stOk | apply Keeps.iteRes
  | split
theorem sweepGo_keeps (i : Nat) (rule : Nat) (step : Nat) (f : LayT) (h : Hyper) (aa : Tens) (ab : Tens) (x7 : Nat) (x8 : Nat) (x9 : Nat) (x10 : Nat) (x11 : State) : Keeps x11 (Eff.st (sweepGo i rule step f h aa ab x7 x8 x9 x10 x11)) := by
  induction x7 generalizing x8 x9 x10 x11 with
  | zero =>
    unfold sweepGo
    repeat' first
    | with_reducible first
      | apply Keeps.refl | apply Keeps.after (setSd_keeps ..) | apply Keeps.stDone
  | succ n ih =>
    unfold sweepGo
    repeat' first
    | with_reducible first
      | apply Keeps.refl | apply Keeps.after (clearTrace_keeps ..) | apply Keeps.after (ih ..)
      | apply Keeps.after (sweepRecord_keeps ..) | apply Keeps.stEfault | apply Keeps.stEbad
      | refine Keeps.ofOk (by assumption) ?_ | refine Keeps.ofFault (by assumption) ?_ | refine Keeps.ofBad (by assumption) ?_
    | split
theorem effUpdSweep_keeps (i : Nat) (f : LayT) (prog : Nat) (aux : List Nat) (s : State) : Keeps s (Eff.st (effUpdSweep i f prog aux s)) := by
  unfold effUpdSweep
  repeat' first
  | with_reducible first
    | apply Keeps.refl | apply Keeps.after (setSd_keeps ..) | apply Keeps.after (hyperWords_keeps ..)
    | apply Keeps.after (sweepGo_keeps ..) | apply Keeps.stDone | apply Keeps.stEfault | apply Keeps.stEbad
    | apply Keeps.iteEff | refine Keeps.ofOk (by assumption) ?_ | refine Keeps.ofFault (by assumption) ?_
    | refine Keeps.ofBad (by assumption) ?_
  | split
theorem State_setPort_keeps (s : State) (p : Nat) (f : GPort → GPort) : Keeps s (State.setPort s p f) := by
  unfold State.setPort
  repeat' first | with_reducible apply Keeps.refl | (simp only [mk_anew]; with_reducible apply Keeps.after (anew_keeps ..))
theorem portCode_keeps (p : Nat) (code : Nat) (s : State) : Keeps s (portCode p code s) := by
  unfold portCode
  repeat' first
  | with_reducible first
    | apply Keeps.refl | apply Keeps.after (raiseEvent_keeps ..) | apply Keeps.after (State_setPort_keeps ..)
theorem emitFlit_keeps (p : Nat) (bs : List Byte) (s : State) : Keeps s (emitFlit p bs s) := by
  unfold emitFlit
  repeat' first
  | with_reducible first
    | apply Keeps.refl | apply Keeps.after (State_emit_keeps ..) | apply Keeps.after (State_setPort_keeps ..)
theorem sendCredit_keeps (p : Nat) (vc : Nat) (n : Nat) (s : State) : Keeps s (sendCredit p vc n s) := by
  unfold sendCredit
  repeat' first
  | with_reducible first
    | apply Keeps.refl | apply Keeps.ite | apply Keeps.after (emitFlit_keeps ..)
theorem sendFlit_keeps (p : Nat) (vc : Nat) (s : State) : Keeps s (sendFlit p vc s) := by
  unfold sendFlit
  repeat' first
  | with_reducible first
    | apply Keeps.refl | apply Keeps.after (State_setPort_keeps ..) | apply Keeps.after (emitFlit_keeps ..)
    | apply Keeps.after (sendCredit_keeps ..)
  | dsimp only
  | split
theorem drainPortGo_keeps (p : Nat) (x1 : Nat) (x2 : State) : Keeps x2 (drainPortGo p x1 x2) := by
  induction x1 generalizing x2 with
  | zero =>
    unfold drainPortGo
    repeat' first | with_reducible apply Keeps.refl
  | succ n ih =>
    unfold drainPortGo
    repeat' first
    | with_reducible first
      | apply Keeps.refl | apply Keeps.ite | apply Keeps.after (ih ..) | apply Keeps.after (sendFlit_keeps ..)
    | split
theorem drainPort_keeps (p : Nat) (s : State) : Keeps s (drainPort p s) := by
  unfold drainPort
  repeat' first | with_reducible apply Keeps.refl | with_reducible apply Keeps.after (drainPortGo_keeps ..)
theorem countNoRoute_keeps (s : State) : Keeps s (countNoRoute s) := by
  unfold countNoRoute
  repeat' first | with_reducible apply Keeps.refl | (simp only [mk_anew]; with_reducible apply Keeps.after (anew_keeps ..))
theorem addMsg_keeps (p : Nat) (m : TxMsg) (s : State) : Keeps s (addMsg p m s) := by
  unfold addMsg
  repeat' first | with_reducible apply Keeps.refl | (simp only [mk_anew]; with_reducible apply Keeps.after (anew_keeps ..))
theorem noteLost_keeps (tag : Nat) (code : Nat) (s : State) : Keeps s (noteLost tag code s) := by
  unfold noteLost
  repeat' first
  | with_reducible first
    | apply Keeps.refl | apply Keeps.ite
  | (simp only [mk_anew]; with_reducible apply Keeps.after (anew_keeps ..))
theorem golgerSend_keeps (dst : Nat) (tag : Nat) (bs : List Byte) (s : State) : Keeps s (golgerSend dst tag bs s) := by
  unfold golgerSend
  repeat' first
  | with_reducible first
    | apply Keeps.refl | apply Keeps.ite | apply Keeps.after (noteLost_keeps ..) | apply Keeps.after (raiseEvent_keeps ..)
    | apply Keeps.after (countNoRoute_keeps ..) | apply Keeps.after (drainPort_keeps ..) | apply Keeps.after (addMsg_keeps ..)
  | (simp only [mk_anew]; with_reducible apply Keeps.after (anew_keeps ..))
  | split
theorem discardMsg_keeps (p : Nat) (code : Nat) (s : State) : Keeps s (discardMsg p code s) := by
  unfold discardMsg
  repeat' first
  | with_reducible first
    | apply Keeps.refl | apply Keeps.after (portCode_keeps ..) | apply Keeps.after (State_setPort_keeps ..)
theorem abortForward_keeps (p : Nat) (key : Nat) (s : State) : Keeps s (abortForward p key s) := by
  unfold abortForward
  repeat' first
  | with_reducible first
    | apply Keeps.refl | apply Keeps.after (drainPort_keeps ..) | apply Keeps.after (State_setPort_keeps ..)
theorem dropRx_keeps (p : Nat) (vc : Nat) (s : State) : Keeps s (dropRx p vc s) := by
  unfold dropRx
  repeat' first
  | with_reducible first
    | apply Keeps.refl | apply Keeps.after (State_setPort_keeps ..) | apply Keeps.after (discardMsg_keeps ..)
    | apply Keeps.after (abortForward_keeps ..)
  | dsimp only
  | split
theorem freeFlits_keeps (fs : List TxFlit) (s : State) : Keeps s (freeFlits fs s) := by
  unfold freeFlits
  repeat' first
  | with_reducible first
    | apply Keeps.refl | apply Keeps.after (sendCredit_keeps ..) | apply Keeps.after (foldl_keeps _ (fun _ _ => ?_) _ _)
  | split
theorem abandonMsg_keeps (p : Nat) (m : TxMsg) (s : State) : Keeps s (abandonMsg p m s) := by
  unfold abandonMsg
  repeat' first
  | with_reducible first
    | apply Keeps.refl | apply Keeps.ite | apply Keeps.after (freeFlits_keeps ..) | apply Keeps.after (noteLost_keeps ..)
    | apply Keeps.after (portCode_keeps ..)
theorem dropTx_keeps (p : Nat) (s : State) : Keeps s (dropTx p s) := by
  unfold dropTx
  repeat' first
  | with_reducible first
    | apply Keeps.refl | apply Keeps.after (State_setPort_keeps ..) | apply Keeps.after (abandonMsg_keeps ..)
  | dsimp only
  | with_reducible apply Keeps.after (foldl_keeps _ (fun _ _ => ?_) _ _)
theorem abandonPort_keeps (p : Nat) (s : State) : Keeps s (abandonPort p s) := by
  unfold abandonPort
  repeat' first
  | with_reducible first
    | apply Keeps.refl | apply Keeps.after (dropTx_keeps ..) | apply Keeps.after (dropRx_keeps ..)
    | apply Keeps.after (State_setPort_keeps ..) | apply Keeps.after (foldl_keeps _ (fun _ _ => ?_) _ _)
theorem linkDown_keeps (p : Nat) (s : State) : Keeps s (linkDown p s) := by
  unfold linkDown
  repeat' first
  | with_reducible first
    | apply Keeps.refl | apply Keeps.after (State_setPort_keeps ..) | apply Keeps.after (portCode_keeps ..)
    | apply Keeps.after (abandonPort_keeps ..)
theorem golgerLinkFault_keeps (p : Nat) (s : State) : Keeps s (golgerLinkFault p s) := by
  unfold golgerLinkFault
  repeat' first
  | with_reducible first
    | apply Keeps.refl | apply Keeps.ite | apply Keeps.after (linkDown_keeps ..)
theorem askReplay_keeps (p : Nat) (s : State) : Keeps s (askReplay p s) := by
  unfold askReplay
  repeat' first
  | with_reducible first
    | apply Keeps.refl | apply Keeps.ite | apply Keeps.after (emitFlit_keeps ..) | apply Keeps.after (State_setPort_keeps ..)
    | apply Keeps.after (linkDown_keeps ..)
theorem deliverPart_keeps (p : Nat) (vc : Nat) (r : RxMsg) (h : FHdr) (pay : List Byte) (s : State) : Keeps s (deliverPart p vc r h pay s) := by
  unfold deliverPart
  repeat' first
  | with_reducible first
    | apply Keeps.refl | apply Keeps.ite | apply Keeps.after (sendCredit_keeps ..) | apply Keeps.after (State_setPort_keeps ..)
  | (simp only [mk_anew]; with_reducible apply Keeps.after (anew_keeps ..))
theorem forwardPart_keeps (p : Nat) (vc : Nat) (q : Nat) (key : Nat) (h : FHdr) (pay : List Byte) (s : State) : Keeps s (forwardPart p vc q key h pay s) := by
  unfold forwardPart
  repeat' first
  | with_reducible first
    | apply Keeps.refl | apply Keeps.ite | apply Keeps.after (State_setPort_keeps ..) | apply Keeps.after (drainPort_keeps ..)
    | apply Keeps.after (sendCredit_keeps ..)
theorem discardPart_keeps (p : Nat) (vc : Nat) (h : FHdr) (s : State) : Keeps s (discardPart p vc h s) := by
  unfold discardPart
  repeat' first
  | with_reducible first
    | apply Keeps.refl | apply Keeps.ite | apply Keeps.after (sendCredit_keeps ..) | apply Keeps.after (State_setPort_keeps ..)
theorem routeFirst_keeps (p : Nat) (h : FHdr) (s : State) : Keeps s (routeFirst p h s).1 := by
  unfold routeFirst
  repeat' first
  | with_reducible first
    | apply Keeps.refl | apply Keeps.after (discardMsg_keeps ..) | apply Keeps.after (countNoRoute_keeps ..)
    | apply Keeps.after (addMsg_keeps ..)
  | (simp only [mk_anew]; with_reducible apply Keeps.after (anew_keeps ..))
  | with_reducible apply Keeps.iteFst
  | dsimp only
  | split
theorem acceptData_keeps (p : Nat) (h : FHdr) (pay : List Byte) (s : State) : Keeps s (acceptData p h pay s) := by
  unfold acceptData
  repeat' first
  | with_reducible first
    | apply Keeps.refl | apply Keeps.ite | apply Keeps.after (dropRx_keeps ..) | apply Keeps.after (routeFirst_keeps ..)
    | apply Keeps.after (State_setPort_keeps ..) | apply Keeps.after (sendCredit_keeps ..)
    | apply Keeps.after (deliverPart_keeps ..) | apply Keeps.after (forwardPart_keeps ..)
    | apply Keeps.after (discardPart_keeps ..)
  | dsimp only
  | split
theorem acceptAbort_keeps (p : Nat) (h : FHdr) (s : State) : Keeps s (acceptAbort p h s) := by
  unfold acceptAbort
  repeat' first
  | with_reducible first
    | apply Keeps.refl | apply Keeps.after (dropRx_keeps ..) | apply Keeps.after (sendCredit_keeps ..)
theorem sequenced_keeps (p : Nat) (h : FHdr) (accept : State → State) (h1 : ∀ y0, Keeps y0 (accept y0)) (s : State) : Keeps s (sequenced p h accept s) := by
  unfold sequenced
  repeat' first
  | with_reducible first
    | apply Keeps.refl | apply Keeps.ite | apply Keeps.after (h1 ..) | apply Keeps.after (sendCredit_keeps ..)
    | apply Keeps.after (State_setPort_keeps ..) | apply Keeps.after (askReplay_keeps ..)
theorem flitArrives_keeps (p : Nat) (f : Flit) (use : FHdr → List Byte → State → State) (h1 : ∀ y0 y1 y2, Keeps y2 (use y0 y1 y2)) (s : State) : Keeps s (flitArrives p f use s) := by
  unfold flitArrives
  repeat' first
  | with_reducible first
    | apply Keeps.refl | apply Keeps.ite | apply Keeps.after (h1 ..) | apply Keeps.after (State_setPort_keeps ..)
    | apply Keeps.after (askReplay_keeps ..)
theorem replayFrom_keeps (p : Nat) (h : FHdr) (s : State) : Keeps s (replayFrom p h s) := by
  unfold replayFrom
  repeat' first
  | with_reducible first
    | apply Keeps.refl | apply Keeps.ite | apply Keeps.after (State_setPort_keeps ..) | apply Keeps.after (linkDown_keeps ..)
    | apply Keeps.after (drainPort_keeps ..) | apply Keeps.after (emitFlit_keeps ..)
  | dsimp only
  | with_reducible apply Keeps.after (foldl_keeps _ (fun _ _ => ?_) _ _)
theorem flitUse_keeps (p : Nat) (h : FHdr) (pay : List Byte) (s : State) : Keeps s (flitUse p h pay s) := by
  unfold flitUse
  repeat' first
  | with_reducible first
    | apply Keeps.refl | apply Keeps.ite | apply Keeps.after (sequenced_keeps _ _ _ (fun _ => ?_) _)
    | apply acceptData_keeps | apply acceptAbort_keeps | apply replayFrom_keeps
    | apply Keeps.after (drainPort_keeps ..) | apply Keeps.after (State_setPort_keeps ..)
  | exact Keeps.refl _
theorem golgerData_keeps (p : Nat) (f : Flit) (s : State) : Keeps s (golgerData p f s) := by
  unfold golgerData
  repeat' first
  | with_reducible first
    | apply Keeps.refl | apply Keeps.after (flitArrives_keeps _ _ _ (fun _ _ _ => ?_) _) | apply Keeps.after (flitUse_keeps ..)
theorem golgerAbort_keeps (p : Nat) (f : Flit) (s : State) : Keeps s (golgerAbort p f s) := by
  unfold golgerAbort
  repeat' first
  | with_reducible first
    | apply Keeps.refl | apply Keeps.after (flitArrives_keeps _ _ _ (fun _ _ _ => ?_) _) | apply Keeps.after (flitUse_keeps ..)
theorem golgerCredits_keeps (p : Nat) (f : Flit) (s : State) : Keeps s (golgerCredits p f s) := by
  unfold golgerCredits
  repeat' first
  | with_reducible first
    | apply Keeps.refl | apply Keeps.after (flitArrives_keeps _ _ _ (fun _ _ _ => ?_) _) | apply Keeps.after (flitUse_keeps ..)
theorem golgerReplay_keeps (p : Nat) (f : Flit) (s : State) : Keeps s (golgerReplay p f s) := by
  unfold golgerReplay
  repeat' first
  | with_reducible first
    | apply Keeps.refl | apply Keeps.after (flitArrives_keeps _ _ _ (fun _ _ _ => ?_) _) | apply Keeps.after (flitUse_keeps ..)
theorem startTraining_keeps (p : Nat) (s : State) : Keeps s (startTraining p s) := by
  unfold startTraining
  repeat' first
  | with_reducible first
    | apply Keeps.refl | apply Keeps.ite | apply Keeps.after (State_setPort_keeps ..)
theorem golgerTrain_keeps (p : Nat) (s : State) : Keeps s (golgerTrain p s) := by
  unfold golgerTrain
  repeat' first
  | with_reducible first
    | apply Keeps.refl | apply Keeps.after (State_setPort_keeps ..) | apply Keeps.after (startTraining_keeps ..)
  | dsimp only
  | split
theorem golgerTrained_keeps (p : Nat) (ok : Bool) (lanes : BitVec 8) (peer : Nat) (s : State) : Keeps s (golgerTrained p ok lanes peer s) := by
  unfold golgerTrained
  repeat' first
  | with_reducible first
    | apply Keeps.refl | apply Keeps.ite | apply Keeps.after (emitFlit_keeps ..) | apply Keeps.after (State_setPort_keeps ..)
    | apply Keeps.after (portCode_keeps ..)
theorem golgerTakeDown_keeps (p : Nat) (s : State) : Keeps s (golgerTakeDown p s) := by
  unfold golgerTakeDown
  repeat' first | with_reducible apply Keeps.refl | with_reducible apply Keeps.after (State_setPort_keeps ..)
theorem sendAbort_keeps (p : Nat) (m : TxMsg) (s : State) : Keeps s (sendAbort p m s) := by
  unfold sendAbort
  repeat' first
  | with_reducible first
    | apply Keeps.refl | apply Keeps.ite | apply Keeps.after (emitFlit_keeps ..) | apply Keeps.after (State_setPort_keeps ..)
theorem abortAll_keeps (p : Nat) (s : State) : Keeps s (abortAll p s) := by
  unfold abortAll
  repeat' first
  | with_reducible first
    | apply Keeps.refl | apply Keeps.after (sendAbort_keeps ..) | apply Keeps.after (foldl_keeps _ (fun _ _ => ?_) _ _)
theorem golgerDrained_keeps (p : Nat) (s : State) : Keeps s (golgerDrained p s) := by
  unfold golgerDrained
  repeat' first
  | with_reducible first
    | apply Keeps.refl | apply Keeps.ite | apply Keeps.after (abandonPort_keeps ..)
    | apply Keeps.after (State_setPort_keeps ..) | apply Keeps.after (abortAll_keeps ..)
    | apply Keeps.after (startTraining_keeps ..)
theorem golgerStall_keeps (p : Nat) (s : State) : Keeps s (golgerStall p s) := by
  unfold golgerStall
  repeat' first
  | with_reducible first
    | apply Keeps.refl | apply Keeps.after (raiseAlarm_keeps ..) | apply Keeps.after (State_setPort_keeps ..)
  | dsimp only
  | (simp only [mk_anew]; with_reducible apply Keeps.after (anew_keeps ..))
  | split
theorem golgerSetId_keeps (v : W32) (s : State) : Keeps s (golgerSetId v s) := by
  unfold golgerSetId
  repeat' first
  | with_reducible first
    | apply Keeps.refl | apply Keeps.ite
  | (simp only [mk_anew]; with_reducible apply Keeps.after (anew_keeps ..))
theorem State_setCtx_keeps (s : State) (c : Nat) (f : Ctx → Ctx) : Keeps s (State.setCtx s c f) := by
  unfold State.setCtx
  repeat' first | with_reducible apply Keeps.refl | (simp only [mk_anew]; with_reducible apply Keeps.after (anew_keeps ..))
theorem State_setGroup_keeps (s : State) (gid : Nat) (f : Group → Group) : Keeps s (State.setGroup s gid f) := by
  unfold State.setGroup
  repeat' first | with_reducible apply Keeps.refl | (simp only [mk_anew]; with_reducible apply Keeps.after (anew_keeps ..))
theorem ctxGranule_keeps (c : Nat) (f : State → Machine.Acc) (h1 : ∀ y0, Keeps y0 (Acc.st (f y0))) (s : State) : Keeps s (Acc.st (ctxGranule c f s)) := by
  unfold ctxGranule
  repeat' first
  | with_reducible first
    | apply Keeps.refl | apply Keeps.after (h1 ..) | apply Keeps.after (State_setCtx_keeps ..) | apply Keeps.stAok
  | dsimp only
  | with_reducible refine Keeps.ofAok (by assumption) ?_
  | split
theorem ctxRead_keeps (c : Nat) (va : Nat) (len : Nat) (s : State) : Keeps s (Res.st (ctxRead c va len s)) := by
  unfold ctxRead
  repeat' first
  | with_reducible first
    | apply Keeps.refl | apply Keeps.after (ctxGranule_keeps _ _ (fun _ => ?_) _) | apply Keeps.after (readGranule_keeps ..)
    | apply Keeps.after (bind_keeps _ _ (fun _ _ => ?_)) | apply Keeps.after (mapM_keeps _ (fun _ _ => ?_) _ _)
    | apply Keeps.stOk | apply Keeps.toRes
theorem ctxWrite_keeps (c : Nat) (va : Nat) (bs : List Byte) (s : State) : Keeps s (Res.st (ctxWrite c va bs s)) := by
  unfold ctxWrite
  repeat' first
  | with_reducible first
    | apply Keeps.refl | apply Keeps.after (ctxGranule_keeps _ _ (fun _ => ?_) _) | apply Keeps.after (writeGranule_keeps ..)
    | apply Keeps.after (bind_keeps _ _ (fun _ _ => ?_)) | apply Keeps.after (mapM_keeps _ (fun _ _ => ?_) _ _)
    | apply Keeps.stOk | apply Keeps.toRes
theorem sendControl_keeps (module : Nat) (h : List Byte) (s : State) : Keeps s (sendControl module h s) := by
  unfold sendControl
  repeat' first | with_reducible apply Keeps.refl | with_reducible apply Keeps.after (golgerSend_keeps ..)
theorem sendNotices_keeps (g : Group) (epoch : Nat) (s : State) : Keeps s (sendNotices g epoch s) := by
  unfold sendNotices
  repeat' first
  | with_reducible first
    | apply Keeps.refl | apply Keeps.after (sendControl_keeps ..)
  | dsimp only
  | with_reducible apply Keeps.after (foldl_keeps _ (fun _ _ => ?_) _ _)
theorem dropStale_keeps (gid : Nat) (epoch : Nat) (s : State) : Keeps s (dropStale gid epoch s) := by
  unfold dropStale
  repeat' first | with_reducible apply Keeps.refl | with_reducible apply Keeps.after (State_setCtx_keeps ..) | split
theorem setEpoch_keeps (gid : Nat) (epoch : Nat) (s : State) : Keeps s (setEpoch gid epoch s) := by
  unfold setEpoch
  repeat' first
  | with_reducible first
    | apply Keeps.refl | apply Keeps.after (State_setGroup_keeps ..) | apply Keeps.after (dropStale_keeps ..)
  | (simp only [mk_anew]; with_reducible apply Keeps.after (anew_keeps ..))
theorem dropColl_keeps (c : Nat) (fate : Fate) (s : State) : Keeps s (dropColl c fate s) := by
  unfold dropColl
  repeat' first
  | with_reducible first
    | apply Keeps.refl | apply Keeps.after (State_setCtx_keeps ..)
  | (simp only [mk_anew]; with_reducible apply Keeps.after (anew_keeps ..))
  | dsimp only
  | split
theorem failColl_keeps (c : Nat) (status : Nat) (cause : Nat) (chunk : Nat) (src : Nat) (s : State) : Keeps s (failColl c status cause chunk src s) := by
  unfold failColl
  repeat' first
  | with_reducible first
    | apply Keeps.refl | apply Keeps.after (dropColl_keeps ..) | apply Keeps.after (sendNotices_keeps ..)
    | apply Keeps.after (setEpoch_keeps ..)
  | dsimp only
  | split
theorem adoptEpoch_keeps (gid : Nat) (epoch : Nat) (s : State) : Keeps s (adoptEpoch gid epoch s) := by
  unfold adoptEpoch
  repeat' first
  | with_reducible first
    | apply Keeps.refl | apply Keeps.ite | apply Keeps.after (setEpoch_keeps ..) | apply Keeps.after (dropColl_keeps ..)
  | dsimp only
  | split
theorem countHostFault_keeps (recs : List PostRec) (s : State) : Keeps s (countHostFault recs s) := by
  unfold countHostFault
  repeat' first
  | with_reducible first
    | apply Keeps.refl | apply Keeps.after (State_setQ_keeps ..) | apply Keeps.after (foldl_keeps _ (fun _ _ => ?_) _ _)
  | split
theorem countCtxFault_keeps (x0 : Ctx) (recs : List PostRec) (s : State) : Keeps s (countCtxFault x0 recs s) := by
  unfold countCtxFault
  repeat' first
  | with_reducible first
    | apply Keeps.refl | apply Keeps.ite | apply Keeps.after (countHostFault_keeps ..)
  | (simp only [mk_anew]; with_reducible apply Keeps.after (anew_keeps ..))
theorem doomRun_keeps (c : Nat) (status : Nat) (s : State) : Keeps s (doomRun c status s) := by
  unfold doomRun
  repeat' first
  | with_reducible first
    | apply Keeps.refl | apply Keeps.ite | apply Keeps.after (State_setCtx_keeps ..)
  | (simp only [mk_anew]; with_reducible apply Keeps.after (anew_keeps ..))
theorem mortarFault_keeps (c : Nat) (cls : Nat) (va : Nat) (kind : AccKind) (chunk : Nat) (src : Nat) (recs : List PostRec) (s : State) : Keeps s (mortarFault c cls va kind chunk src recs s) := by
  unfold mortarFault
  repeat' first
  | with_reducible first
    | apply Keeps.refl | apply Keeps.ite | apply Keeps.after (countCtxFault_keeps ..) | apply Keeps.after (postFault_keeps ..)
    | apply Keeps.after (State_setCtx_keeps ..) | apply Keeps.after (failColl_keeps ..) | apply Keeps.after (doomRun_keeps ..)
theorem ctxGo_keeps {α : Type} (c : Nat) (key : Nat) (chunk : Nat) (src : Nat) (f : State → Res α) (h1 : ∀ y0, Keeps y0 (Res.st (f y0))) (k : α → State → State) (h2 : ∀ y0 y1, Keeps y1 (k y0 y1)) (s : State) : Keeps s (ctxGo c key chunk src f k s) := by
  unfold ctxGo
  repeat' first
  | with_reducible first
    | apply Keeps.refl | apply Keeps.after (h1 ..) | apply Keeps.after (h2 ..) | apply Keeps.after (State_setCtx_keeps ..)
    | apply Keeps.after (mortarFault_keeps ..) | apply Keeps.after (failColl_keeps ..)
  | dsimp only
  | with_reducible first
    | refine Keeps.ofOk (by assumption) ?_ | refine Keeps.ofFault (by assumption) ?_ | refine Keeps.ofBad (by assumption) ?_
  | split
theorem State_setRunSett_keeps (s : State) (client : Nat) (run : Nat) (l : Nat) (f : Sett → Sett) : Keeps s (State.setRunSett s client run l f) := by
  unfold State.setRunSett
  repeat' first
  | with_reducible first
    | apply Keeps.refl | apply Keeps.after (State_setSett_keeps ..)
  | (simp only [mk_anew]; with_reducible apply Keeps.after (anew_keeps ..))
  | dsimp only
  | split
theorem notifyPoster_keeps (r : PostRec) (f : Fate) (s : State) : Keeps s (notifyPoster r f s) := by
  unfold notifyPoster
  repeat' first
  | with_reducible first
    | apply Keeps.refl | apply Keeps.after (State_setRunSett_keeps ..) | apply Keeps.after (postComp_keeps ..)
  | dsimp only
  | split
theorem endRecord_keeps (c : Nat) (r : PostRec) (f : Fate) (s : State) : Keeps s (Res.st (endRecord c r f s)) := by
  unfold endRecord
  repeat' first
  | with_reducible first
    | apply Keeps.refl | apply Keeps.after (ctxWrite_keeps ..) | apply Keeps.after (notifyPoster_keeps ..)
    | apply Keeps.after (bind_keeps _ _ (fun _ _ => ?_)) | apply Keeps.stOk | apply Keeps.iteRes
theorem endRecords_keeps (c : Nat) (x1 : Nat) (x2 : State) : Keeps x2 (endRecords c x1 x2) := by
  induction x1 generalizing x2 with
  | zero =>
    unfold endRecords
    repeat' first | with_reducible apply Keeps.refl
  | succ n ih =>
    unfold endRecords
    repeat' first
    | with_reducible first
      | apply Keeps.refl | apply Keeps.ite | apply Keeps.after (ih ..) | apply Keeps.after (endRecord_keeps ..)
      | apply Keeps.after (State_setCtx_keeps ..) | apply Keeps.after (notifyPoster_keeps ..)
      | apply Keeps.after (mortarFault_keeps ..)
    | dsimp only
    | with_reducible first
      | refine Keeps.ofOk (by assumption) ?_ | refine Keeps.ofFault (by assumption) ?_ | refine Keeps.ofBad (by assumption) ?_
    | split
theorem readSource_keeps (c : Nat) (g : Group) (r : PostRec) (lo : Nat) (hi : Nat) (s : State) : Keeps s (Res.st (readSource c g r lo hi s)) := by
  unfold readSource
  repeat' first
  | with_reducible first
    | apply Keeps.refl | apply Keeps.after (ctxRead_keeps ..) | apply Keeps.after (bind_keeps _ _ (fun _ _ => ?_))
    | apply Keeps.stOk | apply Keeps.iteRes
theorem sumLocals_keeps (c : Nat) (g : Group) (lo : Nat) (hi : Nat) (x4 : List PostRec) (x5 : Option (List Nat)) (x6 : List Nat) (x7 : List PostRec) (x8 : State) : Keeps x8 (Res.st (sumLocals c g lo hi x4 x5 x6 x7 x8)) := by
  induction x4 generalizing x5 x6 x7 x8 with
  | nil => exact Keeps.refl _
  | cons r t ih =>
    unfold sumLocals
    refine Keeps.trans ?_ (bind_keeps _ _ (fun _ _ => ?_))
    · exact readSource_keeps ..
    · split
      · exact ih ..
      · exact ih ..
theorem settleElems_keeps (x0 : List RedElem) (x1 : State) : Keeps x1 ((settleElems x0 x1).2) := by
  induction x0 generalizing x1 with
  | nil =>
    unfold settleElems
    repeat' first | with_reducible apply Keeps.refl
  | cons a t ih =>
    unfold settleElems
    repeat' first
    | with_reducible first
      | apply Keeps.refl | apply ih | apply Keeps.after (ih ..)
    | (simp only [mk_anew]; with_reducible apply Keeps.after (anew_keeps ..))
    | with_reducible apply Keeps.iteSnd
theorem writeResult_keeps (c : Nat) (g : Group) (lo : Nat) (ys : List (Nat × Fl)) (r : PostRec) (s : State) : Keeps s (Res.st (writeResult c g lo ys r s)) := by
  unfold writeResult
  repeat' first
  | with_reducible first
    | apply Keeps.refl | apply Keeps.after (ctxWrite_keeps ..) | apply Keeps.after (bind_keeps _ _ (fun _ _ => ?_))
    | apply Keeps.stOk
theorem State_setColl_keeps (s : State) (c : Nat) (f : Coll → Coll) : Keeps s (State.setColl s c f) := by
  unfold State.setColl
  repeat' first | with_reducible apply Keeps.refl | with_reducible apply Keeps.after (State_setCtx_keeps ..)
theorem giveResults_keeps (c : Nat) (g : Group) (k : Coll) (ch : Nat) (zs : List RedElem) (rs : List PostRec) (overs : List Nat) (s : State) : Keeps s (Res.st (giveResults c g k ch zs rs overs s)) := by
  unfold giveResults
  repeat' first
  | with_reducible first
    | apply Keeps.refl | apply Keeps.after (settleElems_keeps ..) | apply Keeps.after (writeResult_keeps ..)
    | apply Keeps.after (bind_keeps _ _ (fun _ _ => ?_)) | apply Keeps.after (mapM_keeps _ (fun _ _ => ?_) _ _)
    | apply Keeps.stOk
  | dsimp only
theorem deliverReduced_keeps (c : Nat) (g : Group) (k : Coll) (ch : Nat) (xs : List Nat) (rs : List PostRec) (overs : List Nat) (s : State) : Keeps s (Res.st (deliverReduced c g k ch xs rs overs s)) := by
  unfold deliverReduced
  repeat' first | with_reducible apply Keeps.refl | with_reducible apply Keeps.after (giveResults_keeps ..)
theorem deliverBack_keeps (c : Nat) (g : Group) (k : Coll) (ch : Nat) (xs : List Nat) (s : State) : Keeps s (Res.st (deliverBack c g k ch xs s)) := by
  unfold deliverBack
  repeat' first | with_reducible apply Keeps.refl | with_reducible apply Keeps.after (giveResults_keeps ..)
theorem joinChain_keeps (c : Nat) (g : Group) (k : Coll) (ch : Nat) (acc : Option (List Nat)) (s : State) : Keeps s (Res.st (joinChain c g k ch acc s)) := by
  unfold joinChain
  repeat' first
  | with_reducible first
    | apply Keeps.refl | apply Keeps.after (sumLocals_keeps ..) | apply Keeps.stOk | apply Keeps.iteRes
theorem consumeUp_keeps (c : Nat) (g : Group) (k : Coll) (ch : Nat) (xs : List Nat) (s : State) : Keeps s (Res.st (consumeUp c g k ch xs s)) := by
  unfold consumeUp
  repeat' first
  | with_reducible first
    | apply Keeps.refl | apply Keeps.after (joinChain_keeps ..) | apply Keeps.after (deliverReduced_keeps ..)
    | apply Keeps.after (bind_keeps _ _ (fun _ _ => ?_)) | apply Keeps.stOk | apply Keeps.iteRes
theorem copyIn_keeps (c : Nat) (r : PostRec) (off : Nat) (len : Nat) (s : State) : Keeps s (Res.st (copyIn c r off len s)) := by
  unfold copyIn
  repeat' first | with_reducible apply Keeps.refl | with_reducible apply Keeps.after (ctxRead_keeps ..)
theorem copyOut_keeps (c : Nat) (r : PostRec) (off : Nat) (bs : List Byte) (s : State) : Keeps s (Res.st (copyOut c r off bs s)) := by
  unfold copyOut
  repeat' first | with_reducible apply Keeps.refl | with_reducible apply Keeps.after (ctxWrite_keeps ..)
theorem writeBlocks_keeps (c : Nat) (k : Coll) (src : Nat) (dst : Nat) (ch : Nat) (bs : List Byte) (s : State) : Keeps s (Res.st (writeBlocks c k src dst ch bs s)) := by
  unfold writeBlocks
  repeat' first
  | with_reducible first
    | apply Keeps.refl | apply Keeps.after (copyOut_keeps ..) | apply Keeps.after (bind_keeps _ _ (fun _ _ => ?_))
    | apply Keeps.after (mapM_keeps _ (fun _ _ => ?_) _ _) | apply Keeps.stOk
theorem formChunk_keeps (c : Nat) (g : Group) (k : Coll) (src : Nat) (dst : Nat) (ch : Nat) (s : State) : Keeps s (Res.st (formChunk c g k src dst ch s)) := by
  unfold formChunk
  repeat' first
  | with_reducible first
    | apply Keeps.refl | apply Keeps.after (joinChain_keeps ..) | apply Keeps.after (copyIn_keeps ..)
    | apply Keeps.after (bind_keeps _ _ (fun _ _ => ?_)) | apply Keeps.stOk | apply Keeps.iteRes
  | split
theorem hereTask_keeps (c : Nat) (g : Group) (k : Coll) (src : Nat) (dst : Nat) (ch : Nat) (s : State) : Keeps s (Res.st (hereTask c g k src dst ch s)) := by
  unfold hereTask
  repeat' first
  | with_reducible first
    | apply Keeps.refl | apply Keeps.after (joinChain_keeps ..) | apply Keeps.after (deliverReduced_keeps ..)
    | apply Keeps.after (copyIn_keeps ..) | apply Keeps.after (writeBlocks_keeps ..)
    | apply Keeps.after (bind_keeps _ _ (fun _ _ => ?_)) | apply Keeps.stOk | apply Keeps.iteRes
  | split
theorem consumeChunk_keeps (c : Nat) (g : Group) (k : Coll) (key : Nat × Nat × Nat) (payload : List Byte) (s : State) : Keeps s (Res.st (consumeChunk c g k key payload s)) := by
  unfold consumeChunk
  repeat' first
  | with_reducible first
    | apply Keeps.refl | apply Keeps.after (consumeUp_keeps ..) | apply Keeps.after (deliverBack_keeps ..)
    | apply Keeps.after (writeBlocks_keeps ..) | apply Keeps.after (bind_keeps _ _ (fun _ _ => ?_)) | apply Keeps.stOk
    | apply Keeps.iteRes
theorem gatherGo_keeps (c : Nat) (me : Nat) (g : Group) (x3 : Nat) (x4 : State) : Keeps x4 (gatherGo c me g x3 x4) := by
  induction x3 generalizing x4 with
  | zero =>
    unfold gatherGo
    repeat' first | with_reducible apply Keeps.refl
  | succ n ih =>
    unfold gatherGo
    repeat' first
    | with_reducible first
      | apply Keeps.refl | apply Keeps.ite | apply Keeps.after (ih ..) | apply Keeps.after (State_setCtx_keeps ..)
    | dsimp only
    | split
theorem launch_keeps (c : Nat) (g : Group) (k : Coll) (s : State) : Keeps s (launch c g k s) := by
  unfold launch
  repeat' first
  | with_reducible first
    | apply Keeps.refl | apply Keeps.ite | apply Keeps.after (State_setCtx_keeps ..)
    | apply Keeps.after (State_setGroup_keeps ..) | apply Keeps.after (failColl_keeps ..)
    | apply Keeps.after (State_setColl_keeps ..)
theorem sendAck_keeps (module : Nat) (h : List Byte) (n : Nat) (s : State) : Keeps s (sendAck module h n s) := by
  unfold sendAck
  repeat' first | with_reducible apply Keeps.refl | with_reducible apply Keeps.after (sendControl_keeps ..)
theorem restartTimer_keeps (h : List Byte) (s : State) : Keeps s (restartTimer h s) := by
  unfold restartTimer
  repeat' first
  | with_reducible first
    | apply Keeps.refl | apply Keeps.after (State_setCtx_keeps ..)
  | split
theorem workOnce_keeps (c : Nat) (s : State) : Keeps s ((workOnce c s).getD s) := by
  unfold workOnce
  repeat' first
  | with_reducible first
    | apply Keeps.refl | apply Keeps.after (dropColl_keeps ..) | apply Keeps.after (gatherGo_keeps ..)
    | apply Keeps.after (launch_keeps ..) | apply Keeps.after (failColl_keeps ..)
    | apply Keeps.after (ctxGo_keeps _ _ _ _ _ (fun _ => ?_) _ (fun _ _ => ?_) _) | apply Keeps.after (consumeChunk_keeps ..)
    | apply Keeps.after (sendAck_keeps ..) | apply Keeps.after (State_setCtx_keeps ..)
    | apply Keeps.after (State_setColl_keeps ..) | apply Keeps.after (hereTask_keeps ..) | apply Keeps.stSome
    | apply Keeps.stNone | apply Keeps.iteGet
  | dsimp only
  | split
theorem workOnce_keepsK {c : Nat} {s : State} {z} (e : workOnce c s = some z) : Keeps s (z) := by
  have := workOnce_keeps c s; rw [e] at this; exact this
theorem resendSlot_keeps (c : Nat) (slot : Nat) (cause : Nat) (s : State) : Keeps s (resendSlot c slot cause s) := by
  unfold resendSlot
  repeat' first
  | with_reducible first
    | apply Keeps.refl | apply Keeps.ite | apply Keeps.after (failColl_keeps ..) | apply Keeps.after (golgerSend_keeps ..)
    | apply Keeps.after (State_setCtx_keeps ..)
  | split
theorem settleLost_keeps (x0 : Nat) (x1 : State) : Keeps x1 (settleLost x0 x1) := by
  induction x0 generalizing x1 with
  | zero =>
    unfold settleLost
    repeat' first | with_reducible apply Keeps.refl
  | succ n ih =>
    unfold settleLost
    repeat' first
    | with_reducible first
      | apply Keeps.refl | apply Keeps.after (ih ..) | apply Keeps.after (resendSlot_keeps ..)
    | (simp only [mk_anew]; with_reducible apply Keeps.after (anew_keeps ..))
    | dsimp only
    | split
theorem workCtx_keeps (c : Nat) (x1 : Nat) (x2 : State) : Keeps x2 (workCtx c x1 x2) := by
  induction x1 generalizing x2 with
  | zero =>
    unfold workCtx
    repeat' first | with_reducible apply Keeps.refl
  | succ n ih =>
    unfold workCtx
    repeat' first
    | with_reducible first
      | apply Keeps.refl | apply Keeps.after (ih ..) | refine Keeps.trans ?_ (workOnce_keepsK (by assumption))
      | apply Keeps.after (settleLost_keeps ..)
    | split
theorem mortarWork_keeps (c : Nat) (s : State) : Keeps s (mortarWork c s) := by
  unfold mortarWork
  repeat' first
  | with_reducible first
    | apply Keeps.refl | apply Keeps.after (settleLost_keeps ..) | apply Keeps.after (workCtx_keeps ..)
    | apply Keeps.after (endRecords_keeps ..)
theorem bindCtx_keeps (c : Nat) (client : Nat) (runSeq : Nat) (stageVa : Nat) (host : Bool) (s : State) : Keeps s (bindCtx c client runSeq stageVa host s) := by
  unfold bindCtx
  repeat' first | with_reducible apply Keeps.refl | with_reducible apply Keeps.after (State_setCtx_keeps ..)
theorem groupCtx_keeps (g : Group) (s : State) : Keeps s (groupCtx g s).2 := by
  unfold groupCtx
  repeat' first
  | with_reducible first
    | apply Keeps.refl | apply Keeps.after (State_setGroup_keeps ..) | apply Keeps.after (bindCtx_keeps ..)
  | dsimp only
  | split
theorem looseWord_keeps (ag : Agent) (r : PostRec) (f : Fate) (s : State) : Keeps s (Res.st (looseWord ag r f s)) := by
  unfold looseWord
  repeat' first
  | with_reducible first
    | apply Keeps.refl | apply Keeps.after (writeRange_keeps ..) | apply Keeps.stOk | apply Keeps.stFault | apply Keeps.iteRes
    | refine Keeps.ofRok (by assumption) ?_ | refine Keeps.ofRfault (by assumption) ?_ | refine Keeps.ofRbad (by assumption) ?_
  | split
theorem endLoose_keeps (ag : Agent) (r : PostRec) (f : Fate) (s : State) : Keeps s (Res.st (endLoose ag r f s)) := by
  unfold endLoose
  repeat' first
  | with_reducible first
    | apply Keeps.refl | apply Keeps.after (looseWord_keeps ..) | apply Keeps.after (notifyPoster_keeps ..)
    | apply Keeps.after (bind_keeps _ _ (fun _ _ => ?_)) | apply Keeps.stOk
theorem postRecord_keeps (ag : Agent) (g : Group) (r : PostRec) (s : State) : Keeps s (postSt (postRecord ag g r s)) := by
  unfold postRecord
  repeat' first
  | with_reducible first
    | apply Keeps.refl | apply Keeps.after (groupCtx_keeps ..) | apply Keeps.after (endLoose_keeps ..)
    | apply Keeps.after (mortarWork_keeps ..) | apply Keeps.after (State_setCtx_keeps ..) | apply Keeps.stAcc
    | apply Keeps.stEnded | apply Keeps.stFull | apply Keeps.itePost
  | dsimp only
  | split
theorem effCollPost_keeps (i : Nat) (f : LayT) (s : State) : Keeps s (Eff.st (effCollPost i f s)) := by
  unfold effCollPost
  repeat' first
  | with_reducible first
    | apply Keeps.refl | apply Keeps.after (endLoose_keeps ..) | apply Keeps.after (postRecord_keeps ..)
    | apply Keeps.after (State_flag_keeps ..) | apply Keeps.after (Tens_readBytes_keeps ..) | apply Keeps.stDone
    | apply Keeps.stWait | apply Keeps.stEfault | apply Keeps.stEbad | apply Keeps.toEff | apply Keeps.iteEff
  | dsimp only
  | with_reducible first
    | refine Keeps.ofOk (by assumption) ?_ | refine Keeps.ofFault (by assumption) ?_ | refine Keeps.ofBad (by assumption) ?_
    | refine Keeps.ofAcc (by assumption) ?_ | refine Keeps.ofEnded (by assumption) ?_ | refine Keeps.ofFull (by assumption) ?_
  | split
theorem collStart_keeps (c : Nat) (s : State) : Keeps s (collStart c s) := by
  unfold collStart
  repeat' first
  | with_reducible first
    | apply Keeps.refl | apply Keeps.ite | apply Keeps.after (mortarWork_keeps ..) | apply Keeps.after (State_setCtx_keeps ..)
  | split
theorem stage_keeps (c : Nat) (k : Nat) (payload : List Byte) (s : State) : Keeps s (stage c k payload s) := by
  unfold stage
  repeat' first
  | with_reducible first
    | apply Keeps.refl | apply Keeps.after (writeRange_keeps ..) | refine Keeps.ofAok (by assumption) ?_
    | refine Keeps.ofAbad (by assumption) ?_
  | split
theorem sendData_keeps (c : Nat) (slot : Nat) (module : Nat) (src : Nat) (dst : Nat) (ch : Nat) (payload : List Byte) (k : Coll) (g : Group) (s : State) : Keeps s (sendData c slot module src dst ch payload k g s) := by
  unfold sendData
  repeat' first
  | with_reducible first
    | apply Keeps.refl | apply Keeps.after (State_setCtx_keeps ..) | apply Keeps.after (stage_keeps ..)
    | apply Keeps.after (settleLost_keeps ..) | apply Keeps.after (golgerSend_keeps ..)
theorem chunkSend_keeps (c : Nat) (s : State) : Keeps s (chunkSend c s) := by
  unfold chunkSend
  repeat' first
  | with_reducible first
    | apply Keeps.refl | apply Keeps.ite | apply Keeps.after (mortarWork_keeps ..) | apply Keeps.after (sendData_keeps ..)
    | apply Keeps.after (State_setColl_keeps ..) | apply Keeps.after (ctxGo_keeps _ _ _ _ _ (fun _ => ?_) _ (fun _ _ => ?_) _)
    | apply Keeps.after (formChunk_keeps ..)
  | dsimp only
  | split
theorem takeInbox_keeps (source : Nat) (m : Chunk) (s : State) : Keeps s (takeInbox source m s) := by
  unfold takeInbox
  repeat' first | with_reducible apply Keeps.refl | (simp only [mk_anew]; with_reducible apply Keeps.after (anew_keeps ..))
theorem dataChunk_keeps (source : Nat) (m : Chunk) (s0 : State) : Keeps s0 (dataChunk source m s0) := by
  unfold dataChunk
  repeat' first
  | with_reducible first
    | apply Keeps.refl | apply Keeps.ite | apply Keeps.after (takeInbox_keeps ..) | apply Keeps.after (settleLost_keeps ..)
    | apply Keeps.after (restartTimer_keeps ..) | apply Keeps.after (sendControl_keeps ..) | apply Keeps.after (adoptEpoch_keeps ..) | apply Keeps.after (sendAck_keeps ..)
    | apply Keeps.after (mortarWork_keeps ..) | apply Keeps.after (State_setCtx_keeps ..) | apply Keeps.after (stage_keeps ..)
  | dsimp only
  | split
theorem ackChunk_keeps (source : Nat) (m : Chunk) (s0 : State) : Keeps s0 (ackChunk source m s0) := by
  unfold ackChunk
  repeat' first
  | with_reducible first
    | apply Keeps.refl | apply Keeps.ite | apply Keeps.after (takeInbox_keeps ..) | apply Keeps.after (State_setCtx_keeps ..)
    | apply Keeps.after (restartTimer_keeps ..)
  | dsimp only
  | split
theorem refetchChunk_keeps (source : Nat) (m : Chunk) (s0 : State) : Keeps s0 (refetchChunk source m s0) := by
  unfold refetchChunk
  repeat' first
  | with_reducible first
    | apply Keeps.refl | apply Keeps.ite | apply Keeps.after (takeInbox_keeps ..) | apply Keeps.after (mortarWork_keeps ..)
    | apply Keeps.after (resendSlot_keeps ..)
  | split
theorem noticeChunk_keeps (source : Nat) (m : Chunk) (s0 : State) : Keeps s0 (noticeChunk source m s0) := by
  unfold noticeChunk
  repeat' first
  | with_reducible first
    | apply Keeps.refl | apply Keeps.ite | apply Keeps.after (takeInbox_keeps ..) | apply Keeps.after (adoptEpoch_keeps ..)
    | apply Keeps.after (mortarWork_keeps ..)
  | dsimp only
  | split
theorem ackLimit_keeps (c : Nat) (slot : Nat) (s : State) : Keeps s (ackLimit c slot s) := by
  unfold ackLimit
  repeat' first
  | with_reducible first
    | apply Keeps.refl | apply Keeps.ite | apply Keeps.after (mortarWork_keeps ..) | apply Keeps.after (resendSlot_keeps ..)
theorem groupTimeout_keeps (c : Nat) (s : State) : Keeps s (groupTimeout c s) := by
  unfold groupTimeout
  repeat' first
  | with_reducible first
    | apply Keeps.refl | apply Keeps.ite | apply Keeps.after (mortarWork_keeps ..) | apply Keeps.after (failColl_keeps ..)
theorem collComplete_keeps (c : Nat) (s : State) : Keeps s (collComplete c s) := by
  unfold collComplete
  repeat' first
  | with_reducible first
    | apply Keeps.refl | apply Keeps.ite | apply Keeps.after (State_setGroup_keeps ..)
    | apply Keeps.after (State_setCtx_keeps ..) | apply Keeps.after (endRecords_keeps ..)
  | dsimp only
  | split
theorem advanceGroups_keeps (p : Group → Bool) (s : State) : Keeps s (advanceGroups p s) := by
  unfold advanceGroups
  repeat' first
  | with_reducible first
    | apply Keeps.refl | apply Keeps.after (sendNotices_keeps ..) | apply Keeps.after (setEpoch_keeps ..)
    | apply Keeps.after (foldl_keeps _ (fun _ _ => ?_) _ _)
theorem ctxTakeDown_keeps (c : Nat) (s : State) : Keeps s (ctxTakeDown c s) := by
  unfold ctxTakeDown
  repeat' first
  | with_reducible first
    | apply Keeps.refl | apply Keeps.ite | apply Keeps.after (State_setCtx_keeps ..) | apply Keeps.after (dropColl_keeps ..)
    | apply Keeps.after (advanceGroups_keeps ..) | apply Keeps.after (endRecords_keeps ..)
    | apply Keeps.after (settleLost_keeps ..)
  | (simp only [mk_anew]; with_reducible apply Keeps.after (anew_keeps ..))
theorem ctxReturn_keeps (c : Nat) (s : State) : Keeps s (ctxReturn c s) := by
  unfold ctxReturn
  repeat' first | with_reducible apply Keeps.refl | with_reducible apply Keeps.after (State_setCtx_keeps ..)
theorem freeOneCtx_keeps (c : Nat) (s : State) : Keeps s (freeOneCtx c s) := by
  unfold freeOneCtx
  repeat' first | with_reducible apply Keeps.refl | with_reducible apply Keeps.after (State_setCtx_keeps ..)
theorem releaseGroups_keeps (pg : Group → Bool) (pc : Ctx → Bool) (abandon : Bool) (s : State) : Keeps s (releaseGroups pg pc abandon s) := by
  unfold releaseGroups
  repeat' first
  | with_reducible first
    | apply Keeps.refl | apply Keeps.ite | apply Keeps.after (freeStatus_keeps ..) | apply Keeps.after (State_setCtx_keeps ..)
    | apply Keeps.after (dropColl_keeps ..) | apply Keeps.after (advanceGroups_keeps ..)
    | apply Keeps.after (freeOneCtx_keeps ..) | apply Keeps.after (settleLost_keeps ..)
  | (simp only [mk_anew]; with_reducible apply Keeps.after (anew_keeps ..))
  | with_reducible apply Keeps.after (foldl_keeps _ (fun _ _ => ?_) _ _)
  | split
theorem releaseContexts_keeps (s : State) (r : Run) (abandon : Bool) : Keeps s (releaseContexts s r abandon) := by
  unfold releaseContexts
  repeat' first | with_reducible apply Keeps.refl | with_reducible apply Keeps.after (releaseGroups_keeps ..)
theorem wakeDoom_keeps (c : Nat) (s : State) : Keeps s (wakeDoom c s) := by
  unfold wakeDoom
  repeat' first
  | with_reducible first
    | apply Keeps.refl | apply Keeps.after (doomRun_keeps ..) | apply Keeps.after (State_setCtx_keeps ..)
  | split
theorem freezeContexts_keeps (r : Run) (on : Bool) (s : State) : Keeps s (freezeContexts r on s) := by
  unfold freezeContexts
  repeat' first
  | with_reducible first
    | apply Keeps.refl | apply Keeps.ite | apply Keeps.after (State_setCtx_keeps ..) | apply Keeps.after (wakeDoom_keeps ..)
    | apply Keeps.after (mortarWork_keeps ..)
  | dsimp only
  | with_reducible apply Keeps.after (foldl_keeps _ (fun _ _ => ?_) _ _)
theorem reapCtx_keeps (c : Nat) (s : State) : Keeps s (reapCtx c s) := by
  unfold reapCtx
  repeat' first
  | with_reducible first
    | apply Keeps.refl | apply Keeps.ite | apply Keeps.after (freeOneCtx_keeps ..)
theorem resumeCtx_keeps (c : Nat) (id : Nat) (s : State) : Keeps s (resumeCtx c id s) := by
  unfold resumeCtx
  repeat' first
  | with_reducible first
    | apply Keeps.refl | apply Keeps.ite | apply Keeps.after (reapCtx_keeps ..) | apply Keeps.after (mortarWork_keeps ..)
    | apply Keeps.after (State_setCtx_keeps ..)
theorem failCtx_keeps (c : Nat) (id : Nat) (s : State) : Keeps s (failCtx c id s) := by
  unfold failCtx
  repeat' first
  | with_reducible first
    | apply Keeps.refl | apply Keeps.ite | apply Keeps.after (State_setCtx_keeps ..) | apply Keeps.after (mortarWork_keeps ..)
    | apply Keeps.after (failColl_keeps ..) | apply Keeps.after (reapCtx_keeps ..) | apply Keeps.after (notifyPoster_keeps ..)
  | dsimp only
  | split
theorem enterResidency_keeps (s : State) (r : Run) : Keeps s (enterResidency s r) := by
  unfold enterResidency
  repeat' first
  | with_reducible apply Keeps.refl
  | (simp only [mk_anew]; with_reducible apply Keeps.after (anew_keeps ..))
  | dsimp only
  | with_reducible apply Keeps.after (foldl_keeps _ (fun _ _ => ?_) _ _)
theorem unlockLines_keeps (s : State) : Keeps s (unlockLines s) := by
  unfold unlockLines
  repeat' first
  | with_reducible first
    | apply Keeps.refl | apply Keeps.after (State_setLine_keeps ..) | apply Keeps.after (foldl_keeps _ (fun _ _ => ?_) _ _)
theorem clearRun_keeps (s : State) (r : Run) (status : Nat) (abandon : Bool) : Keeps s (clearRun s r status abandon) := by
  unfold clearRun
  extract_lets idx s1 m s2 s3 s4 s5
  have h1 : Keeps s s1 := foldl_keeps _ (fun _ _ => State_setSett_keeps ..) _ _
  have h2 : Keeps s1 s2 := ⟨rfl, id, fun h => ⟨h.1, h.2, h.3, h.4, h.5, h.6, h.7, h.8⟩, id⟩
  have h3 : Keeps s2 s3 := State_setClient_keeps ..
  have h4 : Keeps s3 s4 := foldl_keeps _ (fun _ _ => State_setCairn_keeps ..) _ _
  have h5 : Keeps s4 s5 := foldl_keeps _ (fun _ _ => State_setDie_keeps ..) _ _
  exact (((h1.trans h2).trans h3).trans (h4.trans h5)).trans ((unlockLines_keeps ..).trans (releaseContexts_keeps ..))
theorem settleDeficit_keeps (c : Nat) (s : State) : Keeps s (settleDeficit c s) := by
  unfold settleDeficit
  repeat' first
  | with_reducible first
    | apply Keeps.refl | apply Keeps.ite | apply Keeps.after (State_setCl_keeps ..)
theorem freeArray_keeps (s : State) (r : Run) : Keeps s (freeArray s r) := by
  unfold freeArray
  repeat' first
  | with_reducible first
    | apply Keeps.refl | apply Keeps.after (State_setCl_keeps ..) | apply Keeps.after (settleDeficit_keeps ..)
  | (simp only [mk_anew]; with_reducible apply Keeps.after (anew_keeps ..))
theorem endRunWith_keeps (s : State) (status : Nat) (stall : Nat) : Keeps s (endRunWith s status stall) := by
  unfold endRunWith
  repeat' first
  | with_reducible first
    | apply Keeps.refl | apply Keeps.ite | apply Keeps.after (clearRun_keeps ..) | apply Keeps.after (enterResidency_keeps ..)
    | apply Keeps.after (postComp_keeps ..) | apply Keeps.after (freeArray_keeps ..)
  | (simp only [mk_anew]; with_reducible apply Keeps.after (anew_keeps ..))
  | dsimp only
  | split
theorem endRun_keeps (s : State) (status : Nat) : Keeps s (endRun s status) := by
  unfold endRun
  repeat' first | with_reducible apply Keeps.refl | with_reducible apply Keeps.after (endRunWith_keeps ..)
theorem endSequence_keeps (i : Nat) (status : Nat) (s : State) : Keeps s (endSequence i status s) := by
  unfold endSequence
  repeat' first | with_reducible apply Keeps.refl | with_reducible apply Keeps.after (State_setSett_keeps ..)
theorem settFault_keeps (fin : Ender) (h1 : ∀ y0 y1 y2, Keeps y2 (fin y0 y1 y2)) (s : State) (i : Nat) (u : UnitId) (va : Nat) (cls : Nat) (kind : AccKind) : Keeps s (settFault fin s i u va cls kind) := by
  unfold settFault
  repeat' first
  | with_reducible first
    | apply Keeps.refl | apply Keeps.ite | apply Keeps.after (h1 ..) | apply Keeps.after (countRunFault_keeps ..)
    | apply Keeps.after (postFault_keeps ..)
  | dsimp only
  | split
theorem settleDoomBy_keeps (fin : Ender) (h1 : ∀ y0 y1 y2, Keeps y2 (fin y0 y1 y2)) (s : State) : Keeps s (settleDoomBy fin s) := by
  unfold settleDoomBy
  repeat' first
  | with_reducible first
    | apply Keeps.refl | apply Keeps.after (h1 ..)
  | (simp only [mk_anew]; with_reducible apply Keeps.after (anew_keeps ..))
  | dsimp only
  | split
theorem vecEff_keeps (i : Nat) (g : Sett → Sett) (s : State) : Keeps s (Eff.st (vecEff i g s)) := by
  unfold vecEff
  repeat' first
  | with_reducible first
    | apply Keeps.refl | apply Keeps.after (State_setSett_keeps ..) | apply Keeps.stDone
theorem unitEffect_keeps (i : Nat) (seq : Nat) (prog : Nat) (aux : List Nat) (ins : Instr) (s : State) : Keeps s (Eff.st (unitEffect i seq prog aux ins s)) := by
  unfold unitEffect
  repeat' first
  | with_reducible first
    | apply Keeps.refl | apply Keeps.after (effStrLoad_keeps ..) | apply Keeps.after (effStrStore_keeps ..)
    | apply Keeps.after (effStrGather_keeps ..) | apply Keeps.after (effStrScan_keeps ..)
    | apply Keeps.after (effStrPref_keeps ..) | apply Keeps.after (effStrCopy_keeps ..)
    | apply Keeps.after (effMmaWld_keeps ..) | apply Keeps.after (effMma_keeps ..) | apply Keeps.after (effLdgAnchor_keeps ..)
    | apply Keeps.after (effLdgCvt_keeps ..) | apply Keeps.after (vecEff_keeps ..) | apply Keeps.after (effVecLd_keeps ..)
    | apply Keeps.after (effVecSt_keeps ..) | apply Keeps.after (effFn_keeps ..) | apply Keeps.after (effRow_keeps ..)
    | apply Keeps.after (effWinConv_keeps ..) | apply Keeps.after (effWinPool_keeps ..) | apply Keeps.after (effFft_keeps ..)
    | apply Keeps.after (effFftCmul_keeps ..) | apply Keeps.after (effSortPairs_keeps ..)
    | apply Keeps.after (effSortTopk_keeps ..) | apply Keeps.after (effSortMerge_keeps ..)
    | apply Keeps.after (effAttnStep_keeps ..) | apply Keeps.after (effAttnMerge_keeps ..)
    | apply Keeps.after (effKvScatter_keeps ..) | apply Keeps.after (effKvLoad_keeps ..)
    | apply Keeps.after (effKvSumm_keeps ..) | apply Keeps.after (effCairnLookup_keeps ..)
    | apply Keeps.after (effCairnFill_keeps ..) | apply Keeps.after (effCairnFlip_keeps ..)
    | apply Keeps.after (effHaloPut_keeps ..) | apply Keeps.after (effHaloTake_keeps ..)
    | apply Keeps.after (effHaloSpill_keeps ..) | apply Keeps.after (effHaloFill_keeps ..)
    | apply Keeps.after (effWaitge_keeps ..) | apply Keeps.after (effWcTake_keeps ..) | apply Keeps.after (effAtomMax_keeps ..)
    | apply Keeps.after (effAtomMin_keeps ..) | apply Keeps.after (effAtomXchg_keeps ..)
    | apply Keeps.after (effAtomCas_keeps ..) | apply Keeps.after (effRedAdd_keeps ..) | apply Keeps.after (effRedMax_keeps ..)
    | apply Keeps.after (effCollPost_keeps ..) | apply Keeps.after (effUpdSweep_keeps ..)
    | apply Keeps.after (effQntCvt_keeps ..) | apply Keeps.after (effEscCheck_keeps ..)
    | apply Keeps.after (effEscMark_keeps ..) | apply Keeps.after (effEscPin_keeps ..) | apply Keeps.after (effEscClr_keeps ..)
    | apply Keeps.stDone
  | split
theorem freeRange_keeps (i : Nat) (t : Tens) (r : Nat × Nat) (s : State) : Keeps s (freeRange i t r s) := by
  unfold freeRange
  repeat' first
  | with_reducible first
    | apply Keeps.refl | apply Keeps.after (Tens_writeBytes_keeps ..)
  | (simp only [mk_anew]; with_reducible apply Keeps.after (anew_keeps ..))
  | with_reducible first
    | refine Keeps.ofOk (by assumption) ?_ | apply Keeps.after (foldl_keeps _ (fun _ _ => ?_) _ _)
  | split
theorem clobber_keeps (i : Nat) (ds : List (Tens × List Tens)) (s : State) : Keeps s (clobber i ds s) := by
  unfold clobber
  repeat' first
  | with_reducible first
    | apply Keeps.refl | apply Keeps.ite | apply Keeps.after (freeRange_keeps ..)
    | apply Keeps.after (foldl_keeps _ (fun _ _ => ?_) _ _)
theorem withTrace_keeps (i : Nat) (e : QEntry) (s : State) : Keeps s (withTrace i e s) := by
  unfold withTrace
  repeat' first
  | with_reducible first
    | apply Keeps.refl | apply Keeps.ite | apply Keeps.after (State_setSett_keeps ..)
theorem endTrace_keeps (i : Nat) (s : State) : Keeps s (endTrace i s) := by
  unfold endTrace
  repeat' first
  | with_reducible first
    | apply Keeps.refl | apply Keeps.ite | apply Keeps.after (State_setSett_keeps ..)
theorem runEntry_keeps (fin : Ender) (h1 : ∀ y0 y1 y2, Keeps y2 (fin y0 y1 y2)) (i : Nat) (seq : Nat) (s : State) : Keeps s (runEntry fin i seq s) := by
  unfold runEntry
  repeat' first
  | with_reducible first
    | apply Keeps.refl | apply Keeps.ite | apply Keeps.after (h1 ..) | apply Keeps.after (State_setSett_keeps ..)
    | apply Keeps.after (endTrace_keeps ..) | apply Keeps.after (unitEffect_keeps ..) | apply Keeps.after (withTrace_keeps ..)
    | apply Keeps.after (clobber_keeps ..) | apply Keeps.after (settleDoomBy_keeps _ (fun _ _ _ => ?_) _)
    | apply Keeps.after (settFault_keeps _ (fun _ _ _ => ?_) _ _ _ _ _ _)
  | dsimp only
  | with_reducible first
    | refine Keeps.ofDone (by assumption) ?_ | refine Keeps.ofWait (by assumption) ?_
    | refine Keeps.ofEfault (by assumption) ?_ | refine Keeps.ofEbad (by assumption) ?_
  | split
theorem tryEntry_keeps (fin : Ender) (h1 : ∀ y0 y1 y2, Keeps y2 (fin y0 y1 y2)) (i : Nat) (p : QEntry → Bool) (s : State) (seq : Nat) : Keeps s (tryEntry fin i p s seq) := by
  unfold tryEntry
  repeat' first
  | with_reducible first
    | apply Keeps.refl | apply Keeps.ite | apply Keeps.after (h1 ..)
    | apply Keeps.after (runEntry_keeps _ (fun _ _ _ => ?_) _ _ _)
  | split
theorem advanceBy_keeps (fin : Ender) (h1 : ∀ y0 y1 y2, Keeps y2 (fin y0 y1 y2)) (i : Nat) (s : State) : Keeps s (advanceBy fin i s) := by
  unfold advanceBy
  repeat' first
  | with_reducible first
    | apply Keeps.refl | apply Keeps.after (h1 ..) | apply Keeps.after (tryEntry_keeps _ (fun _ _ _ => ?_) _ _ _ _)
    | apply Keeps.after (foldl_keeps _ (fun _ _ => ?_) _ _)
theorem popHead_keeps (i : Nat) (q : UnitId) (s : State) : Keeps s (popHead i q s) := by
  unfold popHead
  repeat' first
  | with_reducible first
    | apply Keeps.refl | apply Keeps.ite | apply Keeps.after (State_setSett_keeps ..)
  | dsimp only
  | split
theorem drainSett_keeps (fin : Ender) (h1 : ∀ y0 y1 y2, Keeps y2 (fin y0 y1 y2)) (i : Nat) (x2 : Nat) (x3 : State) : Keeps x3 (drainSett fin i x2 x3) := by
  induction x2 generalizing x3 with
  | zero =>
    unfold drainSett
    repeat' first | with_reducible apply Keeps.refl
  | succ n ih =>
    unfold drainSett
    repeat' first
    | with_reducible first
      | apply Keeps.refl | apply Keeps.after (ih ..) | apply Keeps.after (h1 ..)
      | apply Keeps.after (advanceBy_keeps _ (fun _ _ _ => ?_) _ _) | apply Keeps.after (popHead_keeps ..)
    | split
theorem stopOthers_keeps (i : Nat) (s : State) : Keeps s (stopOthers i s) := by
  unfold stopOthers
  repeat' first
  | with_reducible first
    | apply Keeps.refl | apply Keeps.after (drainSett_keeps _ (fun _ _ _ => ?_) _ _ _)
    | apply Keeps.after (State_setSett_keeps ..) | apply Keeps.after (foldl_keeps _ (fun _ _ => ?_) _ _)
theorem failRun_keeps (i : Nat) (status : Nat) (s : State) : Keeps s (failRun i status s) := by
  unfold failRun
  repeat' first
  | with_reducible first
    | apply Keeps.refl | apply Keeps.ite | apply Keeps.after (endSequence_keeps ..) | apply Keeps.after (endRun_keeps ..)
    | apply Keeps.after (stopOthers_keeps ..)
theorem advance_keeps (i : Nat) (s : State) : Keeps s (advance i s) := by
  unfold advance
  repeat' first
  | with_reducible first
    | apply Keeps.refl | apply Keeps.after (advanceBy_keeps _ (fun _ _ _ => ?_) _ _) | apply Keeps.after (failRun_keeps ..)
theorem settleDoom_keeps (s : State) : Keeps s (settleDoom s) := by
  unfold settleDoom
  repeat' first
  | with_reducible first
    | apply Keeps.refl | apply Keeps.after (settleDoomBy_keeps _ (fun _ _ _ => ?_) _) | apply Keeps.after (failRun_keeps ..)
theorem retry_keeps (i : Nat) (p : QEntry → Bool) (s : State) : Keeps s (retry i p s) := by
  unfold retry
  repeat' first
  | with_reducible first
    | apply Keeps.refl | apply Keeps.after (advance_keeps ..) | apply Keeps.after (tryEntry_keeps _ (fun _ _ _ => ?_) _ _ _ _)
    | apply Keeps.after (failRun_keeps ..) | apply Keeps.after (foldl_keeps _ (fun _ _ => ?_) _ _)
theorem markIssued_keeps (i : Nat) (s : State) : Keeps s (markIssued i s) := by
  have h : ∀ a, Keeps s { s with stile := a } := fun _ => ⟨rfl, id, id, id⟩
  exact (h _).trans (State_setSett_keeps ..)
theorem issueFree_keeps (ins : Instr) (u : Use) (s : State) : Keeps s (issueFree ins u s) := by
  unfold issueFree
  repeat' first
  | with_reducible first
    | apply Keeps.refl | apply Keeps.ite | apply Keeps.after (State_setSett_keeps ..) | apply Keeps.after (markIssued_keeps ..)
    | apply Keeps.after (failRun_keeps ..) | apply Keeps.after (advance_keeps ..)
  | dsimp only
  | split
theorem settIssue_keeps (ins : Instr) (s : State) : Keeps s (settIssue ins s) := by
  unfold settIssue
  repeat' first
  | with_reducible first
    | apply Keeps.refl | apply Keeps.ite | apply Keeps.after (issueFree_keeps ..)
  | split
theorem retryStall_keeps (i : Nat) (cs : List Nat) (s : State) : Keeps s (retryStall i cs s) := by
  unfold retryStall
  repeat' first
  | with_reducible first
    | apply Keeps.refl | apply Keeps.ite | apply Keeps.after (settIssue_keeps ..) | apply Keeps.after (State_setSett_keeps ..)
  | split
theorem completeHead_keeps (i : Nat) (q : UnitId) (s : State) : Keeps s (completeHead i q s) := by
  unfold completeHead
  repeat' first
  | with_reducible first
    | apply Keeps.refl | apply Keeps.ite | apply Keeps.after (retryStall_keeps ..) | apply Keeps.after (advance_keeps ..)
    | apply Keeps.after (popHead_keeps ..)
  | split
theorem settDone_keeps (i : Nat) (s : State) : Keeps s (settDone i s) := by
  unfold settDone
  repeat' first
  | with_reducible first
    | apply Keeps.refl | apply Keeps.ite | apply Keeps.after (State_setSett_keeps ..) | apply Keeps.after (endRun_keeps ..)
  | dsimp only
  | split
theorem haloCredit_keeps (i : Nat) (d : Nat) (s : State) : Keeps s (haloCredit i d s) := by
  unfold haloCredit
  repeat' first
  | with_reducible first
    | apply Keeps.refl | apply Keeps.ite | apply Keeps.after (creditArrives_keeps ..) | apply Keeps.after (retry_keeps ..)
  | dsimp only
  | split
theorem haloSlot_keeps (i : Nat) (d : Nat) (s : State) : Keeps s (haloSlot i d s) := by
  unfold haloSlot
  repeat' first | with_reducible apply Keeps.refl | with_reducible apply Keeps.after (retry_keeps ..)
theorem grantWait_keeps (w : LintelWait) (s : State) : Keeps s (grantWait w s) := by
  unfold grantWait
  repeat' first
  | with_reducible first
    | apply Keeps.refl | apply Keeps.after (dropWait_keeps ..) | apply Keeps.after (State_setSett_keeps ..)
theorem lintelRelease_keeps (addr : Nat) (s : State) : Keeps s (lintelRelease addr s) := by
  unfold lintelRelease
  repeat' first
  | with_reducible first
    | apply Keeps.refl | apply Keeps.ite | apply Keeps.after (devRead_keeps ..) | apply Keeps.after (settleDoom_keeps ..)
    | apply Keeps.after (grantWait_keeps ..) | apply Keeps.after (retry_keeps ..)
  | dsimp only
  | with_reducible apply Keeps.after (foldl_keeps _ (fun _ _ => ?_) _ _)
theorem resumeSett_keeps (i : Nat) (id : Nat) (s : State) : Keeps s (resumeSett i id s) := by
  unfold resumeSett
  repeat' first
  | with_reducible first
    | apply Keeps.refl | apply Keeps.after (retry_keeps ..) | apply Keeps.after (State_setSett_keeps ..)

end Sys2Proof.Laws
end

