-- ==== Sys2Proof/Laws/KeepsBlock.lean ====
section
/-! SUPPORT. `Keeps` for the operations of the other blocks: one lemma for each. -/

namespace Sys2Proof.Laws

open Sys2Proof.Machine

set_option linter.unusedSimpArgs false

theorem stageOnce_keeps (i : Nat) (s : State) : Keeps s (stageOnce i s) := by
  unfold stageOnce
  repeat' first
  | with_reducible first
    | apply Keeps.refl | apply Keeps.after (readGranule_keeps ..) | apply Keeps.after (writeScratch_keeps ..)
    | apply Keeps.after (State_setSett_keeps ..) | apply Keeps.after (failRun_keeps ..)
    | apply Keeps.after (settFault_keeps _ (fun _ _ _ => ?_) _ _ _ _ _ _)
  | dsimp only
  | with_reducible first
    | refine Keeps.ofOk (by assumption) ?_ | refine Keeps.ofFault (by assumption) ?_ | refine Keeps.ofBad (by assumption) ?_
    | refine Keeps.ofAok (by assumption) ?_ | refine Keeps.ofAfault (by assumption) ?_ | refine Keeps.ofAbad (by assumption) ?_
  | split
theorem stageGo_keeps (i : Nat) (x1 : Nat) (x2 : State) : Keeps x2 (stageGo i x1 x2) := by
  induction x1 generalizing x2 with
  | zero =>
    unfold stageGo
    repeat' first | with_reducible apply Keeps.refl
  | succ n ih =>
    unfold stageGo
    repeat' first
    | with_reducible first
      | apply Keeps.refl | apply Keeps.after (ih ..) | apply Keeps.after (stageOnce_keeps ..)
theorem stageAll_keeps (i : Nat) (s : State) : Keeps s (stageAll i s) := by
  unfold stageAll
  repeat' first | with_reducible apply Keeps.refl | with_reducible apply Keeps.after (stageGo_keeps ..)
theorem mapColumns_keeps (s : State) : Keeps s (mapColumns s) := by
  unfold mapColumns
  repeat' first
  | with_reducible first
    | apply Keeps.refl | apply Keeps.ite | apply Keeps.after (State_setSett_keeps ..)
  | (simp only [mk_anew]; with_reducible apply Keeps.after (anew_keeps ..))
  | dsimp only
  | with_reducible apply Keeps.after (foldl_keeps _ (fun _ _ => ?_) _ _)
theorem ownCairn_keeps (s : State) (m : Manifest) : Keeps s (ownCairn s m) := by
  unfold ownCairn
  repeat' first
  | with_reducible first
    | apply Keeps.refl | apply Keeps.after (State_setCairn_keeps ..)
  | dsimp only
  | with_reducible apply Keeps.after (foldl_keeps _ (fun _ _ => ?_) _ _)
theorem ownPinned_keeps (s : State) (m : Manifest) : Keeps s (ownPinned s m) := by
  unfold ownPinned
  repeat' first
  | with_reducible first
    | apply Keeps.refl | apply Keeps.after (State_setDie_keeps ..) | apply Keeps.after (foldl_keeps _ (fun _ _ => ?_) _ _)
theorem bindGroups_keeps (s : State) (r : Run) : Keeps s (bindGroups s r).1 := by
  unfold bindGroups
  repeat' first
  | with_reducible first
    | apply Keeps.refl | apply Keeps.after (bindCtx_keeps ..)
  | (simp only [mk_anew]; with_reducible apply Keeps.after (anew_keeps ..))
  | with_reducible apply Keeps.after (foldl_keeps _ (fun _ _ => ?_) _ _)
theorem writeCounters_keeps (ag : Agent) (l : List (Nat × Nat)) (s : State) : Keeps s (writeCounters ag l s) := by
  unfold writeCounters
  repeat' first
  | with_reducible first
    | apply Keeps.refl | apply Keeps.after (writeRange_keeps ..) | refine Keeps.ofAok (by assumption) ?_
    | refine Keeps.ofAfault (by assumption) ?_ | refine Keeps.ofAbad (by assumption) ?_
    | apply Keeps.after (foldl_keeps _ (fun _ _ => ?_) _ _)
  | split
theorem writeWarnings_keeps (r : Run) (ws : List (Nat × Nat)) (s : State) : Keeps s (writeWarnings r ws s) := by
  unfold writeWarnings
  repeat' first
  | with_reducible first
    | apply Keeps.refl | apply Keeps.ite | apply Keeps.after (writeRange_keeps ..) | refine Keeps.ofAok (by assumption) ?_
    | refine Keeps.ofAfault (by assumption) ?_ | refine Keeps.ofAbad (by assumption) ?_
  | split
theorem prefetchLayers_keeps (s : State) (ag : Agent) (m : Manifest) : Keeps s (prefetchLayers s ag m) := by
  unfold prefetchLayers
  repeat' first
  | with_reducible first
    | apply Keeps.refl | apply Keeps.after (prefetch_keeps ..) | apply Keeps.after (foldl_keeps _ (fun _ _ => ?_) _ _)
  | split
theorem takeArray_keeps (run : Run) (st : ArrayState) (e : Esc) (s : State) : Keeps s (takeArray run st e s) := by
  unfold takeArray
  repeat' first
  | with_reducible first
    | apply Keeps.refl | apply Keeps.after (settleDeficit_keeps ..)
  | (simp only [mk_anew]; with_reducible apply Keeps.after (anew_keeps ..))
theorem startSetts_keeps (run : Run) (s : State) : Keeps s (startSetts run s) := by
  unfold startSetts
  repeat' first
  | with_reducible first
    | apply Keeps.refl | apply Keeps.after (State_setCl_keeps ..) | apply Keeps.after (State_setSett_keeps ..)
    | apply Keeps.after (stageAll_keeps ..)
  | dsimp only
  | with_reducible apply Keeps.after (foldl_keeps _ (fun _ _ => ?_) _ _)
  | split
theorem startRun_keeps (s : State) (r : Run) (code : Streams) : Keeps s (startRun s r code) := by
  unfold startRun
  repeat' first
  | with_reducible first
    | apply Keeps.refl | apply Keeps.after (prefetchLayers_keeps ..) | apply Keeps.after (writeWarnings_keeps ..)
    | apply Keeps.after (mapColumns_keeps ..) | apply Keeps.after (writeCounters_keeps ..)
    | apply Keeps.after (bindGroups_keeps ..) | apply Keeps.after (takeArray_keeps ..) | apply Keeps.after (ownPinned_keeps ..)
    | apply Keeps.after (ownCairn_keeps ..) | apply Keeps.after (startSetts_keeps ..)
    | apply Keeps.after (State_setCl_keeps ..)
theorem placeAgain_keeps (s : State) (r : Run) : Keeps s (placeAgain s r) := by
  unfold placeAgain
  repeat' first
  | with_reducible first
    | apply Keeps.refl | apply Keeps.ite | apply Keeps.after (State_setSett_keeps ..)
    | apply Keeps.after (State_setClient_keeps ..) | apply Keeps.after (mapColumns_keeps ..)
    | apply Keeps.after (startSetts_keeps ..) | apply Keeps.after (postComp_keeps ..) | apply Keeps.after (freeArray_keeps ..)
    | apply Keeps.after (clearRun_keeps ..)
  | (simp only [mk_anew]; with_reducible apply Keeps.after (anew_keeps ..))
  | with_reducible apply Keeps.after (foldl_keeps _ (fun _ _ => ?_) _ _)
theorem admitRun_keeps (s : State) (r : Run) : Keeps s (admitRun s r) := by
  unfold admitRun
  repeat' first
  | with_reducible first
    | apply Keeps.refl | apply Keeps.after (postComp_keeps ..) | apply Keeps.after (settleDeficit_keeps ..)
    | apply Keeps.after (startRun_keeps ..)
  | (simp only [mk_anew]; with_reducible apply Keeps.after (anew_keeps ..))
  | dsimp only
  | split
theorem startPreempt_keeps (s : State) : Keeps s (startPreempt s) := by
  unfold startPreempt
  repeat' first
  | with_reducible first
    | apply Keeps.refl | apply Keeps.ite | apply Keeps.after (freezeContexts_keeps ..)
    | apply Keeps.after (State_setSett_keeps ..)
  | (simp only [mk_anew]; with_reducible apply Keeps.after (anew_keeps ..))
  | dsimp only
  | with_reducible apply Keeps.after (foldl_keeps _ (fun _ _ => ?_) _ _)
  | split
theorem requestPreempt_keeps (s : State) : Keeps s (requestPreempt s) := by
  unfold requestPreempt
  repeat' first
  | with_reducible first
    | apply Keeps.refl | apply Keeps.ite | apply Keeps.after (startPreempt_keeps ..)
  | (simp only [mk_anew]; with_reducible apply Keeps.after (anew_keeps ..))
theorem saveReads_keeps (i : Nat) (s : State) : Keeps s (Res.st (saveReads i s)) := by
  unfold saveReads
  repeat' first
  | with_reducible first
    | apply Keeps.refl | apply Keeps.after (checkWords_keeps ..) | apply Keeps.stBad | apply Keeps.iteRes
theorem writeSaved_keeps (ag : Agent) (va : Nat) (bs : List Byte) (s : State) : Keeps s (writeSaved ag va bs s) := by
  unfold writeSaved
  repeat' first
  | with_reducible first
    | apply Keeps.refl | apply Keeps.after (writeRange_keeps ..) | refine Keeps.ofAok (by assumption) ?_
    | refine Keeps.ofAfault (by assumption) ?_ | refine Keeps.ofAbad (by assumption) ?_
  | split
theorem writeFree_keeps (ag : Agent) (va : Nat) (n : Nat) (s : State) : Keeps s (writeFree ag va n s) := by
  unfold writeFree
  repeat' first
  | with_reducible first
    | apply Keeps.refl | apply Keeps.after (writeSaved_keeps ..)
  | (simp only [mk_anew]; with_reducible apply Keeps.after (anew_keeps ..))
theorem writeParts_keeps (ag : Agent) (x1 : List (List Byte ⊕ Nat)) (x2 : Nat) (x3 : State) : Keeps x3 (writeParts ag x1 x2 x3) := by
  induction x1 generalizing x2 x3 with
  | nil => exact Keeps.refl _
  | cons a t ih =>
    cases a with
    | inl bs => exact (writeSaved_keeps ..).trans (ih ..)
    | inr n => exact (writeFree_keeps ..).trans (ih ..)
theorem writeSaveArea_keeps (ag : Agent) (r : Run) (counters : List W64) (s : State) : Keeps s (writeSaveArea ag r counters s) := by
  unfold writeSaveArea
  repeat' first | with_reducible apply Keeps.refl | with_reducible apply Keeps.after (writeParts_keeps ..) | split
theorem leaveSetts_keeps (s : State) (r : Run) : Keeps s (leaveSetts s r) := by
  unfold leaveSetts
  extract_lets idx s1
  have h : Keeps s s1 := foldl_keeps _ (fun _ _ => State_setSett_keeps ..) _ _
  exact h.trans ⟨rfl, id, fun h => ⟨h.1, h.2, h.3, h.4, h.5, h.6, h.7, h.8⟩, id⟩
theorem writeBackLocked_keeps (s : State) : Keeps s (writeBackLocked s) := by
  unfold writeBackLocked
  repeat' first
  | with_reducible first
    | apply Keeps.refl | apply Keeps.after (unlockLines_keeps ..) | apply Keeps.after (cleanLine_keeps ..)
    | apply Keeps.after (foldl_keeps _ (fun _ _ => ?_) _ _)
theorem saveRun_keeps (s : State) (r : Run) : Keeps s (saveRun s r) := by
  unfold saveRun
  repeat' first
  | with_reducible first
    | apply Keeps.refl | apply Keeps.after (cairnClearDone_keeps ..) | apply Keeps.after (cairnClearStart_keeps ..)
    | apply Keeps.after (leaveSetts_keeps ..) | apply Keeps.after (writeBackLocked_keeps ..)
    | apply Keeps.after (writeSaveArea_keeps ..) | apply Keeps.after (State_setCairn_keeps ..)
    | apply Keeps.after (State_setDie_keeps ..) | apply Keeps.after (State_setCl_keeps ..)
    | apply Keeps.after (freeArray_keeps ..) | apply Keeps.after (enterResidency_keeps ..)
  | (simp only [mk_anew]; with_reducible apply Keeps.after (anew_keeps ..))
  | with_reducible apply Keeps.after (foldl_keeps _ (fun _ _ => ?_) _ _)
theorem saveChecks_keeps (x0 : List Nat) (x1 : State) : Keeps x1 (Res.st (saveChecks x0 x1)) := by
  induction x0 generalizing x1 with
  | nil =>
    unfold saveChecks
    repeat' first | with_reducible apply Keeps.refl | with_reducible apply Keeps.stOk
  | cons a t ih =>
    unfold saveChecks
    repeat' first
    | with_reducible first
      | apply Keeps.refl | apply Keeps.after (ih ..) | apply Keeps.after (saveReads_keeps ..)
      | refine Keeps.ofOk (by assumption) ?_
    | split
theorem saveDone_keeps (s : State) : Keeps s (saveDone s) := by
  unfold saveDone
  repeat' first
  | with_reducible first
    | apply Keeps.refl | apply Keeps.ite | apply Keeps.after (drainSett_keeps _ (fun _ _ _ => ?_) _ _ _)
    | apply Keeps.after (failRun_keeps ..) | apply Keeps.after (saveChecks_keeps ..) | apply Keeps.after (saveRun_keeps ..)
    | apply Keeps.after (endRun_keeps ..)
  | dsimp only
  | with_reducible first
    | refine Keeps.ofOk (by assumption) ?_ | refine Keeps.ofFault (by assumption) ?_ | refine Keeps.ofBad (by assumption) ?_
    | apply Keeps.after (foldl_keeps _ (fun _ _ => ?_) _ _)
  | split
theorem dropRun_keeps (s : State) (r : Run) : Keeps s (dropRun s r) := by
  unfold dropRun
  repeat' first
  | with_reducible first
    | apply Keeps.refl | apply Keeps.after (State_setClient_keeps ..) | apply Keeps.after (releaseContexts_keeps ..)
    | apply Keeps.after (settleDeficit_keeps ..)
  | (simp only [mk_anew]; with_reducible apply Keeps.after (anew_keeps ..))
theorem abandonRun_keeps (s : State) (r : Run) (status : Nat) : Keeps s (abandonRun s r status) := by
  unfold abandonRun
  repeat' first
  | with_reducible first
    | apply Keeps.refl | apply Keeps.after (postComp_keeps ..) | apply Keeps.after (dropRun_keeps ..)
theorem retranslate_keeps (c : Nat) (f : FaultRec) (go : State → State) (h1 : ∀ y0, Keeps y0 (go y0)) (s : State) : Keeps s (retranslate c f go s) := by
  unfold retranslate
  repeat' first
  | with_reducible first
    | apply Keeps.refl | apply Keeps.ite | apply Keeps.after (h1 ..) | apply Keeps.after (State_setClient_keeps ..)
theorem goSett_keeps (i : Nat) (id : Nat) (s : State) : Keeps s (goSett i id s) := by
  unfold goSett
  repeat' first
  | with_reducible first
    | apply Keeps.refl | apply Keeps.ite | apply Keeps.after (stageAll_keeps ..) | apply Keeps.after (State_setSett_keeps ..)
    | apply Keeps.after (resumeSett_keeps ..)
theorem retranslateRun_keeps (r : Run) (s : State) : Keeps s (retranslateRun r s) := by
  unfold retranslateRun
  repeat' first
  | with_reducible first
    | apply Keeps.refl | apply Keeps.after (retranslate_keeps _ _ _ (fun _ => ?_) _) | apply Keeps.after (goSett_keeps ..)
    | apply Keeps.after (resumeCtx_keeps ..)
  | dsimp only
  | with_reducible apply Keeps.after (foldl_keeps _ (fun _ _ => ?_) _ _)
  | split
theorem relockLines_keeps (ks : List Nat) (s : State) : Keeps s (relockLines ks s) := by
  unfold relockLines
  repeat' first
  | with_reducible first
    | apply Keeps.refl | apply Keeps.after (State_setLine_keeps ..) | apply Keeps.after (readBurst_keeps ..)
    | apply Keeps.after (foldl_keeps _ (fun _ _ => ?_) _ _)
theorem restoreCairn_keeps (m : Manifest) (saved : Saved) (s : State) : Keeps s (restoreCairn m saved s) := by
  unfold restoreCairn
  repeat' first
  | with_reducible first
    | apply Keeps.refl | apply Keeps.after (State_setCairn_keeps ..)
  | dsimp only
  | with_reducible apply Keeps.after (foldl_keeps _ (fun _ _ => ?_) _ _)
theorem moveFaults_keeps (r : Run) (place : List (Nat × Nat)) (s : State) : Keeps s (moveFaults r place s) := by
  unfold moveFaults
  repeat' first | with_reducible apply Keeps.refl | with_reducible apply Keeps.after (State_setClient_keeps ..)
theorem resumeRun_keeps (s : State) (r : Run) (saved : Saved) : Keeps s (resumeRun s r saved) := by
  unfold resumeRun
  repeat' first
  | with_reducible first
    | apply Keeps.refl | apply Keeps.ite | apply Keeps.after (mapColumns_keeps ..) | apply Keeps.after (abandonRun_keeps ..)
    | apply Keeps.after (takeArray_keeps ..) | apply Keeps.after (State_setSett_keeps ..)
    | apply Keeps.after (ownPinned_keeps ..) | apply Keeps.after (restoreCairn_keeps ..)
    | apply Keeps.after (writeCounters_keeps ..) | apply Keeps.after (freezeContexts_keeps ..)
    | apply Keeps.after (moveFaults_keeps ..) | apply Keeps.after (relockLines_keeps ..) | apply Keeps.after (advance_keeps ..)
    | apply Keeps.after (stageAll_keeps ..) | apply Keeps.after (retranslateRun_keeps ..)
    | apply Keeps.after (settleDoom_keeps ..) | apply Keeps.after (foldl_keeps _ (fun _ _ => ?_) _ _)
  | split
theorem chooseRun_keeps (s : State) : Keeps s (((chooseRun s).map fun z => (z).2).getD s) := by
  unfold chooseRun
  split
  · exact Keeps.refl _
  · extract_lets cs
    split
    · exact Keeps.refl _
    · extract_lets s1 best es better
      have h1 : Keeps s s1 := foldK (Keeps.refl _) (fun _ _ => State_setCl_keeps ..)
      cases bestBy better es with
      | none => exact Keeps.refl _
      | some e => exact h1
theorem chooseRun_keepsK {s : State} {z} (e : chooseRun s = some z) : Keeps s ((z).2) := by
  have := chooseRun_keeps s; rw [e] at this; exact this
theorem scheduleRun_keeps (s : State) : Keeps s (scheduleRun s) := by
  unfold scheduleRun
  split
  · exact Keeps.refl _
  · have hk := chooseRun_keeps s
    split
    · exact Keeps.refl _
    · next e =>
      rw [e] at hk
      split
      · exact Keeps.trans hk (resumeRun_keeps ..)
      · exact Keeps.trans hk (admitRun_keeps ..)
theorem settleClass_keeps (s : State) : Keeps s (settleClass s) := by
  unfold settleClass
  repeat' first
  | with_reducible first
    | apply Keeps.refl | apply Keeps.ite | apply Keeps.after (startPreempt_keeps ..)
  | split
theorem sliceExpiry_keeps (s : State) : Keeps s (sliceExpiry s) := by
  unfold sliceExpiry
  repeat' first
  | with_reducible first
    | apply Keeps.refl | apply Keeps.ite | apply Keeps.after (startPreempt_keeps ..)
  | split
theorem watchdogExpiry_keeps (s : State) : Keeps s (watchdogExpiry s) := by
  unfold watchdogExpiry
  repeat' first
  | with_reducible first
    | apply Keeps.refl | apply Keeps.ite | apply Keeps.after (raiseAlarm_keeps ..) | apply Keeps.after (endRunWith_keeps ..)
    | apply Keeps.after (stopOthers_keeps ..)
  | split
theorem stopRun_keeps (s : State) : Keeps s (stopRun s) := by
  unfold stopRun
  repeat' first
  | with_reducible first
    | apply Keeps.refl | apply Keeps.after (endRunWith_keeps ..) | apply Keeps.after (stopOthers_keeps ..)
  | split
theorem onArray_keeps (f : State → State) (h1 : ∀ y0, Keeps y0 (f y0)) (s : State) : Keeps s (onArray f s) := by
  unfold onArray
  repeat' first | with_reducible apply Keeps.refl | with_reducible apply Keeps.ite | with_reducible apply Keeps.after (h1 ..)
theorem fetchFault_keeps (st : Nat) (va : Nat) (cls : Nat) (s : State) : Keeps s (fetchFault st va cls s) := by
  unfold fetchFault
  repeat' first
  | with_reducible first
    | apply Keeps.refl | apply Keeps.after (failRun_keeps ..) | apply Keeps.after (postFault_keeps ..)
    | apply Keeps.after (countRunFault_keeps ..)
  | (simp only [mk_anew]; with_reducible apply Keeps.after (anew_keeps ..))
  | dsimp only
  | split
theorem fetchReturn_keeps (st : Nat) (s : State) : Keeps s (fetchReturn st s) := by
  unfold fetchReturn
  repeat' first
  | with_reducible first
    | apply Keeps.refl | apply Keeps.ite | apply Keeps.after (readGranule_keeps ..)
    | apply Keeps.after (State_setSett_keeps ..) | apply Keeps.after (fetchFault_keeps ..)
    | apply Keeps.after (failRun_keeps ..) | refine Keeps.ofAok (by assumption) ?_ | refine Keeps.ofAfault (by assumption) ?_
    | refine Keeps.ofAbad (by assumption) ?_
  | split
theorem fabricDone_keeps (s : State) : Keeps s (fabricDone s) := by
  unfold fabricDone
  repeat' first
  | with_reducible first
    | apply Keeps.refl | apply Keeps.after (settleDoom_keeps ..) | apply Keeps.after (settleLost_keeps ..)
theorem atPort_keeps (port : Nat) (f : State → State) (h1 : ∀ y0, Keeps y0 (f y0)) (s : State) : Keeps s (atPort port f s) := by
  unfold atPort
  repeat' first
  | with_reducible first
    | apply Keeps.refl | apply Keeps.ite | apply Keeps.after (h1 ..) | apply Keeps.after (fabricDone_keeps ..)
theorem atCtx_keeps (ctx : Nat) (f : State → State) (h1 : ∀ y0, Keeps y0 (f y0)) (s : State) : Keeps s (atCtx ctx f s) := by
  unfold atCtx
  repeat' first
  | with_reducible first
    | apply Keeps.refl | apply Keeps.ite | apply Keeps.after (h1 ..) | apply Keeps.after (fabricDone_keeps ..)
theorem whenPowered_keeps (f : State → State) (h1 : ∀ y0, Keeps y0 (f y0)) (s : State) : Keeps s (whenPowered f s) := by
  unfold whenPowered
  repeat' first
  | with_reducible first
    | apply Keeps.refl | apply Keeps.ite | apply Keeps.after (h1 ..) | apply Keeps.after (fabricDone_keeps ..)
theorem ringRead_keeps (c : Nat) (q : Queue) (off : Nat) (len : Nat) (s : State) : Keeps s ((ringRead c q off len s).1) := by
  unfold ringRead
  repeat' first
  | with_reducible first
    | apply Keeps.refl | refine Keeps.trans ?_ (physRead_keepsK (by assumption))
  | split
theorem disableQueue_keeps (c : Nat) (n : Nat) (status : Nat) (s : State) : Keeps s (disableQueue c n status s) := by
  unfold disableQueue
  repeat' first
  | with_reducible first
    | apply Keeps.refl | apply Keeps.after (postComp_keeps ..) | apply Keeps.after (State_setQ_keeps ..)
theorem takeDesc_keeps (c : Nat) (n : Nat) (bs : List Byte) (s : State) : Keeps s (takeDesc c n bs s) := by
  unfold takeDesc
  repeat' first
  | with_reducible first
    | apply Keeps.refl | apply Keeps.ite | apply Keeps.after (State_setQ_keeps ..) | apply Keeps.after (postComp_keeps ..)
theorem fetchGo_keeps (c : Nat) (n : Nat) (x2 : Nat) (x3 : State) : Keeps x3 (fetchGo c n x2 x3) := by
  induction x2 generalizing x3 with
  | zero =>
    unfold fetchGo
    repeat' first | with_reducible apply Keeps.refl
  | succ n ih =>
    unfold fetchGo
    repeat' first
    | with_reducible first
      | apply Keeps.refl | apply Keeps.after (ih ..) | apply Keeps.after (ringRead_keeps ..)
      | apply Keeps.after (disableQueue_keeps ..) | apply Keeps.after (takeDesc_keeps ..)
    | dsimp only
    | with_reducible refine Keeps.ofFst (by assumption) ?_
    | split
theorem pollQueue_keeps (c : Nat) (n : Nat) (s : State) : Keeps s (pollQueue c n s) := by
  unfold pollQueue
  repeat' first
  | with_reducible first
    | apply Keeps.refl | apply Keeps.ite | apply Keeps.after (ringRead_keeps ..) | apply Keeps.after (disableQueue_keeps ..)
    | apply Keeps.after (State_setQ_keeps ..) | apply Keeps.after (fetchGo_keeps ..)
  | dsimp only
  | with_reducible refine Keeps.ofFst (by assumption) ?_
  | split
theorem writeQueueCtrl_keeps (c : Nat) (n : Nat) (v : W32) (s : State) : Keeps s (writeQueueCtrl c n v s) := by
  unfold writeQueueCtrl
  repeat' first | with_reducible apply Keeps.refl | with_reducible apply Keeps.after (State_setQ_keeps ..)
theorem setDesc_keeps (c : Nat) (n : Nat) (id : Nat) (f : Desc → Desc) (s : State) : Keeps s (setDesc c n id f s) := by
  unfold setDesc
  repeat' first | with_reducible apply Keeps.refl | with_reducible apply Keeps.after (State_setQ_keeps ..)
theorem startDesc_keeps (c : Nat) (n : Nat) (id : Nat) (s : State) : Keeps s (startDesc c n id s) := by
  unfold startDesc
  repeat' first | with_reducible apply Keeps.refl | with_reducible apply Keeps.after (setDesc_keeps ..)
theorem completeDesc_keeps (c : Nat) (n : Nat) (d : Desc) (status : Nat) (s : State) : Keeps s (completeDesc c n d status s) := by
  unfold completeDesc
  repeat' first
  | with_reducible first
    | apply Keeps.refl | apply Keeps.after (postComp_keeps ..) | apply Keeps.after (startDesc_keeps ..)
theorem nopDesc_keeps (c : Nat) (n : Nat) (s : State) : Keeps s (nopDesc c n s) := by
  unfold nopDesc
  repeat' first | with_reducible apply Keeps.refl | with_reducible apply Keeps.after (completeDesc_keeps ..) | split
theorem runDesc_keeps (c : Nat) (n : Nat) (m : Manifest) (s : State) : Keeps s (runDesc c n m s) := by
  unfold runDesc
  repeat' first
  | with_reducible first
    | apply Keeps.refl | apply Keeps.after (State_setCl_keeps ..) | apply Keeps.after (startDesc_keeps ..)
    | apply Keeps.after (settleClass_keeps ..)
  | (simp only [mk_anew]; with_reducible apply Keeps.after (anew_keeps ..))
  | dsimp only
  | split
theorem dmaFault_keeps (c : Nat) (n : Nat) (d : Desc) (va : Nat) (cls : Nat) (kind : AccKind) (fatalStatus : Nat → Nat) (s : State) : Keeps s (dmaFault c n d va cls kind fatalStatus s) := by
  unfold dmaFault
  repeat' first
  | with_reducible first
    | apply Keeps.refl | apply Keeps.ite | apply Keeps.after (postFault_keeps ..) | apply Keeps.after (setDesc_keeps ..)
    | apply Keeps.after (completeDesc_keeps ..)
theorem copyOnce_keeps (c : Nat) (n : Nat) (d : Desc) (s : State) : Keeps s (movedSt (copyOnce c n d s)) := by
  unfold copyOnce
  repeat' first
  | with_reducible first
    | apply Keeps.refl | apply Keeps.after (readGranule_keeps ..) | apply Keeps.after (dmaFault_keeps ..)
    | apply Keeps.after (completeDesc_keeps ..) | apply Keeps.after (writeGranule_keeps ..)
    | apply Keeps.after (setDesc_keeps ..) | apply Keeps.stMore | apply Keeps.stStop
  | dsimp only
  | with_reducible first
    | refine Keeps.ofAok (by assumption) ?_ | refine Keeps.ofAfault (by assumption) ?_ | refine Keeps.ofAbad (by assumption) ?_
  | split
theorem copyGo_keeps (c : Nat) (n : Nat) (id : Nat) (x3 : Nat) (x4 : State) : Keeps x4 (copyGo c n id x3 x4) := by
  induction x3 generalizing x4 with
  | zero =>
    unfold copyGo
    repeat' first | with_reducible apply Keeps.refl
  | succ n ih =>
    unfold copyGo
    repeat' first
    | with_reducible first
      | apply Keeps.refl | apply Keeps.ite | apply Keeps.after (ih ..) | apply Keeps.after (copyOnce_keeps ..)
      | refine Keeps.ofMore (by assumption) ?_ | refine Keeps.ofStop (by assumption) ?_
    | split
theorem copyMove_keeps (c : Nat) (n : Nat) (d : Desc) (s : State) : Keeps s (copyMove c n d s) := by
  unfold copyMove
  repeat' first
  | with_reducible first
    | apply Keeps.refl | apply Keeps.ite | apply Keeps.after (copyGo_keeps ..)
theorem copyDesc_keeps (c : Nat) (n : Nat) (s : State) : Keeps s (copyDesc c n s) := by
  unfold copyDesc
  repeat' first
  | with_reducible first
    | apply Keeps.refl | apply Keeps.ite | apply Keeps.after (completeDesc_keeps ..) | apply Keeps.after (copyMove_keeps ..)
    | apply Keeps.after (startDesc_keeps ..)
  | dsimp only
  | split
theorem copyDone_keeps (c : Nat) (n : Nat) (s : State) : Keeps s (copyDone c n s) := by
  unfold copyDone
  repeat' first
  | with_reducible first
    | apply Keeps.refl | apply Keeps.ite | apply Keeps.after (copyMove_keeps ..) | apply Keeps.after (completeDesc_keeps ..)
  | dsimp only
  | split
theorem resumeCopy_keeps (c : Nat) (n : Nat) (id : Nat) (s : State) : Keeps s (resumeCopy c n id s) := by
  unfold resumeCopy
  repeat' first
  | with_reducible first
    | apply Keeps.refl | apply Keeps.after (copyMove_keeps ..) | apply Keeps.after (setDesc_keeps ..)
  | split
theorem writeCqBase_keeps (c : Nat) (v : W64) (s : State) : Keeps s (writeCqBase c v s) := by
  unfold writeCqBase
  repeat' first
  | with_reducible first
    | apply Keeps.refl | apply Keeps.after (drainComps_keeps ..) | apply Keeps.after (State_setCl_keeps ..)
theorem writeCqCtrl_keeps (c : Nat) (v : W32) (s : State) : Keeps s (writeCqCtrl c v s) := by
  unfold writeCqCtrl
  repeat' first
  | with_reducible first
    | apply Keeps.refl | apply Keeps.after (drainComps_keeps ..) | apply Keeps.after (State_setCl_keeps ..)
theorem writeCqTail_keeps (c : Nat) (v : W32) (s : State) : Keeps s (writeCqTail c v s) := by
  unfold writeCqTail
  repeat' first
  | with_reducible first
    | apply Keeps.refl | apply Keeps.after (drainComps_keeps ..) | apply Keeps.after (State_setCl_keeps ..)
theorem holdoffOver_keeps (c : Nat) (s : State) : Keeps s (holdoffOver c s) := by
  unfold holdoffOver
  repeat' first
  | with_reducible first
    | apply Keeps.refl | apply Keeps.ite | apply Keeps.after (signalCq_keeps ..)
theorem State_setCore_keeps (s : State) (c : Nat) (f : CodecCore → CodecCore) : Keeps s (State.setCore s c f) := by
  unfold State.setCore
  repeat' first | with_reducible apply Keeps.refl | (simp only [mk_anew]; with_reducible apply Keeps.after (anew_keeps ..))
theorem State_setStrm_keeps (s : State) (k : Nat) (f : Machine.Stream → Machine.Stream) : Keeps s (State.setStrm s k f) := by
  unfold State.setStrm
  repeat' first | with_reducible apply Keeps.refl | (simp only [mk_anew]; with_reducible apply Keeps.after (anew_keeps ..))
theorem State_setEntry_keeps (s : State) (e : Nat) (f : PoolEntry → PoolEntry) : Keeps s (State.setEntry s e f) := by
  unfold State.setEntry
  repeat' first | with_reducible apply Keeps.refl | (simp only [mk_anew]; with_reducible apply Keeps.after (anew_keeps ..))
theorem freeCore_keeps (c : Nat) (s : State) : Keeps s (freeCore c s) := by
  unfold freeCore
  repeat' first
  | with_reducible first
    | apply Keeps.refl | apply Keeps.after (State_setClient_keeps ..) | apply Keeps.after (State_setCore_keeps ..)
  | split
theorem endFlush_keeps (k : Nat) (status : Nat) (s : State) : Keeps s (endFlush k status s) := by
  unfold endFlush
  repeat' first
  | with_reducible first
    | apply Keeps.refl | apply Keeps.after (State_setStrm_keeps ..) | apply Keeps.after (completeDesc_keeps ..)
  | dsimp only
  | split
theorem tryWrite_keeps (c : Nat) (va : Nat) (bs : List Byte) (s : State) : Keeps s (tryWrite c va bs s) := by
  unfold tryWrite
  repeat' first
  | with_reducible first
    | apply Keeps.refl | apply Keeps.after (writeRange_keeps ..) | refine Keeps.ofAok (by assumption) ?_
    | refine Keeps.ofAfault (by assumption) ?_ | refine Keeps.ofAbad (by assumption) ?_
  | split
theorem failStream_keeps (k : Nat) (status : Nat) (cause : Nat) (s : State) : Keeps s (failStream k status cause s) := by
  unfold failStream
  repeat' first
  | with_reducible first
    | apply Keeps.refl | apply Keeps.after (freeCore_keeps ..) | apply Keeps.after (releaseSub_keeps ..)
    | apply Keeps.after (State_setEntry_keeps ..) | apply Keeps.after (endFlush_keeps ..)
    | apply Keeps.after (tryWrite_keeps ..) | apply Keeps.after (State_setStrm_keeps ..)
  | dsimp only
  | with_reducible apply Keeps.after (foldl_keeps _ (fun _ _ => ?_) _ _)
  | split
theorem dropStream_keeps (k : Nat) (s : State) : Keeps s (dropStream k s) := by
  unfold dropStream
  repeat' first
  | with_reducible first
    | apply Keeps.refl | apply Keeps.after (endFlush_keeps ..) | apply Keeps.after (freeCore_keeps ..)
  | (simp only [mk_anew]; with_reducible apply Keeps.after (anew_keeps ..))
  | dsimp only
  | with_reducible apply Keeps.after (foldl_keeps _ (fun _ _ => ?_) _ _)
  | split
theorem settleMarks_keeps (s : State) (x1 : Machine.Stream) : Keeps s (settleMarks s x1) := by
  unfold settleMarks
  repeat' first
  | with_reducible first
    | apply Keeps.refl | apply Keeps.ite | apply Keeps.after (State_setEntry_keeps ..)
  | dsimp only
  | with_reducible apply Keeps.after (foldl_keeps _ (fun _ _ => ?_) _ _)
theorem settleWait_keeps (k : Nat) (s : State) : Keeps s (settleWait k s) := by
  unfold settleWait
  repeat' first
  | with_reducible first
    | apply Keeps.refl | apply Keeps.ite | apply Keeps.after (State_setStrm_keeps ..)
    | apply Keeps.after (State_setDie_keeps ..)
  | split
theorem settleStream_keeps (s : State) (k : Nat) : Keeps s (settleStream s k) := by
  unfold settleStream
  repeat' first
  | with_reducible first
    | apply Keeps.refl | apply Keeps.ite | apply Keeps.after (settleMarks_keeps ..)
    | apply Keeps.after (State_setStrm_keeps ..) | apply Keeps.after (settleWait_keeps ..)
  | (simp only [mk_anew]; with_reducible apply Keeps.after (anew_keeps ..))
  | dsimp only
  | split
theorem settleCodec_keeps (s : State) : Keeps s (settleCodec s) := by
  unfold settleCodec
  repeat' first
  | with_reducible first
    | apply Keeps.refl | apply Keeps.after (settleStream_keeps ..) | apply Keeps.after (foldl_keeps _ (fun _ _ => ?_) _ _)
theorem padActs_keeps (x0 : Machine.Stream) (p : CurPic) (s : State) : Keeps s ((padActs x0 p s).1) := by
  unfold padActs
  repeat' first
  | with_reducible apply Keeps.refl
  | (simp only [mk_anew]; with_reducible apply Keeps.after (anew_keeps ..))
  | dsimp only
  | with_reducible apply Keeps.after (foldl_keeps1 _ (fun _ _ => ?_) _ _)
theorem queueShows_keeps (k : Nat) (x1 : Machine.Stream) (ns : List Nat) (s : State) : Keeps s (queueShows k x1 ns s) := by
  unfold queueShows
  repeat' first | with_reducible apply Keeps.refl | with_reducible apply Keeps.after (State_setStrm_keeps ..)
theorem publish_keeps (k slot : Nat) (r : State × List CodecAct) : Keeps r.1 (publish k slot r).1 := by
  unfold publish
  repeat' first
  | with_reducible first
    | apply Keeps.refl | apply Keeps.after (State_setStrm_keeps ..) | apply Keeps.after (State_setEntry_keeps ..)
  | dsimp only
  | split
theorem showGo_keeps (k limit n : Nat) (r : State × List CodecAct) : Keeps r.1 (showGo k limit n r).1 := by
  induction n generalizing r with
  | zero => exact Keeps.refl _
  | succ n ih =>
    unfold showGo
    repeat' split
    all_goals first
    | exact Keeps.refl _
    | exact (Keeps.trans (State_setStrm_keeps ..) (publish_keeps k _ (r.1.setStrm k _, r.2))).trans (ih _)
theorem showReady_keeps (k : Nat) (r : State × List CodecAct) : Keeps r.1 (showReady k r).1 := by
  unfold showReady
  repeat' split
  all_goals first
  | exact Keeps.refl _
  | exact showGo_keeps ..
theorem endDecoded_keeps (k : Nat) (p0 : CurPic) (s : State) : Keeps s ((endDecoded k p0 s).1) := by
  unfold endDecoded
  repeat' first
  | with_reducible first
    | apply Keeps.refl | apply Keeps.after (padActs_keeps ..) | apply Keeps.after (State_setStrm_keeps ..)
    | apply Keeps.after (State_setEntry_keeps ..) | apply Keeps.after (queueShows_keeps ..)
    | apply Keeps.after (showReady_keeps ..)
  | (simp only [mk_anew]; with_reducible apply Keeps.after (anew_keeps ..))
  | dsimp only
  | with_reducible apply Keeps.after (foldl_keeps _ (fun _ _ => ?_) _ _)
  | split
theorem beginDecoded_keeps (k : Nat) (slot : Nat) (h : PicHeader) (s : State) : Keeps s (beginDecoded k slot h s) := by
  unfold beginDecoded
  repeat' first
  | with_reducible first
    | apply Keeps.refl | apply Keeps.after (State_setStrm_keeps ..) | apply Keeps.after (State_setEntry_keeps ..)
  | dsimp only
  | split
theorem did_keeps {s0 : State} {va kind} {ok : List Byte → State → Did} {a : Acc} (h : Keeps s0 (Acc.st a))
    (hk : ∀ bs s, Keeps s (didSt (ok bs s))) : Keeps s0 (didSt (a.did va kind ok)) := by
  cases a
  · exact h.trans (hk _ _)
  · exact h
  · exact h
theorem bumpCounter_keeps (ag : Agent) (va : Nat) (f : Nat → Nat) (s : State) : Keeps s (didSt (bumpCounter ag va f s)) := by
  unfold bumpCounter
  repeat' first
  | with_reducible first
    | apply Keeps.refl | apply Keeps.after (readGranule_keeps ..) | apply Keeps.after (writeGranule_keeps ..)
    | apply Keeps.stDok | apply Keeps.stDfault | apply Keeps.stDbad | refine Keeps.ofAok (by assumption) ?_
    | refine Keeps.ofAfault (by assumption) ?_ | refine Keeps.ofAbad (by assumption) ?_
  | split
theorem pushActs_keeps (c : Nat) (acts : List CodecAct) (s : State) : Keeps s (pushActs c acts s) := by
  unfold pushActs
  repeat' first | with_reducible apply Keeps.refl | with_reducible apply Keeps.after (State_setCore_keeps ..)
theorem gotBytes_keeps (c : Nat) (bs : List Byte) (hurt : List (Nat × Nat)) (s : State) : Keeps s (gotBytes c bs hurt s) := by
  unfold gotBytes
  repeat' first | with_reducible apply Keeps.refl | with_reducible apply Keeps.after (State_setCore_keeps ..)
theorem enterUnit_keeps (c : Nat) (k : Nat) (u : List Byte) (i : UnitInfo) (s : State) : Keeps s (enterUnit c k u i s) := by
  unfold enterUnit
  repeat' first
  | with_reducible first
    | apply Keeps.refl | apply Keeps.after (State_setCore_keeps ..) | apply Keeps.after (beginDecoded_keeps ..)
    | apply Keeps.after (State_setStrm_keeps ..) | apply Keeps.after (pushActs_keeps ..)
  | dsimp only
  | split
theorem parseUnit_keeps (c : Nat) (k : Nat) (s : State) : Keeps s (didSt (parseUnit c k s)) := by
  unfold parseUnit
  repeat' first
  | with_reducible first
    | apply Keeps.refl | apply Keeps.ite | apply Keeps.after (endDecoded_keeps ..) | apply Keeps.after (pushActs_keeps ..)
    | apply Keeps.after (bumpCounter_keeps ..) | apply Keeps.after (State_setStrm_keeps ..)
    | apply Keeps.after (failStream_keeps ..) | apply Keeps.after (enterUnit_keeps ..) | apply Keeps.stDok
    | apply Keeps.stDfault | apply Keeps.stDbad | apply Keeps.iteDid
  | dsimp only
  | with_reducible first
    | refine Keeps.ofDok (by assumption) ?_ | refine Keeps.ofDfault (by assumption) ?_ | refine Keeps.ofDbad (by assumption) ?_
  | split
theorem doAct_keeps (c : Nat) (k : Nat) (client : Nat) (a : CodecAct) (s : State) : Keeps s (didSt (doAct c k client a s)) := by
  unfold doAct
  repeat' first
  | with_reducible first
    | apply Keeps.refl | apply Keeps.after (gotBytes_keeps ..) | apply Keeps.after (readGranule_keeps ..)
    | apply Keeps.after (parseUnit_keeps ..) | apply Keeps.after (writeGranule_keeps ..)
    | apply Keeps.after (bumpCounter_keeps ..) | apply Keeps.after (endFlush_keeps ..) | refine did_keeps ?_ (fun _ _ => ?_)
  | (simp only [mk_anew]; with_reducible apply Keeps.after (anew_keeps ..))
  | with_reducible apply Keeps.stDok
  | dsimp only
  | with_reducible refine Keeps.ofAbad (by assumption) ?_
  | split
theorem coreFault_keeps (c : Nat) (k : Nat) (client : Nat) (va : Nat) (cls : Nat) (kind : AccKind) (s : State) : Keeps s (coreFault c k client va cls kind s) := by
  unfold coreFault
  repeat' first
  | with_reducible first
    | apply Keeps.refl | apply Keeps.ite | apply Keeps.after (postFault_keeps ..) | apply Keeps.after (failStream_keeps ..)
    | apply Keeps.after (State_setCore_keeps ..)
theorem actsGo_keeps (c : Nat) (k : Nat) (client : Nat) (codec : Nat) (x4 : Nat) (x5 : State) : Keeps x5 (actsGo c k client codec x4 x5) := by
  induction x4 generalizing x5 with
  | zero =>
    unfold actsGo
    repeat' first | with_reducible apply Keeps.refl
  | succ n ih =>
    unfold actsGo
    repeat' first
    | with_reducible first
      | apply Keeps.refl | apply Keeps.ite | apply Keeps.after (ih ..) | apply Keeps.after (doAct_keeps ..)
      | apply Keeps.after (State_setCore_keeps ..) | apply Keeps.after (coreFault_keeps ..)
      | apply Keeps.after (failStream_keeps ..)
    | dsimp only
    | with_reducible first
      | refine Keeps.ofDok (by assumption) ?_ | refine Keeps.ofDfault (by assumption) ?_
      | refine Keeps.ofDbad (by assumption) ?_
    | split
theorem settleCore_keeps (c : Nat) (s : State) : Keeps s (settleCore c s) := by
  unfold settleCore
  repeat' first
  | with_reducible first
    | apply Keeps.refl | apply Keeps.ite | apply Keeps.after (freeCore_keeps ..)
  | dsimp only
  | split
theorem coreActs_keeps (c : Nat) (k : Nat) (x2 : Machine.Stream) (s : State) : Keeps s (coreActs c k x2 s) := by
  unfold coreActs
  repeat' first
  | with_reducible first
    | apply Keeps.refl | apply Keeps.ite | apply Keeps.after (actsGo_keeps ..)
theorem workCore_keeps (c : Nat) (s : State) : Keeps s (workCore c s) := by
  unfold workCore
  repeat' first
  | with_reducible first
    | apply Keeps.refl | apply Keeps.ite | apply Keeps.after (settleCodec_keeps ..) | apply Keeps.after (settleCore_keeps ..)
    | apply Keeps.after (coreActs_keeps ..)
  | dsimp only
  | split
theorem workAll_keeps (s : State) : Keeps s (workAll s) := by
  unfold workAll
  repeat' first
  | with_reducible first
    | apply Keeps.refl | apply Keeps.after (workCore_keeps ..) | apply Keeps.after (foldl_keeps _ (fun _ _ => ?_) _ _)
theorem streamDone_keeps (c : Nat) (n : Nat) (d : Desc) (status : Nat) (s : State) : Keeps s (streamDone c n d status s) := by
  unfold streamDone
  repeat' first | with_reducible apply Keeps.refl | with_reducible apply Keeps.after (completeDesc_keeps ..)
theorem openBlock_keeps (c : Nat) (n : Nat) (d : Desc) (b : List Byte) (s : State) : Keeps s (openBlock c n d b s) := by
  unfold openBlock
  repeat' first
  | with_reducible first
    | apply Keeps.refl | apply Keeps.ite | apply Keeps.after (streamDone_keeps ..) | apply Keeps.after (writeRange_keeps ..)
    | apply Keeps.after (dmaFault_keeps ..) | apply Keeps.after (settleCodec_keeps ..)
  | (simp only [mk_anew]; with_reducible apply Keeps.after (anew_keeps ..))
  | dsimp only
  | with_reducible first
    | refine Keeps.ofRok (by assumption) ?_ | refine Keeps.ofRfault (by assumption) ?_ | refine Keeps.ofRbad (by assumption) ?_
  | split
theorem openStream_keeps (c : Nat) (n : Nat) (d : Desc) (s : State) : Keeps s (openStream c n d s) := by
  unfold openStream
  split
  · exact Keeps.refl _
  · have hk := readRange_keeps s (dmaAgent c) .read (recField d.bytes 24 8) 256
    split
    · next e => rw [e] at hk; exact Keeps.trans hk ((startDesc_keeps ..).trans (openBlock_keeps ..))
    · next e => rw [e] at hk; exact Keeps.trans hk ((startDesc_keeps ..).trans (dmaFault_keeps ..))
    · next e => rw [e] at hk; exact Keeps.trans hk (streamDone_keeps ..)
theorem streamOpenDesc_keeps (c : Nat) (n : Nat) (s : State) : Keeps s (streamOpenDesc c n s) := by
  unfold streamOpenDesc
  repeat' first | with_reducible apply Keeps.refl | with_reducible apply Keeps.after (openStream_keeps ..) | split
theorem streamFlushDesc_keeps (c : Nat) (n : Nat) (s : State) : Keeps s (streamFlushDesc c n s) := by
  unfold streamFlushDesc
  repeat' first
  | with_reducible first
    | apply Keeps.refl | apply Keeps.after (streamDone_keeps ..) | apply Keeps.after (freeStatus_keeps ..)
    | apply Keeps.after (settleCodec_keeps ..) | apply Keeps.after (State_setStrm_keeps ..)
    | apply Keeps.after (startDesc_keeps ..)
  | dsimp only
  | split
theorem streamCloseDesc_keeps (c : Nat) (n : Nat) (s : State) : Keeps s (streamCloseDesc c n s) := by
  unfold streamCloseDesc
  repeat' first
  | with_reducible first
    | apply Keeps.refl | apply Keeps.after (streamDone_keeps ..) | apply Keeps.after (freeStatus_keeps ..)
    | apply Keeps.after (settleCodec_keeps ..) | apply Keeps.after (dropStream_keeps ..)
  | split
theorem beginPicture_keeps (k : Nat) (x1 : Machine.Stream) (s : State) : Keeps s (beginPicture k x1 s) := by
  unfold beginPicture
  repeat' first
  | with_reducible first
    | apply Keeps.refl | apply Keeps.after (State_setStrm_keeps ..) | apply Keeps.after (State_setEntry_keeps ..)
  | dsimp only
  | split
theorem endingWork_keeps (k : Nat) (x1 : Machine.Stream) (s : State) : Keeps s ((endingWork k x1 s).1) := by
  unfold endingWork
  repeat' first
  | with_reducible first
    | apply Keeps.refl | apply Keeps.after (State_setStrm_keeps ..) | apply Keeps.after (showReady_keeps ..)
    | apply Keeps.iteFst
  | dsimp only
theorem startWork_keeps (c : Nat) (k : Nat) (x2 : Machine.Stream) (s : State) : Keeps s (startWork c k x2 s) := by
  unfold startWork
  repeat' first
  | with_reducible first
    | apply Keeps.refl | apply Keeps.ite | apply Keeps.after (endingWork_keeps ..) | apply Keeps.after (pushActs_keeps ..)
    | apply Keeps.after (beginPicture_keeps ..) | apply Keeps.after (State_setCore_keeps ..)
    | apply Keeps.after (State_setStrm_keeps ..) | apply Keeps.after (endDecoded_keeps ..)
    | apply Keeps.after (showReady_keeps ..)
  | dsimp only
  | split
theorem sliceStart_keeps (c : Nat) (s : State) : Keeps s (sliceStart c s) := by
  unfold sliceStart
  repeat' first
  | with_reducible first
    | apply Keeps.refl | apply Keeps.ite | apply Keeps.after (State_setCore_keeps ..) | apply Keeps.after (freeCore_keeps ..)
    | apply Keeps.after (State_setStrm_keeps ..) | apply Keeps.after (settleCodec_keeps ..)
    | apply Keeps.after (failStream_keeps ..) | apply Keeps.after (coreFault_keeps ..) | apply Keeps.after (workCore_keeps ..)
    | apply Keeps.after (startWork_keeps ..)
  | dsimp only
  | split
theorem closeUnit_keeps (k : Nat) (u : List Byte) (s : State) : Keeps s (closeUnit k u s) := by
  unfold closeUnit
  repeat' first | with_reducible apply Keeps.refl | with_reducible apply Keeps.after (State_setStrm_keeps ..)
theorem decodeSlice_keeps (c : Nat) (k : Nat) (x2 : Machine.Stream) (u : List Byte) (s : State) : Keeps s ((decodeSlice c k x2 u s).1) := by
  unfold decodeSlice
  repeat' first
  | with_reducible first
    | apply Keeps.refl | apply Keeps.after (closeUnit_keeps ..) | apply Keeps.after (State_setStrm_keeps ..)
    | apply Keeps.after (queueShows_keeps ..) | apply Keeps.after (endDecoded_keeps ..)
    | apply Keeps.after (showReady_keeps ..) | apply Keeps.iteFst
  | dsimp only
  | split
theorem encMarks_keeps (x0 : Machine.Stream) (p : CurPic) (s : State) : Keeps s (encMarks x0 p s) := by
  unfold encMarks
  repeat' first
  | with_reducible first
    | apply Keeps.refl | apply Keeps.after (State_setEntry_keeps ..)
  | dsimp only
  | with_reducible apply Keeps.after (foldl_keeps _ (fun _ _ => ?_) _ _)
theorem encodeSlice_keeps (c : Nat) (k : Nat) (x2 : Machine.Stream) (p0 : CurPic) (s : State) : Keeps s ((encodeSlice c k x2 p0 s).1) := by
  unfold encodeSlice
  repeat' first
  | with_reducible first
    | apply Keeps.refl | apply Keeps.ite | apply Keeps.after (State_setStrm_keeps ..) | apply Keeps.after (encMarks_keeps ..)
  | (simp only [mk_anew]; with_reducible apply Keeps.after (anew_keeps ..))
theorem endSlice_keeps (c : Nat) (k : Nat) (x2 : Machine.Stream) (u : List Byte) (s : State) : Keeps s ((endSlice c k x2 u s).1) := by
  unfold endSlice
  repeat' first
  | with_reducible first
    | apply Keeps.refl | apply Keeps.after (encodeSlice_keeps ..) | apply Keeps.after (closeUnit_keeps ..)
    | apply Keeps.after (decodeSlice_keeps ..) | apply Keeps.iteFst
  | split
theorem sliceComplete_keeps (c part : Nat) (s : State) : Keeps s (sliceComplete c part s) := by
  unfold sliceComplete
  repeat' first
  | with_reducible first
    | apply Keeps.refl | apply Keeps.ite | apply Keeps.after (State_setCore_keeps ..) | apply Keeps.after (State_setStrm_keeps ..)
    | apply Keeps.after (settleCodec_keeps ..) | apply Keeps.after (settleCore_keeps ..)
    | apply Keeps.after (endSlice_keeps ..) | apply Keeps.after (workCore_keeps ..)
  | dsimp only
  | split
theorem codecTick_keeps (s : State) : Keeps s (codecTick s) := by
  unfold codecTick
  repeat' first
  | with_reducible first
    | apply Keeps.refl | apply Keeps.ite | apply Keeps.after (State_setCore_keeps ..)
    | apply Keeps.after (foldl_keeps _ (fun _ _ => ?_) _ _)
theorem budgetExpiry_keeps (c : Nat) (s : State) : Keeps s (budgetExpiry c s) := by
  unfold budgetExpiry
  repeat' first
  | with_reducible first
    | apply Keeps.refl | apply Keeps.ite | apply Keeps.after (State_setCore_keeps ..)
    | apply Keeps.after (State_setStrm_keeps ..) | apply Keeps.after (closeUnit_keeps ..)
    | apply Keeps.after (endDecoded_keeps ..) | apply Keeps.after (workCore_keeps ..) | apply Keeps.after (settleCore_keeps ..)
  | (simp only [mk_anew]; with_reducible apply Keeps.after (anew_keeps ..))
  | dsimp only
  | with_reducible apply Keeps.after (foldl_keeps _ (fun _ _ => ?_) _ _)
  | split
theorem codecLimit_keeps (c : Nat) (s : State) : Keeps s (codecLimit c s) := by
  unfold codecLimit
  repeat' first
  | with_reducible first
    | apply Keeps.refl | apply Keeps.ite | apply Keeps.after (settleCodec_keeps ..) | apply Keeps.after (failStream_keeps ..)
  | split
theorem resumeCore_keeps (c : Nat) (id : Nat) (s : State) : Keeps s (resumeCore c id s) := by
  unfold resumeCore
  repeat' first
  | with_reducible first
    | apply Keeps.refl | apply Keeps.ite | apply Keeps.after (workCore_keeps ..) | apply Keeps.after (State_setCore_keeps ..)
theorem failCore_keeps (c : Nat) (id : Nat) (s : State) : Keeps s (failCore c id s) := by
  unfold failCore
  repeat' first
  | with_reducible first
    | apply Keeps.refl | apply Keeps.ite | apply Keeps.after (settleCodec_keeps ..) | apply Keeps.after (failStream_keeps ..)
  | split
theorem wakeCore_keeps (c : Nat) (s : State) : Keeps s (wakeCore c s) := by
  unfold wakeCore
  repeat' first
  | with_reducible first
    | apply Keeps.refl | apply Keeps.ite | apply Keeps.after (workCore_keeps ..) | apply Keeps.after (State_setCore_keeps ..)
theorem fenceCore_keeps (c : Nat) (s : State) : Keeps s (fenceCore c s) := by
  unfold fenceCore
  repeat' first
  | with_reducible first
    | apply Keeps.refl | apply Keeps.ite | apply Keeps.after (settleCodec_keeps ..) | apply Keeps.after (settleCore_keeps ..)
    | apply Keeps.after (State_setCore_keeps ..)
theorem unfenceCore_keeps (c : Nat) (s : State) : Keeps s (unfenceCore c s) := by
  unfold unfenceCore
  repeat' first
  | with_reducible first
    | apply Keeps.refl | apply Keeps.ite | apply Keeps.after (State_setCore_keeps ..)
theorem testCore_keeps (c : Nat) (s : State) : Keeps s (testCore c s) := by
  unfold testCore
  repeat' first | with_reducible apply Keeps.refl | with_reducible apply Keeps.after (State_setCore_keeps ..)
theorem endStreams_keeps (c : Nat) (s : State) : Keeps s (endStreams c s) := by
  unfold endStreams
  repeat' first
  | with_reducible first
    | apply Keeps.refl | apply Keeps.after (dropStream_keeps ..) | apply Keeps.after (State_setStrm_keeps ..)
    | apply Keeps.after (foldl_keeps _ (fun _ _ => ?_) _ _)
theorem refusePost_keeps (c : Nat) (n : Nat) (epoch : Nat) (d : Desc) (bs : List Byte) (s : State) : Keeps s (refusePost c n epoch d bs s) := by
  unfold refusePost
  repeat' first
  | with_reducible first
    | apply Keeps.refl | apply Keeps.after (looseWord_keeps ..) | apply Keeps.after (completeDesc_keeps ..)
    | apply Keeps.after (dmaFault_keeps ..) | apply Keeps.after (startDesc_keeps ..)
  | dsimp only
  | with_reducible first
    | refine Keeps.ofOk (by assumption) ?_ | refine Keeps.ofFault (by assumption) ?_ | refine Keeps.ofBad (by assumption) ?_
  | split
theorem collPost_keeps (c : Nat) (n : Nat) (d : Desc) (s : State) : Keeps s (collPost c n d s) := by
  unfold collPost
  split
  · exact Keeps.refl _
  · extract_lets ag member
    have hk := readRange_keeps s ag .read (recField d.bytes 24 8) 64
    split
    · next e => rw [e] at hk; exact Keeps.trans hk ((startDesc_keeps ..).trans (dmaFault_keeps ..))
    · next e => rw [e] at hk; exact Keeps.trans hk (completeDesc_keeps ..)
    · next bs s1 e =>
      rw [e] at hk
      split
      · exact Keeps.trans hk (refusePost_keeps ..)
      · next g _ =>
        extract_lets e r
        split
        · exact Keeps.trans hk (refusePost_keeps ..)
        have hp := (startDesc_keeps c n d.id s1).trans (postRecord_keeps ag g r _)
        split
        · next z e3 => rw [e3] at hp; exact (Keeps.trans hk hp).trans (settleLost_keeps ..)
        · exact setDesc_keeps ..
        · next z e3 => rw [e3] at hp; exact (Keeps.trans hk hp).trans (settleLost_keeps ..)
        · next z e3 => rw [e3] at hp; exact (Keeps.trans hk hp).trans (dmaFault_keeps ..)
        · next z e3 => rw [e3] at hp; exact (Keeps.trans hk hp).trans (completeDesc_keeps ..)
theorem collOpen_keeps (c : Nat) (n : Nat) (d : Desc) (s : State) : Keeps s (collOpen c n d s) := by
  unfold collOpen
  repeat' first
  | with_reducible first
    | apply Keeps.refl | apply Keeps.ite | apply Keeps.after (readRange_keeps ..) | apply Keeps.after (dmaFault_keeps ..)
    | apply Keeps.after (startDesc_keeps ..) | apply Keeps.after (completeDesc_keeps ..) | apply Keeps.after (bindCtx_keeps ..)
  | (simp only [mk_anew]; with_reducible apply Keeps.after (anew_keeps ..))
  | dsimp only
  | with_reducible first
    | refine Keeps.ofRok (by assumption) ?_ | refine Keeps.ofRfault (by assumption) ?_ | refine Keeps.ofRbad (by assumption) ?_
  | split
theorem collPostDesc_keeps (c : Nat) (n : Nat) (s : State) : Keeps s (collPostDesc c n s) := by
  unfold collPostDesc
  repeat' first | with_reducible apply Keeps.refl | with_reducible apply Keeps.after (collPost_keeps ..) | split
theorem collOpenDesc_keeps (c : Nat) (n : Nat) (s : State) : Keeps s (collOpenDesc c n s) := by
  unfold collOpenDesc
  repeat' first | with_reducible apply Keeps.refl | with_reducible apply Keeps.after (collOpen_keeps ..) | split
theorem collCloseDesc_keeps (c : Nat) (n : Nat) (s : State) : Keeps s (collCloseDesc c n s) := by
  unfold collCloseDesc
  repeat' first
  | with_reducible first
    | apply Keeps.refl | apply Keeps.ite | apply Keeps.after (completeDesc_keeps ..) | apply Keeps.after (freeStatus_keeps ..)
    | apply Keeps.after (dropColl_keeps ..) | apply Keeps.after (State_setCtx_keeps ..)
    | apply Keeps.after (endRecords_keeps ..) | apply Keeps.after (releaseGroups_keeps ..)
    | apply Keeps.after (freeOneCtx_keeps ..) | apply Keeps.after (mortarWork_keeps ..)
  | dsimp only
  | split
theorem rowWrite_keeps (fn : Nat) (wo : Option (Nat × W32)) (s : State) : Keeps s (rowWrite fn wo s) := by
  unfold rowWrite
  repeat' first
  | with_reducible apply Keeps.refl
  | (simp only [mk_anew]; with_reducible apply Keeps.after (anew_keeps ..))
  | dsimp only
  | split
theorem writeResp_keeps (c : Nat) (id : BitVec 48) (s : State) : Keeps s (writeResp c id s) := by
  unfold writeResp
  repeat' first | with_reducible apply Keeps.refl | with_reducible apply Keeps.after (rowWrite_keeps ..)
theorem dropFault_keeps (c : Nat) (id : Nat) (s : State) : Keeps s (dropFault c id s) := by
  unfold dropFault
  repeat' first | with_reducible apply Keeps.refl | with_reducible apply Keeps.after (State_setClient_keeps ..)
theorem resumeDma_keeps (c : Nat) (n : Nat) (id : Nat) (s : State) : Keeps s (resumeDma c n id s) := by
  unfold resumeDma
  repeat' first
  | with_reducible first
    | apply Keeps.refl | apply Keeps.ite | apply Keeps.after (setDesc_keeps ..) | apply Keeps.after (resumeCopy_keeps ..)
    | apply Keeps.after (openStream_keeps ..) | apply Keeps.after (collPost_keeps ..) | apply Keeps.after (collOpen_keeps ..)
  | dsimp only
  | split
theorem failDma_keeps (c : Nat) (n : Nat) (id : Nat) (s : State) : Keeps s (failDma c n id s) := by
  unfold failDma
  repeat' first
  | with_reducible first
    | apply Keeps.refl | apply Keeps.after (completeDesc_keeps ..) | apply Keeps.after (setDesc_keeps ..)
  | split
theorem answerResume_keeps (c : Nat) (id : BitVec 48) (s : State) : Keeps s (answerResume c id s) := by
  unfold answerResume
  repeat' first
  | with_reducible first
    | apply Keeps.refl | apply Keeps.ite | apply Keeps.after (State_setClient_keeps ..) | apply Keeps.after (goSett_keeps ..)
    | apply Keeps.after (dropFault_keeps ..) | apply Keeps.after (settleDoom_keeps ..) | apply Keeps.after (resumeCtx_keeps ..)
    | apply Keeps.after (resumeCore_keeps ..) | apply Keeps.after (resumeDma_keeps ..)
  | dsimp only
  | split
theorem takeAnswers_keeps (s : State) : Keeps s (takeAnswers s) := by
  unfold takeAnswers
  repeat' first
  | with_reducible first
    | apply Keeps.refl | apply Keeps.ite | apply Keeps.after (goSett_keeps ..) | apply Keeps.after (dropFault_keeps ..)
    | apply Keeps.after (State_setClient_keeps ..)
  | dsimp only
  | with_reducible apply Keeps.after (foldl_keeps _ (fun _ _ => ?_) _ _)
  | split
theorem answerFail_keeps (c : Nat) (id : BitVec 48) (s : State) : Keeps s (answerFail c id s) := by
  unfold answerFail
  repeat' first
  | with_reducible first
    | apply Keeps.refl | apply Keeps.ite | apply Keeps.after (settleClass_keeps ..) | apply Keeps.after (abandonRun_keeps ..)
    | apply Keeps.after (failRun_keeps ..) | apply Keeps.after (settleDoom_keeps ..) | apply Keeps.after (failCtx_keeps ..)
    | apply Keeps.after (dropFault_keeps ..) | apply Keeps.after (failCore_keeps ..) | apply Keeps.after (failDma_keeps ..)
  | dsimp only
  | split
theorem writeFqTail_keeps (c : Nat) (v : W32) (s : State) : Keeps s (writeFqTail c v s) := by
  unfold writeFqTail
  repeat' first
  | with_reducible first
    | apply Keeps.refl | apply Keeps.after (drainFaults_keeps ..) | apply Keeps.after (State_setClient_keeps ..)
theorem writeFqBase_keeps (c : Nat) (v : W64) (s : State) : Keeps s (writeFqBase c v s) := by
  unfold writeFqBase
  repeat' first
  | with_reducible first
    | apply Keeps.refl | apply Keeps.after (drainFaults_keeps ..) | apply Keeps.after (State_setClient_keeps ..)
theorem writeFqCtrl_keeps (c : Nat) (v : W32) (s : State) : Keeps s (writeFqCtrl c v s) := by
  unfold writeFqCtrl
  repeat' first
  | with_reducible first
    | apply Keeps.refl | apply Keeps.after (drainFaults_keeps ..) | apply Keeps.after (State_setClient_keeps ..)
theorem dropResident_keeps (p : Resident → Bool) (s : State) : Keeps s (dropResident p s) := by
  unfold dropResident
  repeat' first | with_reducible apply Keeps.refl | (simp only [mk_anew]; with_reducible apply Keeps.after (anew_keeps ..))
theorem invalidate_keeps (va : W64) (ctrl : W32) (s : State) : Keeps s (invalidate va ctrl s) := by
  unfold invalidate
  repeat' first
  | with_reducible first
    | apply Keeps.refl | apply Keeps.ite | apply Keeps.after (flushTlbs_keeps ..) | apply Keeps.after (dropResident_keeps ..)
  | (simp only [mk_anew]; with_reducible apply Keeps.after (anew_keeps ..))
theorem invalDone_keeps (s : State) : Keeps s (invalDone s) := by
  unfold invalDone
  repeat' first
  | with_reducible first
    | apply Keeps.refl | apply Keeps.after (flushTlbs_keeps ..)
  | (simp only [mk_anew]; with_reducible apply Keeps.after (anew_keeps ..))
  | dsimp only
  | split
theorem resetQueues_keeps (c : Nat) (s : State) : Keeps s (resetQueues c s) := by
  unfold resetQueues
  repeat' first | with_reducible apply Keeps.refl | with_reducible apply Keeps.after (State_setCl_keeps ..)
theorem resetRuns_keeps (c : Nat) (s : State) : Keeps s (resetRuns c s) := by
  unfold resetRuns
  repeat' first
  | with_reducible first
    | apply Keeps.refl | apply Keeps.ite | apply Keeps.after (stopOthers_keeps ..) | apply Keeps.after (freeArray_keeps ..)
    | apply Keeps.after (clearRun_keeps ..) | apply Keeps.after (dropRun_keeps ..)
  | dsimp only
  | with_reducible apply Keeps.after (foldl_keeps _ (fun _ _ => ?_) _ _)
  | split
theorem resetFaults_keeps (c : Nat) (s : State) : Keeps s (resetFaults c s) := by
  unfold resetFaults
  repeat' first
  | with_reducible first
    | apply Keeps.refl | apply Keeps.after (State_setClient_keeps ..)
  | (simp only [mk_anew]; with_reducible apply Keeps.after (anew_keeps ..))
theorem resetClient_keeps (c : Nat) (s : State) : Keeps s (resetClient c s) := by
  unfold resetClient
  repeat' first
  | with_reducible first
    | apply Keeps.refl | apply Keeps.after (resetFaults_keeps ..) | apply Keeps.after (resetRuns_keeps ..)
    | apply Keeps.after (resetQueues_keeps ..) | apply Keeps.after (settleCodec_keeps ..)
    | apply Keeps.after (endStreams_keeps ..) | apply Keeps.after (releaseGroups_keeps ..)
    | apply Keeps.after (dropResident_keeps ..) | apply Keeps.after (settleClass_keeps ..)
    | apply Keeps.after (State_setCl_keeps ..)
theorem resetBox_keeps (k : Nat) (s : State) : Keeps s (resetBox k s) := by
  unfold resetBox
  repeat' first | with_reducible apply Keeps.refl | (simp only [mk_anew]; with_reducible apply Keeps.after (anew_keeps ..))
theorem resetPf_keeps (s : State) : Keeps s (resetPf s) := by
  unfold resetPf
  repeat' first
  | with_reducible first
    | apply Keeps.refl | apply Keeps.after (resetClient_keeps ..) | apply Keeps.after (resetBox_keeps ..)
  | (simp only [mk_anew]; with_reducible apply Keeps.after (anew_keeps ..))
  | with_reducible apply Keeps.after (foldl_keeps _ (fun _ _ => ?_) _ _)
theorem bar2Error_keeps (off : Nat) (write : Bool) (s : State) : Keeps s (bar2Error off write s) := by
  unfold bar2Error
  repeat' first | with_reducible apply Keeps.refl | (simp only [mk_anew]; with_reducible apply Keeps.after (anew_keeps ..))
theorem bar2ReadAt_keeps (c : Nat) (off : Nat) (len : Nat) (s : State) : Keeps s (bar2ReadAt c off len s) := by
  unfold bar2ReadAt
  repeat' first
  | with_reducible first
    | apply Keeps.refl | apply Keeps.ite | apply Keeps.after (State_emit_keeps ..) | apply Keeps.after (bar2Error_keeps ..)
    | apply Keeps.after (readRange_keeps ..) | apply Keeps.after (State_setCl_keeps ..) | refine Keeps.ofAok (by assumption) ?_
    | refine Keeps.ofAfault (by assumption) ?_ | refine Keeps.ofAbad (by assumption) ?_
  | split
theorem bar2WriteAt_keeps (c : Nat) (off : Nat) (bs : List Byte) (s : State) : Keeps s (bar2WriteAt c off bs s) := by
  unfold bar2WriteAt
  repeat' first
  | with_reducible first
    | apply Keeps.refl | apply Keeps.ite | apply Keeps.after (bar2Error_keeps ..) | apply Keeps.after (writeRange_keeps ..)
    | refine Keeps.ofAok (by assumption) ?_ | refine Keeps.ofAfault (by assumption) ?_ | refine Keeps.ofAbad (by assumption) ?_
  | split
theorem msixFlush_keeps (fn : Nat) (s : State) : Keeps s (msixFlush fn s) := by
  unfold msixFlush
  repeat' first
  | with_reducible first
    | apply Keeps.refl | apply Keeps.ite | apply Keeps.after (State_emit_keeps ..)
  | (simp only [mk_anew]; with_reducible apply Keeps.after (anew_keeps ..))
  | dsimp only
  | with_reducible apply Keeps.after (foldl_keeps _ (fun _ _ => ?_) _ _)
theorem flrConfig_keeps (fn : Nat) (s : State) : Keeps s (flrConfig fn s) := by
  unfold flrConfig
  repeat' first | with_reducible apply Keeps.refl | (simp only [mk_anew]; with_reducible apply Keeps.after (anew_keeps ..))
theorem flr_keeps (fn : Nat) (s : State) : Keeps s (flr fn s) := by
  unfold flr
  repeat' first
  | with_reducible first
    | apply Keeps.refl | apply Keeps.ite | apply Keeps.after (flrConfig_keeps ..) | apply Keeps.after (resetPf_keeps ..)
    | apply Keeps.after (resetClient_keeps ..)
theorem cfgWrite_keeps (fn : Nat) (dw : Nat) (v : W32) (s : State) : Keeps s (cfgWrite fn dw v s) := by
  unfold cfgWrite
  repeat' first
  | with_reducible first
    | apply Keeps.refl | apply Keeps.ite | apply Keeps.after (flr_keeps ..) | apply Keeps.after (msixFlush_keeps ..)
  | (simp only [mk_anew]; with_reducible apply Keeps.after (anew_keeps ..))
theorem cfgRequest_keeps (fn : Nat) (off : Nat) (write : Option W32) (s : State) : Keeps s (cfgRequest fn off write s) := by
  unfold cfgRequest
  repeat' first
  | with_reducible first
    | apply Keeps.refl | apply Keeps.after (State_emit_keeps ..) | apply Keeps.after (cfgWrite_keeps ..)
  | split
theorem bar4Write_keeps (fn : Nat) (off : Nat) (v : W32) (s : State) : Keeps s (bar4Write fn off v s) := by
  unfold bar4Write
  repeat' first
  | with_reducible first
    | apply Keeps.refl | apply Keeps.ite | apply Keeps.after (msixFlush_keeps ..)
  | (simp only [mk_anew]; with_reducible apply Keeps.after (anew_keeps ..))
theorem forClient_keeps (c : Nat) (f : State → State) (h1 : ∀ y0, Keeps y0 (f y0)) (s : State) : Keeps s (forClient c f s) := by
  unfold forClient
  repeat' first | with_reducible apply Keeps.refl | with_reducible apply Keeps.ite | with_reducible apply Keeps.after (h1 ..)
theorem forQueue_keeps (c : Nat) (n : Nat) (f : State → State) (h1 : ∀ y0, Keeps y0 (f y0)) (s : State) : Keeps s (forQueue c n f s) := by
  unfold forQueue
  repeat' first
  | with_reducible first
    | apply Keeps.refl | apply Keeps.ite | apply Keeps.after (h1 ..) | apply Keeps.after (settleDoom_keeps ..)
theorem live_keeps (f : State → State) (h1 : ∀ y0, Keeps y0 (f y0)) (s : State) : Keeps s (live f s) := by
  unfold live
  repeat' first
  | with_reducible first
    | apply Keeps.refl | apply Keeps.ite | apply Keeps.after (h1 ..) | apply Keeps.after (settleDoom_keeps ..)
theorem bar2Read_keeps (c : Nat) (off : Nat) (len : Nat) (s : State) : Keeps s (bar2Read c off len s) := by
  unfold bar2Read
  repeat' first
  | with_reducible first
    | apply Keeps.refl | apply Keeps.ite | apply Keeps.after (bar2ReadAt_keeps ..)
theorem bar2Write_keeps (c : Nat) (off : Nat) (bs : List Byte) (s : State) : Keeps s (bar2Write c off bs s) := by
  unfold bar2Write
  repeat' first
  | with_reducible first
    | apply Keeps.refl | apply Keeps.ite | apply Keeps.after (bar2WriteAt_keeps ..)
theorem State_setHearth_keeps (s : State) (f : Hearth → Hearth) : Keeps s (State.setHearth s f) := by
  unfold State.setHearth
  repeat' first | with_reducible apply Keeps.refl | (simp only [mk_anew]; with_reducible apply Keeps.after (anew_keeps ..))
theorem writeFlash_keeps (a : Nat) (bs : List Byte) (s : State) : Keeps s (writeFlash a bs s) := by
  unfold writeFlash
  repeat' first | with_reducible apply Keeps.refl | with_reducible apply Keeps.after (State_setHearth_keeps ..)
theorem writeHdr_keeps (active : Nat) (trial : Bool) (tries : Nat) (s : State) : Keeps s (writeHdr active trial tries s) := by
  unfold writeHdr
  repeat' first | with_reducible apply Keeps.refl | with_reducible apply Keeps.after (writeFlash_keeps ..)
theorem otpProgram_keeps (a : Nat) (bs : List Byte) (s : State) : Keeps s (otpProgram a bs s) := by
  unfold otpProgram
  repeat' first | with_reducible apply Keeps.refl | with_reducible apply Keeps.after (State_setHearth_keeps ..)
theorem raiseSvn_keeps (n : Nat) (s : State) : Keeps s (raiseSvn n s) := by
  unfold raiseSvn
  repeat' first | with_reducible apply Keeps.refl | with_reducible apply Keeps.after (otpProgram_keeps ..)
theorem writeGen_keeps (fields : List Byte) (s : State) : Keeps s ((writeGen fields s).1) := by
  unfold writeGen
  repeat' first
  | with_reducible first | apply Keeps.refl | apply Keeps.after (otpProgram_keeps ..)
  | (simp only [mk_anew]; with_reducible apply Keeps.after (anew_keeps ..))
  | dsimp only
  | split
theorem writeRepair_keeps (kind : Nat) (die : Nat) (index : Nat) (reason : Nat) (s : State) : Keeps s (writeRepair kind die index reason s) := by
  unfold writeRepair
  repeat' first
  | with_reducible first
    | apply Keeps.refl | apply Keeps.after (otpProgram_keeps ..) | apply Keeps.after (raiseAlarm_keeps ..)
  | (simp only [mk_anew]; with_reducible apply Keeps.after (anew_keeps ..))
  | dsimp only
  | split
theorem extend_keeps (slot : Nat) (digest : List Byte) (s : State) : Keeps s (extend slot digest s) := by
  unfold extend
  repeat' first | with_reducible apply Keeps.refl | with_reducible apply Keeps.after (State_setHearth_keeps ..)
theorem measureOtp_keeps (s : State) : Keeps s (measureOtp s) := by
  unfold measureOtp
  repeat' first | with_reducible apply Keeps.refl | with_reducible apply Keeps.after (extend_keeps ..) | dsimp only | split
theorem measureImage_keeps (slot : Nat) (s : State) : Keeps s (measureImage slot s) := by
  unfold measureImage
  repeat' first
  | with_reducible first
    | apply Keeps.refl | apply Keeps.after (extend_keeps ..)
  | dsimp only
  | with_reducible apply Keeps.after (foldl_keeps _ (fun _ _ => ?_) _ _)
  | split
theorem State_setTelem_keeps (s : State) (f : Telem → Telem) : Keeps s (State.setTelem s f) := by
  unfold State.setTelem
  repeat' first | with_reducible apply Keeps.refl | (simp only [mk_anew]; with_reducible apply Keeps.after (anew_keeps ..))
theorem freezeCrash_keeps (code : Nat) (s : State) : Keeps s (freezeCrash code s) := by
  unfold freezeCrash
  repeat' first
  | with_reducible first
    | apply Keeps.refl | apply Keeps.after (State_setTelem_keeps ..) | apply Keeps.after (raiseAlarm_keeps ..)
  | dsimp only
  | split
theorem crashCopied_keeps (s : State) : Keeps s (crashCopied s) := by
  unfold crashCopied
  repeat' first
  | with_reducible first
    | apply Keeps.refl | apply Keeps.ite | apply Keeps.after (writeFlash_keeps ..)
    | apply Keeps.after (State_setTelem_keeps ..) | apply Keeps.after (State_setHearth_keeps ..)
  | dsimp only
  | split
theorem rearmCrash_keeps (s : State) : Keeps s (rearmCrash s) := by
  unfold rearmCrash
  repeat' first | with_reducible apply Keeps.refl | with_reducible apply Keeps.after (State_setTelem_keeps ..)
theorem writeLog_keeps (bs : List Byte) (s : State) : Keeps s (writeLog bs s) := by
  unfold writeLog
  repeat' first
  | with_reducible first
    | apply Keeps.refl | apply Keeps.ite | apply Keeps.after (State_setHearth_keeps ..)
    | apply Keeps.after (writeFlash_keeps ..)
theorem tripOff_keeps (code : Nat) (s : State) : Keeps s (tripOff code s) := by
  unfold tripOff
  split
  · exact Keeps.refl _
  · extract_lets s1 s2
    have h1 : Keeps s s1 := freezeCrash_keeps ..
    have h2 : Keeps s s2 := setPowerK h1 (fun h => h)
    refine Keeps.trans ?_ (State_emit_keeps ..)
    refine Keeps.trans ?_ (State_emit_keeps ..)
    exact Keeps.upd h2 rfl rfl rfl rfl
theorem alarmIf_keeps (b : Bool) (k : Nat) (level : Nat) (s : State) : Keeps s (alarmIf b k level s) := by
  unfold alarmIf
  repeat' first
  | with_reducible first
    | apply Keeps.refl | apply Keeps.ite | apply Keeps.after (raiseEvent_keeps ..) | apply Keeps.after (raiseAlarm_keeps ..)
theorem actOn_keeps (old : Power) (s : State) : Keeps s (actOn old s) := by
  unfold actOn
  extract_lets p s1 s2 l
  have h2 : Keeps s s2 := (alarmIf_keeps ..).trans (alarmIf_keeps ..)
  split
  · refine setPowerK h2 (fun hp => ?_)
    have hl : l ≤ 3 := wantedLevel_le s.power
    have h0 : 0 < l := by omega
    exact legal_rise _ _ _ hp hl h0
  · exact h2
theorem actAndTrip_keeps (old : Power) (code : Option Nat) (s : State) : Keeps s (actAndTrip old code s) := by
  unfold actAndTrip
  repeat' first
  | with_reducible first
    | apply Keeps.refl | apply Keeps.after (tripOff_keeps ..) | apply Keeps.after (actOn_keeps ..)
  | split
theorem supplySample_keeps (watts : Nat) (mv : Nat) (amps : Nat) (s : State) : Keeps s (supplySample watts mv amps s) := by
  unfold supplySample
  split
  · exact Keeps.refl _
  · extract_lets s1
    have h1 : Keeps s s1 := setPowerK (Keeps.refl s) (fun h => h)
    split
    · exact h1
    · exact h1.trans (actAndTrip_keeps ..)
theorem junctionSample_keeps (tj : Int) (s : State) : Keeps s (junctionSample tj s) := by
  unfold junctionSample
  split
  · exact Keeps.refl _
  · extract_lets s1
    have h1 : Keeps s s1 := setPowerK (Keeps.refl s) (fun h => h)
    split
    · exact h1
    · exact h1.trans (actAndTrip_keeps ..)
theorem levelFall_keeps (s : State) : Keeps s (levelFall s) := by
  unfold levelFall
  split
  · refine ((setPowerK (Keeps.refl s) (fun hp => ?_)).trans (takeAnswers_keeps ..)).trans (settleCodec_keeps ..)
    obtain ⟨a, b, c, d, e, f, g, i, j, k, m⟩ := hp
    unfold Power.legal
    simp only [stepAt_if]
    repeat' split
    all_goals omega
  · exact Keeps.refl _
theorem clockDown_keeps (s : State) : Keeps s (clockDown s) := by
  unfold clockDown
  split
  · next hc =>
    refine setPowerK (Keeps.refl s) (fun hp => ?_)
    obtain ⟨a, b, c, d, e, f, g, i, j, k, m⟩ := hp
    unfold Power.legal
    dsimp only
    omega
  · exact Keeps.refl _
theorem clockUp_keeps (s : State) : Keeps s (clockUp s) := by
  unfold clockUp
  split
  · next hc =>
    have hl : s.power.level = 1 := by
      have := hc.2.1
      simp only [hasRoom, Bool.and_eq_true, decide_eq_true_eq] at this
      exact this.1
    refine setPowerK (Keeps.refl s) (fun hp => ?_)
    obtain ⟨a, b, c, d, e, f, g, i, j, k, m⟩ := hp
    unfold Power.legal
    dsimp only
    omega
  · exact Keeps.refl _
theorem setFmax_keeps (v : Nat) (s : State) : Keeps s (setFmax v s) := by
  unfold setFmax
  refine setPowerK (Keeps.refl s) (fun hp => ?_)
  obtain ⟨a, b, c, d, e, f, g, i, j, k, m⟩ := hp
  have hc := clamp_le 8 32 v (by decide)
  unfold Power.legal
  dsimp only
  split <;> omega
theorem gateArray_keeps (s : State) : Keeps s (gateArray s) := by
  unfold gateArray
  repeat' first
  | with_reducible first
    | apply Keeps.refl | apply Keeps.ite | apply Keeps.after (State_setSett_keeps ..)
    | apply Keeps.after (foldl_keeps _ (fun _ _ => ?_) _ _)
theorem wakeUnit_keeps (unit : Nat) (locked : Bool) (s : State) : Keeps s (wakeUnit unit locked s) := by
  unfold wakeUnit
  repeat' first
  | with_reducible first
    | apply Keeps.refl | apply Keeps.ite | apply Keeps.after (raiseEvent_keeps ..) | apply Keeps.after (State_setSett_keeps ..)
    | apply Keeps.after (wakeCore_keeps ..) | apply Keeps.after (foldl_keeps _ (fun _ _ => ?_) _ _)
theorem telemSample_keeps (s : State) : Keeps s (telemSample s) := by
  unfold telemSample
  repeat' first
  | with_reducible first
    | apply Keeps.refl | apply Keeps.ite | apply Keeps.after (writeLog_keeps ..) | apply Keeps.after (State_setTelem_keeps ..)
theorem agingReadout_keeps (slack : Int) (s : State) : Keeps s (agingReadout slack s) := by
  unfold agingReadout
  split
  · exact Keeps.refl _
  · split
    · refine setPowerK (Keeps.refl s) (fun hp => ?_)
      obtain ⟨a, b, c, d, e, f, g, i, j, k, m⟩ := hp
      unfold Power.legal
      dsimp only
      omega
    · exact (setFmax_keeps ..).trans (raiseAlarm_keeps ..)
theorem State_setHcore_keeps (s : State) (k : Nat) (f : HCore → HCore) : Keeps s (State.setHcore s k f) := by
  unfold State.setHcore
  repeat' first | with_reducible apply Keeps.refl | with_reducible apply Keeps.after (State_setHearth_keeps ..)
theorem loseTelemetry_keeps (s : State) : Keeps s (loseTelemetry s) := by
  unfold loseTelemetry
  repeat' first
  | with_reducible first
    | apply Keeps.refl | apply Keeps.ite | apply Keeps.after (raiseEvent_keeps ..)
    | apply Keeps.after (State_setTelem_keeps ..)
theorem loseWork_keeps (k : Nat) (s : State) : Keeps s (loseWork k s) := by
  unfold loseWork
  repeat' first
  | with_reducible first
    | apply Keeps.refl | apply Keeps.ite | apply Keeps.after (loseTelemetry_keeps ..)
    | apply Keeps.after (State_setHearth_keeps ..)
theorem wdogExpiry_keeps (k : Nat) (s : State) : Keeps s (wdogExpiry k s) := by
  unfold wdogExpiry
  repeat' first
  | with_reducible first
    | apply Keeps.refl | apply Keeps.ite | apply Keeps.after (loseWork_keeps ..) | apply Keeps.after (State_setHcore_keeps ..)
    | apply Keeps.after (raiseAlarm_keeps ..) | apply Keeps.after (freeStatus_keeps ..)
    | apply Keeps.after (freezeCrash_keeps ..) | apply Keeps.after (State_setHearth_keeps ..)
theorem kickCore_keeps (k : Nat) (s : State) : Keeps s (kickCore k s) := by
  unfold kickCore
  repeat' first
  | with_reducible first
    | apply Keeps.refl | apply Keeps.ite | apply Keeps.after (State_setHcore_keeps ..)
theorem showNote_keeps (bs : List Byte) (s : State) : Keeps s (showNote bs s) := by
  unfold showNote
  repeat' first
  | with_reducible first
    | apply Keeps.refl | apply Keeps.after (signal_keeps ..) | apply Keeps.after (State_emit_keeps ..) | apply Keeps.after (State_setHearth_keeps ..)
theorem postNote_keeps (type : Nat) (payload : List Byte) (s : State) : Keeps s (postNote type payload s) := by
  unfold postNote
  repeat' first
  | with_reducible first
    | apply Keeps.refl | apply Keeps.ite | apply Keeps.after (showNote_keeps ..) | apply Keeps.after (State_setHearth_keeps ..)
theorem nackNote_keeps (s : State) : Keeps s (nackNote s) := by
  unfold nackNote
  repeat' first
  | with_reducible first
    | apply Keeps.refl | apply Keeps.ite | apply Keeps.after (State_setHearth_keeps ..) | apply Keeps.after (showNote_keeps ..)
  | split
theorem fwEvent_keeps (status : Nat) (event : Nat) (version : Nat) (s : State) : Keeps s (fwEvent status event version s) := by
  unfold fwEvent
  repeat' first | with_reducible apply Keeps.refl | with_reducible apply Keeps.after (postNote_keeps ..)
theorem askRelease_keeps (die : Nat) (s : State) : Keeps s (askRelease die s) := by
  unfold askRelease
  repeat' first | with_reducible apply Keeps.refl | with_reducible apply Keeps.after (postNote_keeps ..)
theorem sendAnswer_keeps (mb : Nat) (seq : Nat) (bs : List Byte) (s : State) : Keeps s (sendAnswer mb seq bs s) := by
  unfold sendAnswer
  repeat' first
  | with_reducible first
    | apply Keeps.refl | apply Keeps.after (signal_keeps ..) | apply Keeps.ite | apply Keeps.after (State_emit_keeps ..)
    | apply Keeps.after (State_setHearth_keeps ..)
theorem answerWith_keeps (mb : Nat) (type : Nat) (seq : Nat) (status : Nat) (data : List Byte) (s : State) : Keeps s (answerWith mb type seq status data s) := by
  unfold answerWith
  repeat' first
  | with_reducible first
    | apply Keeps.refl | apply Keeps.after (sendAnswer_keeps ..) | apply Keeps.after (State_setHearth_keeps ..)
theorem serve_keeps (mb : Nat) (msg : List Byte) (act : List Byte → State → Reply) (h1 : ∀ y0 y1, Keeps y1 (replySt (act y0 y1))) (s0 : State) : Keeps s0 (serve mb msg act s0) := by
  unfold serve
  repeat' first
  | with_reducible first
    | apply Keeps.refl | apply Keeps.ite | apply Keeps.after (h1 ..) | apply Keeps.after (State_setHearth_keeps ..)
    | apply Keeps.after (sendAnswer_keeps ..) | apply Keeps.after (answerWith_keeps ..) | refine Keeps.ofNow (by assumption) ?_
    | refine Keeps.ofLater (by assumption) ?_
  | split
theorem arrive_keeps (mb : Nat) (msg : List Byte) (act : List Byte → State → Reply) (h1 : ∀ y0 y1, Keeps y1 (replySt (act y0 y1))) (s : State) : Keeps s (arrive mb msg act s) := by
  unfold arrive
  repeat' first
  | with_reducible first
    | apply Keeps.refl | apply Keeps.ite | apply Keeps.after (h1 ..) | apply Keeps.after (serve_keeps _ _ _ (fun _ _ => ?_) _)
    | apply Keeps.after (State_setHearth_keeps ..)
  | split
theorem request_keeps (mb : Nat) (type : Nat) (msg : List Byte) (act : List Byte → State → Reply) (h1 : ∀ y0 y1, Keeps y1 (replySt (act y0 y1))) (s : State) : Keeps s (request mb type msg act s) := by
  unfold request
  repeat' first
  | with_reducible first
    | apply Keeps.refl | apply Keeps.ite | apply Keeps.after (h1 ..) | apply Keeps.after (arrive_keeps _ _ _ (fun _ _ => ?_) _)
theorem sized_keeps (n : Nat) (act : List Byte → State → Reply) (h1 : ∀ y0 y1, Keeps y1 (replySt (act y0 y1))) (pay : List Byte) (s : State) : Keeps s (replySt (sized n act pay s)) := by
  unfold sized
  repeat' first
  | with_reducible first
    | apply Keeps.refl | apply Keeps.after (h1 ..) | apply Keeps.stNow | apply Keeps.iteReply
theorem reads_keeps (f : State → List Byte) (x1 : List Byte) (s : State) : Keeps s (replySt (reads f x1 s)) := by
  unfold reads
  repeat' first | with_reducible apply Keeps.refl | with_reducible apply Keeps.stNow
theorem unknownType_keeps (mb : Nat) (msg : List Byte) (s : State) : Keeps s (unknownType mb msg s) := by
  unfold unknownType
  split
  · exact Keeps.refl _
  · exact arrive_keeps mb msg _ (fun _ _ => Keeps.refl _) s
theorem helloAct_keeps (mb : Nat) (pay : List Byte) (s : State) : Keeps s (replySt (helloAct mb pay s)) := by
  unfold helloAct
  repeat' first
  | with_reducible first
    | apply Keeps.refl | apply Keeps.after (State_setHearth_keeps ..) | apply Keeps.stNow | apply Keeps.iteReply
theorem setFw_keeps (st : FwState) (code : Nat) (s : State) : Keeps s (setFw st code s) := by
  unfold setFw
  repeat' first | with_reducible apply Keeps.refl | with_reducible apply Keeps.after (State_setHearth_keeps ..)
theorem stageAct_keeps (mb : Nat) (seq : Nat) (pay : List Byte) (s : State) : Keeps s (replySt (stageAct mb seq pay s)) := by
  unfold stageAct
  repeat' first
  | with_reducible first
    | apply Keeps.refl | apply Keeps.after (State_setHearth_keeps ..) | apply Keeps.after (setFw_keeps ..) | apply Keeps.stNow
    | apply Keeps.stLater | apply Keeps.iteReply
theorem eraseSlot_keeps (base : Nat) (s : State) : Keeps s (eraseSlot base s) := by
  unfold eraseSlot
  repeat' first | with_reducible apply Keeps.refl | with_reducible apply Keeps.after (State_setHearth_keeps ..)
theorem cutStaging_keeps (s : State) : Keeps s (cutStaging s) := by
  unfold cutStaging
  repeat' first
  | with_reducible first
    | apply Keeps.refl | apply Keeps.after (writeFlash_keeps ..) | apply Keeps.after (eraseSlot_keeps ..)
  | (simp only [mk_anew]; with_reducible apply Keeps.after (anew_keeps ..))
  | dsimp only
  | split
theorem spoilSlot_keeps (base : Nat) (n : Nat) (s : State) : Keeps s (spoilSlot base n s) := by
  unfold spoilSlot
  repeat' first
  | with_reducible first
    | apply Keeps.refl | apply Keeps.after (writeFlash_keeps ..) | apply Keeps.after (eraseSlot_keeps ..)
  | (simp only [mk_anew]; with_reducible apply Keeps.after (anew_keeps ..))
theorem stageWrite_keeps (g : Staging) (ok : Bool) (s : State) : Keeps s ((stageWrite g ok s).1) := by
  unfold stageWrite
  repeat' first
  | with_reducible first
    | apply Keeps.refl | refine Keeps.trans ?_ (physRead_keepsK (by assumption)) | apply Keeps.after (freeStatus_keeps ..)
    | apply Keeps.after (spoilSlot_keeps ..) | apply Keeps.after (writeFlash_keeps ..) | apply Keeps.after (eraseSlot_keeps ..)
    | apply Keeps.iteFst
  | dsimp only
  | split
theorem stageDone_keeps (ok : Bool) (s : State) : Keeps s (stageDone ok s) := by
  unfold stageDone
  repeat' first
  | with_reducible first
    | apply Keeps.refl | apply Keeps.ite | apply Keeps.after (stageWrite_keeps ..)
    | apply Keeps.after (State_setHearth_keeps ..) | apply Keeps.after (setFw_keeps ..)
    | apply Keeps.after (answerWith_keeps ..)
  | dsimp only
  | split
theorem verifyAct_keeps (x0 : List Byte) (s : State) : Keeps s (replySt (verifyAct x0 s)) := by
  unfold verifyAct
  repeat' first
  | with_reducible first
    | apply Keeps.refl | apply Keeps.after (State_setHearth_keeps ..) | apply Keeps.after (setFw_keeps ..) | apply Keeps.stNow
theorem activate_keeps (s : State) : Keeps s (activate s) := by
  unfold activate
  repeat' first
  | with_reducible first
    | apply Keeps.refl | apply Keeps.ite | apply Keeps.after (writeHdr_keeps ..) | apply Keeps.after (State_setHearth_keeps ..)
    | apply Keeps.after (setFw_keeps ..) | apply Keeps.after (extend_keeps ..) | apply Keeps.after (fwEvent_keeps ..)
theorem activateSoon_keeps (s : State) : Keeps s (activateSoon s) := by
  unfold activateSoon
  repeat' first
  | with_reducible first
    | apply Keeps.refl | apply Keeps.ite | apply Keeps.after (setFw_keeps ..) | apply Keeps.after (activate_keeps ..)
theorem tryActivate_keeps (s : State) : Keeps s (tryActivate s).2.2 := by
  unfold tryActivate
  repeat' first
  | with_reducible first
    | apply Keeps.refl | apply Keeps.after (State_setHearth_keeps ..) | apply Keeps.after (setFw_keeps ..)
    | apply Keeps.after (activateSoon_keeps ..)
  | split
theorem activateAct_keeps (x0 : List Byte) (s : State) : Keeps s (replySt (activateAct x0 s)) := by
  unfold activateAct
  repeat' first
  | with_reducible first
    | apply Keeps.refl | apply Keeps.after (tryActivate_keeps ..) | apply Keeps.stNow
theorem clearExpiry_keeps (s : State) : Keeps s (clearExpiry s) := by
  unfold clearExpiry
  repeat' first
  | with_reducible first
    | apply Keeps.refl | apply Keeps.ite | apply Keeps.after (activateSoon_keeps ..)
theorem cancelAct_keeps (x0 : List Byte) (s : State) : Keeps s (replySt (cancelAct x0 s)) := by
  unfold cancelAct
  repeat' first
  | with_reducible first
    | apply Keeps.refl | apply Keeps.after (fwEvent_keeps ..) | apply Keeps.after (setFw_keeps ..) | apply Keeps.stNow
    | apply Keeps.iteReply
theorem commitAct_keeps (x0 : List Byte) (s : State) : Keeps s (replySt (commitAct x0 s)) := by
  unfold commitAct
  repeat' first
  | with_reducible first
    | apply Keeps.refl | apply Keeps.ite | apply Keeps.after (State_setHearth_keeps ..) | apply Keeps.after (writeHdr_keeps ..)
    | apply Keeps.after (setFw_keeps ..) | apply Keeps.after (raiseSvn_keeps ..) | apply Keeps.stNow
theorem otpReadAct_keeps (pay : List Byte) (s : State) : Keeps s (replySt (otpReadAct pay s)) := by
  unfold otpReadAct
  repeat' first | with_reducible apply Keeps.refl | with_reducible apply Keeps.stNow | with_reducible apply Keeps.iteReply
theorem writeGenAct_keeps (pay : List Byte) (s : State) : Keeps s (replySt (writeGenAct pay s)) := by
  unfold writeGenAct
  repeat' first
  | with_reducible first
    | apply Keeps.refl | apply Keeps.after (writeGen_keeps ..) | apply Keeps.stNow
theorem revokeAct_keeps (pay : List Byte) (s : State) : Keeps s (replySt (revokeAct pay s)) := by
  unfold revokeAct
  repeat' first
  | with_reducible first
    | apply Keeps.refl | apply Keeps.after (otpProgram_keeps ..) | apply Keeps.stNow | apply Keeps.iteReply
theorem logReadAct_keeps (pay : List Byte) (s : State) : Keeps s (replySt (logReadAct pay s)) := by
  unfold logReadAct
  repeat' first | with_reducible apply Keeps.refl | with_reducible apply Keeps.stNow | with_reducible apply Keeps.iteReply
theorem crashReadAct_keeps (pay : List Byte) (s : State) : Keeps s (replySt (crashReadAct pay s)) := by
  unfold crashReadAct
  repeat' first | with_reducible apply Keeps.refl | with_reducible apply Keeps.stNow | with_reducible apply Keeps.iteReply
theorem releaseAct_keeps (pay : List Byte) (s : State) : Keeps s (replySt (releaseAct pay s)) := by
  unfold releaseAct
  repeat' first
  | with_reducible first
    | apply Keeps.refl | refine Keeps.trans ?_ (physRead_keepsK (by assumption)) | apply Keeps.after (State_setDie_keeps ..)
    | apply Keeps.stNow | apply Keeps.iteReply
  | dsimp only
  | split
theorem releaseRetry_keeps (die : Nat) (s : State) : Keeps s (releaseRetry die s) := by
  unfold releaseRetry
  repeat' first
  | with_reducible first
    | apply Keeps.refl | apply Keeps.after (State_setDie_keeps ..) | apply Keeps.ite | apply Keeps.after (askRelease_keeps ..)
theorem answerOn_keeps (base : Nat) (path : Nat) (bs : List Byte) (s : State) : Keeps s (answerOn base path bs s) := by
  unfold answerOn
  repeat' first | with_reducible apply Keeps.refl | with_reducible apply Keeps.after (State_emit_keeps ..)
theorem spdmAnswer_keeps (path : Nat) (code : Nat) (body : List Byte) (f : State → List Byte × State) (h1 : ∀ y0, Keeps y0 ((f y0).2)) (s : State) : Keeps s (spdmAnswer path code body f s) := by
  unfold spdmAnswer
  repeat' first
  | with_reducible first
    | apply Keeps.refl | apply Keeps.ite | apply Keeps.after (h1 ..) | apply Keeps.after (answerOn_keeps ..)
    | apply Keeps.after (State_setHearth_keeps ..)
theorem spdmVersion_keeps (s : State) : Keeps s (spdmVersion s).2 := by
  unfold spdmVersion
  repeat' first | with_reducible apply Keeps.refl
theorem spdmCaps_keeps (s : State) : Keeps s (spdmCaps s).2 := by
  unfold spdmCaps
  repeat' first | with_reducible apply Keeps.refl
theorem spdmAlgorithms_keeps (body : List Byte) (s : State) : Keeps s (spdmAlgorithms body s).2 := by
  unfold spdmAlgorithms
  repeat' first | with_reducible apply Keeps.refl
theorem spdmDigests_keeps (s : State) : Keeps s (spdmDigests s).2 := by
  unfold spdmDigests
  repeat' first | with_reducible apply Keeps.refl
theorem spdmCertificate_keeps (body : List Byte) (s : State) : Keeps s (spdmCertificate body s).2 := by
  unfold spdmCertificate
  repeat' first | with_reducible apply Keeps.refl | with_reducible apply Keeps.iteSnd
theorem nonce_keeps (s : State) : Keeps s (nonce s).2 := by
  unfold nonce
  repeat' first | with_reducible apply Keeps.refl | (simp only [mk_anew]; with_reducible apply Keeps.after (anew_keeps ..))
theorem spdmMeasure_keeps (body : List Byte) (s : State) : Keeps s (spdmMeasure body s).2 := by
  unfold spdmMeasure
  repeat' first | with_reducible apply Keeps.refl | with_reducible apply Keeps.after (nonce_keeps ..) | dsimp only | split
theorem spdmChallenge_keeps (body : List Byte) (s : State) : Keeps s (spdmChallenge body s).2 := by
  unfold spdmChallenge
  repeat' first
  | with_reducible first
    | apply Keeps.refl | apply Keeps.after (nonce_keeps ..) | apply Keeps.iteSnd
theorem spdmOther_keeps (path : Nat) (body : List Byte) (s : State) : Keeps s (spdmOther path body s) := by
  unfold spdmOther
  repeat' first
  | with_reducible first
    | apply Keeps.refl | apply Keeps.ite | apply Keeps.after (answerOn_keeps ..)
theorem setEid_keeps (path : Nat) (eid : BitVec 8) (s : State) : Keeps s (setEid path eid s) := by
  unfold setEid
  repeat' first
  | with_reducible first
    | apply Keeps.refl | apply Keeps.ite | apply Keeps.after (answerOn_keeps ..) | apply Keeps.after (State_setHearth_keeps ..)
theorem pldmActivate_keeps (path : Nat) (s : State) : Keeps s (pldmActivate path s) := by
  unfold pldmActivate
  repeat' first
  | with_reducible first
    | apply Keeps.refl | apply Keeps.ite | apply Keeps.after (tryActivate_keeps ..) | apply Keeps.after (answerOn_keeps ..)
theorem markChannel_keeps (die : Nat) (pc : Nat) (s : State) : Keeps s (markChannel die pc s) := by
  unfold markChannel
  repeat' first
  | with_reducible first
    | apply Keeps.refl | apply Keeps.ite | apply Keeps.after (raiseAlarm_keeps ..) | apply Keeps.after (State_setDie_keeps ..)
    | apply Keeps.after (askRelease_keeps ..)
theorem markFailing_keeps (die : Nat) (s : State) : Keeps s (markFailing die s) := by
  unfold markFailing
  repeat' first
  | with_reducible first
    | apply Keeps.refl | apply Keeps.ite | apply Keeps.after (markChannel_keeps ..) | apply Keeps.after (State_setDie_keeps ..)
  | split
theorem scrubPos_keeps (die : Nat) (b : Nat) (s : State) : Keeps s (scrubPos die b s) := by
  unfold scrubPos
  repeat' first | with_reducible apply Keeps.refl | with_reducible apply Keeps.after (State_setDie_keeps ..)
theorem scrubOne_keeps (die : Nat) (b : Nat) (s : State) : Keeps s (scrubOne die b s) := by
  unfold scrubOne
  repeat' first
  | with_reducible first
    | apply Keeps.refl | apply Keeps.ite | apply Keeps.after (memRead_keeps ..) | apply Keeps.after (memWrite_keeps ..)
    | apply Keeps.after (memPoison_keeps ..) | apply Keeps.after (doomWaits_keeps ..)
    | apply Keeps.after (State_setDie_keeps ..)
  | dsimp only
  | split
theorem scrubBurst_keeps (die : Nat) (addr : Nat) (s : State) : Keeps s (scrubBurst die addr s) := by
  unfold scrubBurst
  repeat' first
  | with_reducible first
    | apply Keeps.refl | apply Keeps.ite | apply Keeps.after (markFailing_keeps ..) | apply Keeps.after (scrubPos_keeps ..)
    | apply Keeps.after (scrubOne_keeps ..)
  | dsimp only
  | split
theorem mapoutStart_keeps (die : Nat) (s : State) : Keeps s (mapoutStart die s) := by
  unfold mapoutStart
  repeat' first
  | with_reducible first
    | apply Keeps.refl | apply Keeps.ite | apply Keeps.after (State_setDie_keeps ..)
theorem copyReads_keeps (x0 : List Nat) (x1 : State) : Keeps x1 ((copyReads x0 x1).1) := by
  induction x0 generalizing x1 with
  | nil =>
    unfold copyReads
    repeat' first | with_reducible apply Keeps.refl
  | cons a t ih =>
    unfold copyReads
    repeat' first
    | with_reducible first
      | apply Keeps.refl | apply Keeps.after (ih ..) | apply Keeps.after (memRead_keeps ..)
theorem copyArrives_keeps (s : State) (e : Nat × Decoded) : Keeps s (copyArrives s e) := by
  unfold copyArrives
  repeat' first
  | with_reducible first
    | apply Keeps.refl | apply Keeps.ite | apply Keeps.after (memPoison_keeps ..) | apply Keeps.after (memWrite_keeps ..)
theorem dropMoved_keeps (die : Nat) (gs : List Nat) (s : State) : Keeps s (dropMoved die gs s) := by
  unfold dropMoved
  repeat' first | with_reducible apply Keeps.refl | (simp only [mk_anew]; with_reducible apply Keeps.after (anew_keeps ..))
theorem mapoutCommit_keeps (die : Nat) (s : State) : Keeps s (mapoutCommit die s) := by
  unfold mapoutCommit
  repeat' first
  | with_reducible first
    | apply Keeps.refl | apply Keeps.ite | apply Keeps.after (copyReads_keeps ..) | apply Keeps.after (State_setDie_keeps ..)
    | apply Keeps.after (dropMoved_keeps ..) | apply Keeps.after (copyArrives_keeps ..)
    | apply Keeps.after (writeRepair_keeps ..) | apply Keeps.after (activate_keeps ..)
    | apply Keeps.after (foldl_keeps _ (fun _ _ => ?_) _ _)
theorem setCode_keeps (code : Nat) (s : State) : Keeps s (setCode code s) := by
  unfold setCode
  repeat' first | with_reducible apply Keeps.refl | (simp only [mk_anew]; with_reducible apply Keeps.after (anew_keeps ..))
theorem testCmd_keeps (j : TestJob) (f : State → State) (h1 : ∀ y0, Keeps y0 (f y0)) (s : State) : Keeps s (testCmd j f s) := by
  unfold testCmd
  repeat' first
  | with_reducible first
    | apply Keeps.refl | apply Keeps.ite | apply Keeps.after (h1 ..) | apply Keeps.after (setCode_keeps ..)
  | (simp only [mk_anew]; with_reducible apply Keeps.after (anew_keeps ..))
theorem setFenced_keeps (i : Nat) (on : Bool) (s : State) : Keeps s (setFenced i on s) := by
  unfold setFenced
  repeat' first | with_reducible apply Keeps.refl | (simp only [mk_anew]; with_reducible apply Keeps.after (anew_keeps ..))
theorem fenceSett_keeps (i : Nat) (s : State) : Keeps s (fenceSett i s) := by
  unfold fenceSett
  repeat' first
  | with_reducible first
    | apply Keeps.refl | apply Keeps.ite | apply Keeps.after (setCode_keeps ..) | apply Keeps.after (State_setSett_keeps ..)
    | apply Keeps.after (setFenced_keeps ..) | apply Keeps.after (placeAgain_keeps ..) | apply Keeps.after (failRun_keeps ..)
  | dsimp only
  | split
theorem unfenceSett_keeps (i : Nat) (s : State) : Keeps s (unfenceSett i s) := by
  unfold unfenceSett
  repeat' first
  | with_reducible first
    | apply Keeps.refl | apply Keeps.ite | apply Keeps.after (setCode_keeps ..) | apply Keeps.after (State_setSett_keeps ..)
    | apply Keeps.after (setFenced_keeps ..)
theorem startJob_keeps (j : TestJob) (s : State) : Keeps s (startJob j s) := by
  unfold startJob
  repeat' first
  | with_reducible first
    | apply Keeps.refl | apply Keeps.ite | apply Keeps.after (State_setSett_keeps ..) | apply Keeps.after (anew_keeps ..)
  | (simp only [mk_anew]; with_reducible apply Keeps.after (anew_keeps ..))
theorem keepJob_keeps (j : TestJob) (s : State) : Keeps s (keepJob j s) := by
  unfold keepJob
  repeat' first | with_reducible apply Keeps.refl | (simp only [mk_anew]; with_reducible apply Keeps.after (anew_keeps ..))
theorem atBoundary_keeps (j : TestJob) (s : State) : Keeps s (atBoundary j s) := by
  unfold atBoundary
  repeat' first
  | with_reducible first
    | apply Keeps.refl | apply Keeps.ite | apply Keeps.after (startJob_keeps ..) | apply Keeps.after (startPreempt_keeps ..)
    | apply Keeps.after (keepJob_keeps ..)
theorem startTest_keeps (j : TestJob) (s : State) : Keeps s (startTest j s) := by
  unfold startTest
  repeat' first
  | with_reducible first
    | apply Keeps.refl | apply Keeps.ite | apply Keeps.after (setCode_keeps ..) | apply Keeps.after (startJob_keeps ..)
    | apply Keeps.after (atBoundary_keeps ..)
  | split
theorem startRetrain_keeps (j : TestJob) (s : State) : Keeps s (startRetrain j s) := by
  unfold startRetrain
  repeat' first
  | with_reducible first
    | apply Keeps.refl | apply Keeps.ite | apply Keeps.after (atBoundary_keeps ..) | apply Keeps.after (setCode_keeps ..)
theorem hearthRetrain_keeps (die : Nat) (s : State) : Keeps s (hearthRetrain die s) := by
  unfold hearthRetrain
  repeat' first
  | with_reducible first
    | apply Keeps.refl | apply Keeps.ite | apply Keeps.after (atBoundary_keeps ..) | apply Keeps.after (State_setDie_keeps ..)
  | split
theorem deferredStart_keeps (s : State) : Keeps s (deferredStart s) := by
  unfold deferredStart
  repeat' first
  | with_reducible first
    | apply Keeps.refl | apply Keeps.ite | apply Keeps.after (startTest_keeps ..) | apply Keeps.after (startJob_keeps ..)
  | (simp only [mk_anew]; with_reducible apply Keeps.after (anew_keeps ..))
  | dsimp only
  | split
theorem failedCode_keeps (s : State) : Keeps s (failedCode s) := by
  unfold failedCode
  repeat' first
  | with_reducible first
    | apply Keeps.refl | apply Keeps.after (setCode_keeps ..) | apply Keeps.after (freeStatus_keeps ..)
theorem testDone_keeps (pass : Bool) (s : State) : Keeps s (testDone pass s) := by
  unfold testDone
  repeat' first
  | with_reducible first
    | apply Keeps.refl | apply Keeps.ite | apply Keeps.after (setCode_keeps ..) | apply Keeps.after (failedCode_keeps ..)
    | apply Keeps.after (State_setSett_keeps ..) | apply Keeps.after (writeRepair_keeps ..)
    | apply Keeps.after (State_setCore_keeps ..) | apply Keeps.after (anew_keeps ..)
  | (simp only [mk_anew]; with_reducible apply Keeps.after (anew_keeps ..))
  | dsimp only
  | split
theorem retrainDone_keeps (ok : Bool) (s : State) : Keeps s (retrainDone ok s) := by
  unfold retrainDone
  repeat' first
  | with_reducible first
    | apply Keeps.refl | apply Keeps.ite | apply Keeps.after (workAll_keeps ..) | apply Keeps.after (setCode_keeps ..)
    | apply Keeps.after (failedCode_keeps ..)
  | (simp only [mk_anew]; with_reducible apply Keeps.after (anew_keeps ..))
  | dsimp only
  | split
theorem writtenBack_keeps (s : State) : Keeps s (writtenBack s) := by
  unfold writtenBack
  repeat' first
  | with_reducible first
    | apply Keeps.refl | apply Keeps.after (cleanLine_keeps ..) | apply Keeps.after (foldl_keeps _ (fun _ _ => ?_) _ _)
theorem resetCommon_keeps (last : Nat) (s0 : State) : Keeps s0 (resetCommon last s0) := by
  have hc := cutStaging_keeps s0
  refine ⟨hc.1, hc.2, fun h0 => ?_, fun _ => rfl⟩
  have h := hc.3 h0
  refine ⟨?_, h.2, ?_, h.4, ?_, h.6, rfl, h.8⟩
  all_goals
    simp only [resetCommon, resetMem]
    split
  · exact h.1
  · exact rfl
  · exact h.3
  · exact rfl
  · exact h.5
  · exact rfl
theorem warmReset_keeps (s : State) : Keeps s (warmReset s) := by
  unfold warmReset
  repeat' first
  | with_reducible first
    | apply Keeps.refl | apply Keeps.ite | apply Keeps.after (mapoutCommit_keeps ..)
    | apply Keeps.after (advanceGroups_keeps ..) | apply Keeps.after (resetCommon_keeps ..)
    | apply Keeps.after (writtenBack_keeps ..)
  | (simp only [mk_anew]; with_reducible apply Keeps.after (anew_keeps ..))
theorem coldReset_keeps (s : State) : Keeps s (coldReset s) := by
  unfold coldReset
  split
  · exact Keeps.refl _
  · extract_lets s1 _ s2 s3
    have h1 : Keeps s s1 := resetCommon_keeps 2 s
    have h2 : Keeps s s2 := Keeps.upd h1 rfl rfl rfl rfl
    have h3 : Keeps s s3 := setPowerK h2 (fun h => h)
    split
    · exact h3.trans ((State_emit_keeps ..).trans (State_emit_keeps ..))
    · exact h3
theorem powerLoss_keeps (s : State) : Keeps s (powerLoss s) := by
  refine (resetCommon_keeps 3 s).trans ⟨rfl, fun _ => powReset, fun h => h, fun h => h⟩
theorem powerUp_keeps (s : State) : Keeps s (powerUp s) := by
  unfold powerUp
  repeat' first
  | with_reducible first
    | apply Keeps.refl | apply Keeps.ite | apply Keeps.after (State_emit_keeps ..)
  | (simp only [mk_anew]; with_reducible apply Keeps.after (anew_keeps ..))
theorem perstFall_keeps (s : State) : Keeps s (perstFall s) := by
  unfold perstFall
  repeat' first
  | with_reducible first
    | apply Keeps.refl | apply Keeps.ite | apply Keeps.after (warmReset_keeps ..)
  | (simp only [mk_anew]; with_reducible apply Keeps.after (anew_keeps ..))
theorem mrstFall_keeps (s : State) : Keeps s (mrstFall s) := by
  unfold mrstFall
  repeat' first
  | with_reducible first
    | apply Keeps.refl | apply Keeps.ite | apply Keeps.after (coldReset_keeps ..)
  | (simp only [mk_anew]; with_reducible apply Keeps.after (anew_keeps ..))
theorem mrstRise_keeps (straps : BitVec 4) (s : State) : Keeps s (mrstRise straps s) := by
  unfold mrstRise
  repeat' first
  | with_reducible first
    | apply Keeps.refl | apply Keeps.ite
  | (simp only [mk_anew]; with_reducible apply Keeps.after (anew_keeps ..))
theorem hotReset_keeps (s : State) : Keeps s (hotReset s) := by
  unfold hotReset
  repeat' first
  | with_reducible first
    | apply Keeps.refl | apply Keeps.ite | apply Keeps.after (warmReset_keeps ..)
theorem refclkLoss_keeps (s : State) : Keeps s (refclkLoss s) := by
  unfold refclkLoss
  repeat' first
  | with_reducible first
    | apply Keeps.refl | apply Keeps.ite
  | (simp only [mk_anew]; with_reducible apply Keeps.after (anew_keeps ..))
theorem chooseSlot_keeps (s : State) : Keeps s (chooseSlot s).2.2 := by
  unfold chooseSlot
  repeat' first | with_reducible apply Keeps.refl | with_reducible apply Keeps.after (writeHdr_keeps ..) | dsimp only | split
theorem enterRecovery_keeps (code : Nat) (s : State) : Keeps s (enterRecovery code s) := by
  unfold enterRecovery
  repeat' first
  | with_reducible first
    | apply Keeps.refl | apply Keeps.after (extend_keeps ..) | apply Keeps.after (State_setHearth_keeps ..)
theorem runSlot_keeps (slot : Nat) (s : State) : Keeps s (runSlot slot s) := by
  unfold runSlot
  repeat' first
  | with_reducible first
    | apply Keeps.refl | apply Keeps.after (measureImage_keeps ..) | apply Keeps.after (State_setHearth_keeps ..)
theorem bootImage_keeps (env : BootEnv) (s : State) : Keeps s (bootImage env s).2 := by
  unfold bootImage
  repeat' first
  | with_reducible first
    | apply Keeps.refl | apply Keeps.after (measureOtp_keeps ..) | apply Keeps.after (extend_keeps ..)
    | apply Keeps.after (enterRecovery_keeps ..) | apply Keeps.after (chooseSlot_keeps ..)
    | apply Keeps.after (runSlot_keeps ..) | apply Keeps.after (State_setHearth_keeps ..)
    | apply Keeps.after (writeHdr_keeps ..) | apply Keeps.iteSnd
theorem applySettings_keeps (s : State) : Keeps s (applySettings s) := by
  unfold applySettings
  split
  · exact Keeps.refl _
  · extract_lets f s1 s2
    have h1 : Keeps s s1 := by
      unfold s1
      split
      · exact Keeps.refl _
      · exact setPowerK (Keeps.refl s) (fun hp => legal_limit _ _ hp)
    have h2 : Keeps s1 s2 := by
      unfold s2
      split
      · exact Keeps.refl _
      · exact State_setHearth_keeps ..
    exact foldK (h1.trans h2) (fun _ _ => State_setDie_keeps ..)
theorem bootMemory_keeps (env : BootEnv) (s : State) : Keeps s ((bootMemory env s).getD s) := by
  unfold bootMemory
  extract_lets kept a b s1
  split
  · exact Keeps.refl _
  · have h1 : Keeps s s1 := by
      unfold s1
      split
      · exact Keeps.refl _
      · exact ⟨rfl, id, fun h => ⟨rfl, h.2, h.4, h.4, rfl, h.6, rfl, h.8⟩, id⟩
    exact foldK h1 (fun _ _ => State_setDie_keeps ..)
theorem bootMemory_keepsK {env : BootEnv} {s : State} {z} (e : bootMemory env s = some z) : Keeps s (z) := by
  have := bootMemory_keeps env s; rw [e] at this; exact this
theorem bootLintel_keeps (env : BootEnv) (s : State) : Keeps s (bootLintel env s) := by
  unfold bootLintel
  repeat' first
  | with_reducible first
    | apply Keeps.refl | apply Keeps.after (State_setDie_keeps ..) | apply Keeps.after (foldl_keeps _ (fun _ _ => ?_) _ _)
theorem fenceColumn_keeps (die : Nat) (col : Nat) (status : Nat) (s : State) : Keeps s (fenceColumn die col status s) := by
  unfold fenceColumn
  repeat' first
  | with_reducible first
    | apply Keeps.refl | apply Keeps.after (State_setSett_keeps ..) | apply Keeps.after (setFenced_keeps ..)
  | dsimp only
  | with_reducible apply Keeps.after (foldl_keeps _ (fun _ _ => ?_) _ _)
theorem applyRepair_keeps (s : State) (e : Nat × Nat × Nat) : Keeps s (applyRepair s e) := by
  unfold applyRepair
  repeat' first
  | with_reducible first
    | apply Keeps.refl | apply Keeps.ite | apply Keeps.after (fenceColumn_keeps ..) | apply Keeps.after (State_setDie_keeps ..)
    | apply Keeps.after (State_setCore_keeps ..)
  | split
theorem bootRepairs_keeps (env : BootEnv) (s : State) : Keeps s (bootRepairs env s) := by
  unfold bootRepairs
  repeat' first
  | with_reducible first
    | apply Keeps.refl | apply Keeps.ite | apply Keeps.after (writeRepair_keeps ..) | apply Keeps.after (applyRepair_keeps ..)
    | apply Keeps.after (fenceColumn_keeps ..)
  | dsimp only
  | with_reducible apply Keeps.after (foldl_keeps _ (fun _ _ => ?_) _ _)
theorem bootStops_keeps (stage : Nat) (code : Nat) (s : State) : Keeps s (bootStops stage code s) := by
  unfold bootStops
  repeat' first | with_reducible apply Keeps.refl | with_reducible apply Keeps.after (State_setHearth_keeps ..)
theorem bootRest_keeps (env : BootEnv) (fell : Bool) (s : State) : Keeps s (bootRest env fell s) := by
  unfold bootRest
  have hk := bootMemory_keeps env s
  split
  · exact bootStops_keeps ..
  · next s1 e =>
    rw [e] at hk
    split
    · exact Keeps.trans hk (bootStops_keeps ..)
    · extract_lets s2 s3
      have h2 : Keeps s1 s3 := ((bootLintel_keeps ..).trans (bootRepairs_keeps ..)).trans (State_setHearth_keeps ..)
      split
      · exact (Keeps.trans hk h2).trans (fwEvent_keeps ..)
      · exact Keeps.trans hk h2
theorem bootStart_keeps (env : BootEnv) (s : State) : Keeps s (bootStart env s) := by
  unfold bootStart
  repeat' first
  | with_reducible first
    | apply Keeps.refl | apply Keeps.ite | apply Keeps.after (bootImage_keeps ..)
    | apply Keeps.after (State_setHearth_keeps ..) | apply Keeps.after (bootRest_keeps ..)
    | apply Keeps.after (applySettings_keeps ..)
  | (simp only [mk_anew]; with_reducible apply Keeps.after (anew_keeps ..))
theorem selectTap_keeps (t : TapInstr) (needsLow : Bool) (s : State) : Keeps s (selectTap t needsLow s) := by
  unfold selectTap
  repeat' first
  | with_reducible first
    | apply Keeps.refl | apply Keeps.ite
  | (simp only [mk_anew]; with_reducible apply Keeps.after (anew_keeps ..))
theorem showIdcode_keeps (s : State) : Keeps s (showIdcode s) := by
  unfold showIdcode
  repeat' first
  | with_reducible first
    | apply Keeps.refl | apply Keeps.ite | apply Keeps.after (State_emit_keeps ..)
theorem readReg_keeps (fn : Nat) (off : Nat) (s : State) : Keeps s (readReg fn off s) := by
  unfold readReg
  repeat' first
  | with_reducible first
    | apply Keeps.refl | apply Keeps.ite | apply Keeps.after (State_emit_keeps ..)
  | (simp only [mk_anew]; with_reducible apply Keeps.after (anew_keeps ..))
  | dsimp only
  | split
theorem runTest_keeps (j : TestJob) (s : State) : Keeps s (runTest j s) := by
  unfold runTest
  repeat' first
  | with_reducible first
    | apply Keeps.refl | apply Keeps.ite | apply Keeps.after (testCmd_keeps _ _ (fun _ => ?_) _)
    | apply Keeps.after (fenceSett_keeps ..) | apply Keeps.after (setCode_keeps ..) | apply Keeps.after (unfenceSett_keeps ..)
    | apply Keeps.after (startTest_keeps ..) | apply Keeps.after (startRetrain_keeps ..)
  | split
theorem stileWrite_keeps (o : Nat) (v : W32) (s : State) : Keeps s (stileWrite o v s) := by
  unfold stileWrite
  repeat' first
  | with_reducible first
    | apply Keeps.refl | apply Keeps.ite | apply Keeps.after (stopRun_keeps ..) | apply Keeps.after (requestPreempt_keeps ..)
    | apply Keeps.after (resetClient_keeps ..)
  | (simp only [mk_anew]; with_reducible apply Keeps.after (anew_keeps ..))
  | dsimp only
  | split
theorem clientWrite_keeps (fn : Nat) (c : Nat) (o : Nat) (v : W32) (s : State) : Keeps s (clientWrite fn c o v s) := by
  unfold clientWrite
  repeat' first
  | with_reducible first
    | apply Keeps.refl | apply Keeps.ite | apply Keeps.after (State_setCl_keeps ..) | apply Keeps.after (writeCqCtrl_keeps ..)
    | apply Keeps.after (writeCqTail_keeps ..) | apply Keeps.after (writeQueueCtrl_keeps ..)
  | split
theorem mbCtrl_keeps (v : Nat) (s : State) : Keeps s (mbCtrl v s) := by
  unfold mbCtrl
  repeat' first
  | with_reducible first
    | apply Keeps.refl | apply Keeps.ite | apply Keeps.after (resetBox_keeps ..) | apply Keeps.after (nackNote_keeps ..)
    | apply Keeps.after (State_setHearth_keeps ..)
theorem hearthWrite_keeps (o : Nat) (v : W32) (s : State) : Keeps s (hearthWrite o v s) := by
  unfold hearthWrite
  repeat' first
  | with_reducible first
    | apply Keeps.refl | apply Keeps.ite | apply Keeps.after (State_setHearth_keeps ..) | apply Keeps.after (mbCtrl_keeps ..)
  | split
theorem ctxRegWrite_keeps (c : Nat) (o : Nat) (v : W32) (s : State) : Keeps s (ctxRegWrite c o v s) := by
  unfold ctxRegWrite
  repeat' first
  | with_reducible first
    | apply Keeps.refl | apply Keeps.ite | apply Keeps.after (fabricDone_keeps ..) | apply Keeps.after (ctxTakeDown_keeps ..)
    | apply Keeps.after (ctxReturn_keeps ..)
  | split
theorem mortarWrite_keeps (o : Nat) (v : W32) (s : State) : Keeps s (mortarWrite o v s) := by
  unfold mortarWrite
  repeat' first
  | with_reducible apply Keeps.refl
  | (simp only [mk_anew]; with_reducible apply Keeps.after (anew_keeps ..))
  | dsimp only
  | split
theorem portWrite_keeps (p : Nat) (o : Nat) (v : W32) (s : State) : Keeps s (portWrite p o v s) := by
  unfold portWrite
  repeat' first
  | with_reducible first
    | apply Keeps.refl | apply Keeps.ite | apply Keeps.after (State_setPort_keeps ..) | apply Keeps.after (fabricDone_keeps ..)
    | apply Keeps.after (golgerTakeDown_keeps ..) | apply Keeps.after (golgerTrain_keeps ..)
  | dsimp only
  | split
theorem golgerWrite_keeps (o : Nat) (v : W32) (s : State) : Keeps s (golgerWrite o v s) := by
  unfold golgerWrite
  repeat' first
  | with_reducible first
    | apply Keeps.refl | apply Keeps.ite | apply Keeps.after (golgerSetId_keeps ..)
  | (simp only [mk_anew]; with_reducible apply Keeps.after (anew_keeps ..))
  | dsimp only
  | split
theorem codecCoreWrite_keeps (c : Nat) (o : Nat) (v : W32) (s : State) : Keeps s (codecCoreWrite c o v s) := by
  unfold codecCoreWrite
  repeat' first
  | with_reducible first
    | apply Keeps.refl | apply Keeps.ite | apply Keeps.after (fenceCore_keeps ..) | apply Keeps.after (unfenceCore_keeps ..)
    | apply Keeps.after (testCore_keeps ..)
  | dsimp only
  | split
theorem codecWrite_keeps (o : Nat) (v : W32) (s : State) : Keeps s (codecWrite o v s) := by
  unfold codecWrite
  repeat' first
  | with_reducible apply Keeps.refl
  | (simp only [mk_anew]; with_reducible apply Keeps.after (anew_keeps ..))
  | dsimp only
  | split
theorem hbmWrite_keeps (d : Nat) (o : Nat) (v : W32) (s : State) : Keeps s (hbmWrite d o v s) := by
  unfold hbmWrite
  repeat' first | with_reducible apply Keeps.refl | with_reducible apply Keeps.after (State_setDie_keeps ..) | split
theorem fallowWrite_keeps (d : Nat) (o : Nat) (v : W32) (s : State) : Keeps s (fallowWrite d o v s) := by
  unfold fallowWrite
  repeat' first | with_reducible apply Keeps.refl | with_reducible apply Keeps.after (State_setDie_keeps ..) | split
theorem xlatWrite_keeps (c : Nat) (o : Nat) (v : W32) (s : State) : Keeps s (xlatWrite c o v s) := by
  unfold xlatWrite
  repeat' first
  | with_reducible first
    | apply Keeps.refl | apply Keeps.after (writeFqCtrl_keeps ..) | apply Keeps.after (writeFqTail_keeps ..)
  | split
theorem clearAlarms_keeps (v : W32) (s : State) : Keeps s (clearAlarms v s) := by
  unfold clearAlarms
  repeat' first
  | with_reducible first
    | apply Keeps.refl | apply Keeps.ite | apply Keeps.after (State_setTelem_keeps ..)
    | apply Keeps.after (State_emit_keeps ..)
theorem telemWrite_keeps (o : Nat) (v : W32) (s : State) : Keeps s (telemWrite o v s) := by
  unfold telemWrite
  repeat' first
  | with_reducible first
    | apply Keeps.refl | apply Keeps.ite | apply Keeps.after (clearAlarms_keeps ..)
    | apply Keeps.after (State_setTelem_keeps ..) | apply Keeps.after (rearmCrash_keeps ..)
  | split
theorem powerWrite_keeps (o : Nat) (v : W32) (s : State) : Keeps s (powerWrite o v s) := by
  unfold powerWrite
  split
  · exact setFmax_keeps ..
  · exact setPowerK (Keeps.refl s) (fun hp => legal_limit _ _ hp)
  · exact setPowerK (Keeps.refl s) (fun h => h)
  · exact setPowerK (Keeps.refl s) (fun h => h)
  · exact Keeps.refl _
theorem testWrite_keeps (o : Nat) (v : W32) (s : State) : Keeps s (testWrite o v s) := by
  unfold testWrite
  repeat' first
  | with_reducible first
    | apply Keeps.refl | apply Keeps.ite | apply Keeps.after (setCode_keeps ..) | apply Keeps.after (runTest_keeps ..)
    | apply Keeps.after (coldReset_keeps ..) | apply Keeps.after (warmReset_keeps ..)
  | (simp only [mk_anew]; with_reducible apply Keeps.after (anew_keeps ..))
  | dsimp only
  | split
theorem settWrite_keeps (i : Nat) (o : Nat) (v : W32) (s : State) : Keeps s (settWrite i o v s) := by
  unfold settWrite
  repeat' first | with_reducible apply Keeps.refl | with_reducible apply Keeps.after (State_setSett_keeps ..) | split
theorem write32_keeps (fn : Nat) (off : Nat) (v : W32) (s : State) : Keeps s (write32 fn off v s) := by
  unfold write32
  repeat' first
  | with_reducible first
    | apply Keeps.refl | apply Keeps.ite | apply Keeps.after (stileWrite_keeps ..) | apply Keeps.after (clientWrite_keeps ..)
    | apply Keeps.after (hearthWrite_keeps ..) | apply Keeps.after (ctxRegWrite_keeps ..)
    | apply Keeps.after (mortarWrite_keeps ..) | apply Keeps.after (portWrite_keeps ..)
    | apply Keeps.after (golgerWrite_keeps ..) | apply Keeps.after (codecCoreWrite_keeps ..)
    | apply Keeps.after (codecWrite_keeps ..) | apply Keeps.after (hbmWrite_keeps ..)
    | apply Keeps.after (fallowWrite_keeps ..) | apply Keeps.after (xlatWrite_keeps ..)
    | apply Keeps.after (invalidate_keeps ..) | apply Keeps.after (telemWrite_keeps ..)
    | apply Keeps.after (powerWrite_keeps ..) | apply Keeps.after (testWrite_keeps ..) | apply Keeps.after (settWrite_keeps ..)
  | dsimp only
  | split
theorem stileCommit_keeps (o : Nat) (v : W64) (s : State) : Keeps s (stileCommit o v s) := by
  unfold stileCommit
  repeat' first
  | with_reducible first
    | apply Keeps.refl | apply Keeps.ite
  | (simp only [mk_anew]; with_reducible apply Keeps.after (anew_keeps ..))
  | dsimp only
  | split
theorem writeQueueBase_keeps (c : Nat) (n : Nat) (v : W64) (s : State) : Keeps s (writeQueueBase c n v s) := by
  unfold writeQueueBase
  repeat' first | with_reducible apply Keeps.refl | with_reducible apply Keeps.after (State_setQ_keeps ..)
theorem clientCommit_keeps (c : Nat) (o : Nat) (v : W64) (s : State) : Keeps s (clientCommit c o v s) := by
  unfold clientCommit
  repeat' first
  | with_reducible first
    | apply Keeps.refl | apply Keeps.ite | apply Keeps.after (writeCqBase_keeps ..)
    | apply Keeps.after (writeQueueBase_keeps ..)
theorem faultAnswer_keeps (c : Nat) (v : W64) (s : State) : Keeps s (faultAnswer c v s) := by
  unfold faultAnswer
  repeat' first
  | with_reducible first
    | apply Keeps.refl | apply Keeps.after (answerResume_keeps ..) | apply Keeps.after (answerFail_keeps ..)
  | split
theorem xlatCommit_keeps (c : Nat) (o : Nat) (v : W64) (s : State) : Keeps s (xlatCommit c o v s) := by
  unfold xlatCommit
  repeat' first
  | with_reducible first
    | apply Keeps.refl | apply Keeps.after (State_setClient_keeps ..) | apply Keeps.after (writeFqBase_keeps ..)
    | apply Keeps.after (faultAnswer_keeps ..)
  | split
theorem codecCommit_keeps (o : Nat) (v : W64) (s : State) : Keeps s (codecCommit o v s) := by
  unfold codecCommit
  repeat' first
  | with_reducible first
    | apply Keeps.refl | apply Keeps.ite
  | (simp only [mk_anew]; with_reducible apply Keeps.after (anew_keeps ..))
  | dsimp only
  | split
theorem commit64_keeps (off : Nat) (v : W64) (s : State) : Keeps s (commit64 off v s) := by
  unfold commit64
  repeat' first
  | with_reducible first
    | apply Keeps.refl | apply Keeps.ite | apply Keeps.after (stileCommit_keeps ..) | apply Keeps.after (clientCommit_keeps ..)
    | apply Keeps.after (codecCommit_keeps ..) | apply Keeps.after (State_setDie_keeps ..)
    | apply Keeps.after (xlatCommit_keeps ..) | apply Keeps.after (State_setTelem_keeps ..)
  | (simp only [mk_anew]; with_reducible apply Keeps.after (anew_keeps ..))
  | dsimp only
  | split
theorem commitHigh_keeps (fn : Nat) (low : Nat) (cur : Nat) (v : W32) (s : State) : Keeps s (commitHigh fn low cur v s) := by
  unfold commitHigh
  repeat' first
  | with_reducible first
    | apply Keeps.refl | apply Keeps.ite | apply Keeps.after (commit64_keeps ..) | apply Keeps.after (anew_keeps ..)
  | (simp only [mk_anew]; with_reducible apply Keeps.after (anew_keeps ..))
theorem writeReg_keeps (fn : Nat) (off : Nat) (v : W32) (s : State) : Keeps s (writeReg fn off v s) := by
  unfold writeReg
  repeat' first
  | with_reducible first
    | apply Keeps.refl | apply Keeps.ite | apply Keeps.after (bar4Write_keeps ..) | apply Keeps.after (commitHigh_keeps ..)
    | apply Keeps.after (write32_keeps ..)
  | (simp only [mk_anew]; with_reducible apply Keeps.after (anew_keeps ..))
  | split
theorem slotFree_keeps (mb : Nat) (msg : List Byte) (f : State → State) (h1 : ∀ y0, Keeps y0 (f y0)) (s : State) : Keeps s (slotFree mb msg f s) := by
  unfold slotFree
  repeat' first | with_reducible apply Keeps.refl | with_reducible apply Keeps.ite | with_reducible apply Keeps.after (h1 ..)
theorem waitTick_keeps (s : State) (r : Run) : Keeps s (waitTick s r) := by
  unfold waitTick
  repeat' first
  | with_reducible first
    | apply Keeps.refl | apply Keeps.after (State_setCl_keeps ..)
  | (simp only [mk_anew]; with_reducible apply Keeps.after (anew_keeps ..))
theorem ownerTick_keeps (s : State) (r : Run) : Keeps s (ownerTick s r) := by
  unfold ownerTick
  repeat' first
  | with_reducible first
    | apply Keeps.refl | apply Keeps.after (State_setCl_keeps ..)
  | (simp only [mk_anew]; with_reducible apply Keeps.after (anew_keeps ..))
  | dsimp only
  | split
theorem timerTick_keeps (s : State) : Keeps s (timerTick s) := by
  unfold timerTick
  simp only [mk_anew]
  exact Keeps.after (anew_keeps ..) (Keeps.refl _)
theorem portTick_keeps (s : State) : Keeps s (portTick s) := by
  unfold portTick
  repeat' first
  | with_reducible first
    | apply Keeps.refl | apply Keeps.after (State_setPort_keeps ..) | apply Keeps.after (foldl_keeps _ (fun _ _ => ?_) _ _)
theorem tick_keeps (s : State) : Keeps s (tick s) := by
  have hp : ∀ t : State, Keeps t (t.setPower (powerTick (arrayIdle s))) := fun t => setPowerK (Keeps.refl t) (fun h => h)
  unfold tick
  repeat' first
  | with_reducible first
    | apply Keeps.refl | apply Keeps.ite | apply Keeps.after (portTick_keeps ..) | apply Keeps.after (timerTick_keeps ..)
    | apply Keeps.after (codecTick_keeps ..) | apply Keeps.after (hp ..) | apply Keeps.after (markFailing_keeps ..)
    | apply Keeps.after (waitTick_keeps ..) | apply Keeps.after (ownerTick_keeps ..)
  | (simp only [mk_anew]; with_reducible apply Keeps.after (anew_keeps ..))
  | dsimp only
  | with_reducible apply Keeps.after (foldl_keeps _ (fun _ _ => ?_) _ _)
  | split
theorem issued_keeps (s : State) (st : Nat) (g : Sett → Sett) : Keeps s (issued s st g) := by
  unfold issued
  repeat' first
  | with_reducible first
    | apply Keeps.refl | apply Keeps.after (State_setSett_keeps ..) | apply Keeps.after (markIssued_keeps ..)
theorem accepted_keeps (s : State) (st : Nat) (q : UnitId) (ins : Instr) (len : W64) : Keeps s (accepted s st q ins len) := by
  unfold accepted
  repeat' first
  | with_reducible first
    | apply Keeps.refl | apply Keeps.after (State_setSett_keeps ..) | apply Keeps.after (markIssued_keeps ..)
theorem executed_keeps (s : State) (st : Nat) (q : UnitId) (ins : Instr) (g : Sett → Sett) : Keeps s (executed s st q ins g) := by
  unfold executed
  repeat' first
  | with_reducible first
    | apply Keeps.refl | apply Keeps.after (State_setSett_keeps ..) | apply Keeps.after (markIssued_keeps ..)
theorem marked_keeps (st : Nat) (seq : Nat) (x2 : EntrySt) (s : State) : Keeps s (marked st seq x2 s) := by
  unfold marked
  repeat' first | with_reducible apply Keeps.refl | with_reducible apply Keeps.after (State_setSett_keeps ..)
theorem requested_keeps (mb : Nat) (msg : List Byte) (s : State) : Keeps s (requested mb msg s) := by
  unfold requested
  repeat' first
  | with_reducible first
    | apply Keeps.refl | apply Keeps.ite | apply Keeps.after (State_setHearth_keeps ..)

end Sys2Proof.Laws
end

