-- ==== Sys2Proof/Tests/Slice0.lean ====
section
/-! SUPPORT. Tests: one ill-formed term for each check of WellFormed, small steps with results from the spec, and for
each statement with hypotheses concrete states and operands that meet them. -/

namespace Sys2Proof.Tests

open Sys2Proof Sys2Proof.Machine

-- One test after the other: a kernel check waits for every proof above it, and tests that wait side by side
-- each hold a thread with its stack.
set_option Elab.async false

/-! Small states -/

/-- The state that a command answers. -/
def after (o : Answer) : State :=
  match o with
  | .next t => t
  | .fault _ => State.reset
  | .refused _ => State.reset

/-- A module that has booted: rails on, link up, Hearth ready. -/
def up : State :=
  { State.reset with
    hearth := { Hearth.reset with stage := 8, ready := true }
    conn := { Conn.reset with linkUp := true, pwrGood := true, vin := true } }

/-- A descriptor: kind, rank, format, VA or byte offset, extents and valid counts. -/
def dsc (kind rank fmt base : Nat) (e v : List Nat) : BitVec 256 :=
  BitVec.ofNat 256 (kind * 2 ^ 63 + rank * 2 ^ 61 + fmt * 2 ^ 57 + (if kind = 1 then base else base * 2 ^ 13)
    + 2 ^ 64 * (e.getD 0 1 + 2 ^ 16 * e.getD 1 1 + 2 ^ 32 * e.getD 2 1 + 2 ^ 48 * e.getD 3 1)
    + 2 ^ 128 * (v.getD 0 1 + 2 ^ 16 * v.getD 1 1 + 2 ^ 32 * v.getD 2 1 + 2 ^ 48 * v.getD 3 1))

def h0 : Hdr := ⟨false, 0, 0⟩
/-- EV 1, EVT 3, PRED p1. -/
def h1 : Hdr := ⟨true, 3, 1⟩

/-- A1: one U32 word in scratch. A2: two FP32 elements. A3: kind 1, I32, at VA 0x10000. A4: kind 1, U8. -/
def s2 : Sett :=
  { Sett.reset with
    phase := .running, carving := [⟨0, 512, 0, false⟩], pc := 64
    a := [(1, dsc 0 0 9 0 [2] [2]), (2, dsc 0 0 0 64 [2] [2]), (3, dsc 1 0 8 0x10000 [1] [1]), (4, dsc 1 0 10 0x10100 [64] [64])]
    s := [(1, 7), (2, 3), (3, 0x10000), (4, 0xFFFFFFFFFFFFFFFF)] }

def man : Manifest :=
  { version := 3, level := 3, rows := 1, cols := 2, bytes := 0, objects := [BitVec.ofNat 512 (2 ^ 64 * 2 ^ 30)], streams := []
    setts := [], counters := [], pools := [], cairn := [], groups := [], members := [], saveObject := 0, escBudget := 0, wdogBudget := 5 }

def run : Run :=
  { client := 2, queue := 0, cls := 0, desc := 0, tag := 0, irq := false, manifestVa := 0, warnVa := 0, manifest := man, seqNo := 4
    admitted := true, placement := [(0, 0), (1, 1)], contexts := [], wait := 0, runt := 0, save := 0, preempts := 0, faults := 0
    warn := false, issued := true, start := 0, wdog := 0, saved := none }

/-- Page tables at 0x1000, and the word 41 at 0x10000. -/
def dev0 : SMap Byte := SMap.setMany 0 (SMap.setMany 0 (SMap.setMany 0 [] 0x1000 (leBytes 0x2001 8)) 0x2000 (leBytes 7 8)) 0x10000 (leBytes 41 8)

/-- A TLB's entry of client `c` for the page at 0x10000, and Lintel lines 256 to 263, which hold its first 2 KiB good. -/
def tlb0 (c : Nat) : TlbEntry := ⟨c, 0x10000, 16, 0x10000, 0, true⟩
def lines0 : SMap Line := (List.range' 256 8).map fun k => (k, ⟨0xFF, 0, 0, [], [], false⟩)
/-- Setts 0 and 1 run; client 2's tables map VA 0x10000 to device memory, and the TLBs of both setts and of Stile hold its page;
`f` sets up sett 0. -/
def rs (f : Sett → Sett) : State :=
  { (up.setClient 2 fun x => { x with root := 0x1001 }) with
    xlat := { (up.setClient 2 fun x => { x with root := 0x1001 }).xlat with tlbs := [(0, [tlb0 2]), (3, [tlb0 2, tlb0 0]), (4, [tlb0 2])] }
    setts := [(0, f s2), (1, { s2 with pc := 0 })]
    mem := { Mem.reset with dev := dev0, lines := lines0 }
    stile := { Stile.reset with cur := some run, array := .running } }

def s0 : State := rs id

def fS (i : Bool) (imm : BitVec 34) : LayS := ⟨5, 1, i, 2, imm⟩
def fT (ad aa ab : BitVec 4) (md : BitVec 18 := 0) : LayT := ⟨ad, aa, ab, 1, 2, 7, md⟩
def fB (aa ad : BitVec 4) : LayB := ⟨2, aa, ad, 3, 1, 6, true, 5⟩
def fV : LayV := ⟨1, 2, 3, 4, 1, 2, 1, 0⟩
def fF (m : Bool) : LayF := ⟨2, 2, 2, m⟩
def fW (stride : BitVec 12) : LayW := ⟨2, 2, stride, 0, 0, false, false, true, 0⟩

/-! WellFormed: an ill-formed term for each check -/

def msg (type n : Nat) : List Byte := leBytes 1 1 ++ leBytes 1 1 ++ leBytes type 2 ++ leBytes 9 4 ++ leBytes n 4 ++ leBytes 0 4 ++ leBytes 0 n
def flit0 : Flit := ⟨leBytes 0 255, false, 0⟩
def noEnv (cols : List Nat) : BootEnv := ⟨true, 15, true, true, true, cols, (0, 0), true, (0, 0)⟩

theorem test_wf_refuses : ∀ i ∈ ([.fetchReturn 408, .cairnClearStart 2, .lintelWaitRelease 4, .resume 32 0, .nop 0 8, .nop 32 0,
    .run 0 0 man, .codecSliceStart 24, .collectiveStart 256, .ackLimitExpiry 0 16, .ackChunk 0 ⟨[], []⟩, .portTrain 12,
    .idleFlit 0 flit0, .zqCalibration 2 0, .timingAdjustment 0 192, .wakeComplete 71 true, .kick 4, .getInfo 3 (msg 2 0),
    .getInfo 0 (msg 3 0), .getInfo 0 [], .getDigests 3 [0, 0x81, 0, 0], .getDigests 0 [0, 0x82, 0, 0], .getDigests 0 [0, 0x81],
    .spdmUnsupportedRequest 0 [0, 0x81, 0, 0], .fence 408, .bootStart (noEnv [34]), .registerWrite 0 6 0] : List Instr), i.wf = false := by
  decide +kernel

theorem test_wf_accepts : ∀ i ∈ ([.fetchReturn 407, .cairnClearStart 1, .lintelWaitRelease 8, .resume 31 0, .nop 31 7,
    .codecSliceStart 23, .collectiveStart 255, .ackLimitExpiry 0 15, .portTrain 11, .timingAdjustment 1 191, .wakeComplete 70 true,
    .kick 3, .getInfo 2 (msg 2 0), .getDigests 2 [0, 0x81, 0, 0], .spdmUnsupportedRequest 0 [0, 0x8F, 0, 0],
    .bootStart (noEnv [33]), .registerWrite 31 4 0] : List Instr), i.wf = true := by
  decide +kernel

/-! Small steps; results from the spec -/

/-- R98: 64-bit sums wrap; a zero divisor gives 2^64 − 1 and SA; shifts use bits [5:0]. -/
theorem test_scl_add_wraps : ((after (exec (.sclAdd 0 h0 ⟨5, 4, true, 0, 2⟩) s0)).sett 0).sreg 5 = 1 := by decide +kernel
theorem test_scl_divu_zero : ((after (exec (.sclDivu 0 h0 (fS true 0)) s0)).sett 0).sreg 5 = 0xFFFFFFFFFFFFFFFF := by decide +kernel
theorem test_scl_remu_zero : ((after (exec (.sclRemu 0 h0 (fS true 0)) s0)).sett 0).sreg 5 = 7 := by decide +kernel
theorem test_scl_sra : ((after (exec (.sclSra 0 h0 ⟨5, 4, true, 0, 65⟩) s0)).sett 0).sreg 5 = 0xFFFFFFFFFFFFFFFF := by decide +kernel
theorem test_scl_max_signed : ((after (exec (.sclMax 0 h0 ⟨5, 4, true, 0, 1⟩) s0)).sett 0).sreg 5 = 1 := by decide +kernel
theorem test_scl_zero_register : ((after (exec (.sclAdd 0 h0 ⟨0, 1, true, 0, 2⟩) s0)).sett 0).sreg 0 = 0 := by decide +kernel
/-- R84: a suppressed word only advances the pc, by two words where there is an extension word. -/
theorem test_suppressed : ((after (exec (.sclLi 0 h1 (fS true 0) 9) s0)).sett 0).pc = 80 := by decide +kernel
/-- R97: the target is PC + 8 × OFF. -/
theorem test_branch : ((after (exec (.ctlBr 0 h0 ⟨0, -2⟩) s0)).sett 0).pc = 48 := by decide +kernel
/-- R37: level 3. -/
theorem test_caps : ((after (exec (.sysCaps 0 h0 (fS true 0)) s0)).sett 0).sreg 5 = 3 := by decide +kernel
/-- R138: 1.5 + 2.5 = 4 in FP32. -/
theorem test_fadd : fAdd 0x3FC00000 0x40200000 = (0x40800000, 0) := by decide +kernel
/-- R137: in FP4 6.4 is a clip and is stored as 6.0; 6.0 is no clip. -/
theorem test_fp4_clip : (let n := Fmt.fp4.narrowBlock [some (.fin (mkRat 64 10)), some (.fin 6)]
    (n.clips, n.codes)) = (1, [7, 7]) := by decide +kernel
/-- R128: 0b10 reads as 0. -/
theorem test_t2_codes : [0, 1, 2, 3].map Fmt.t2.elemVal = [.fin 0, .fin 1, .fin 0, .fin (-1)] := by decide +kernel
/-- R253: a filter larger than its input gives no output; a stride larger than the filter gives 16. -/
theorem test_window_extent : winOut (fW 0) (BitVec.ofNat 64 (15 * 2 ^ 48)) 8 0 = 0 ∧
    winOut (fW 3) (BitVec.ofNat 64 (2 * 2 ^ 48 + 0x0101)) 64 0 = 16 := by decide +kernel
/-- R112: ATOM.MAX leaves the old word in SD. -/
theorem test_atom_max : (let t := after (exec (.atomMax 0 h0 (fB 0 0)) s0); ((t.sett 0).sreg 6, t.devByte 0x10000)) = (41, 41) := by
  decide +kernel
theorem test_wc_take : (let t := after (exec (.wcTake 0 h0 (fB 0 0)) s0); ((t.sett 0).sreg 6, t.devByte 0x10000)) = (41, 46) := by
  decide +kernel
/-- R6: 204 setts to a die, 17 to a row. -/
theorem test_physical_index : State.reset.physOf 1 16 = 221 := by decide +kernel
/-- R572: both dies' identification. -/
theorem test_idcode : (after (exec .idcode up)).out = [.tdo [0x1C193A6B, 0x1C192A6B]] := by decide +kernel
/-- R527: the limit stays between 800 and 2,400 W. -/
theorem test_limit_clamps : (after (exec (.registerWrite 0 0xA00008 10) up)).power.limit = 800 := by decide +kernel
/-- R538, R540: REARM lets the next crash freeze again. -/
theorem test_crash : (freezeCrash 5 up).telem.crash.map (·.code) = some 5 ∧
    (freezeCrash 6 (freezeCrash 5 up)).telem.crash.map (·.code) = some 5 := by decide +kernel
/-- R519: two endpoint identifiers are reserved. -/
theorem test_eid_reserved : (after (exec (.setEndpointId 2 0xFF) up)).hearth.eid = up.hearth.eid := by decide +kernel
theorem test_idle_step : (after (step { up with aon := 7 })).aon = 8 := by decide +kernel

/-! Words of code, written out from the layouts of R77 and R96 and the opcode tables -/

/-- The header: CLASS, OP, X, EV, EVT, PRED. -/
def hw (cls op x ev evt pred : Nat) : Nat := cls * 2 ^ 60 + op * 2 ^ 54 + x * 2 ^ 53 + ev * 2 ^ 52 + evt * 2 ^ 48 + pred * 2 ^ 45
def tw (ad aa ab sa sb sd md : Nat) : Nat := ad * 2 ^ 41 + aa * 2 ^ 37 + ab * 2 ^ 33 + sa * 2 ^ 28 + sb * 2 ^ 23 + sd * 2 ^ 18 + md
def bw (e aa ad sa sb sd i imm : Nat) : Nat :=
  e * 2 ^ 41 + aa * 2 ^ 37 + ad * 2 ^ 33 + sa * 2 ^ 28 + sb * 2 ^ 23 + sd * 2 ^ 18 + i * 2 ^ 17 + imm
/-- Class 0x0, layout C: CTL.BR with OFF −2 and p1; class 0x1, layout S: SCL.ADD s5, s1, 9, and SCL.SUB s5, s1, s2; SCL.LI. -/
theorem test_decode_scalar : decodeTableWord 64 (hw 0 0 0 0 0 1 + (2 ^ 32 - 2)) = some (.ctlBr 0 ⟨false, 0, 1⟩ ⟨0, -2⟩) ∧
    decodeTableWord 64 (hw 1 0 0 0 0 0 + 5 * 2 ^ 40 + 1 * 2 ^ 35 + 2 ^ 34 + 9) = some (.sclAdd 0 h0 ⟨5, 1, true, 0, 9⟩) ∧
    decodeTableWord 64 (hw 1 1 0 0 0 0 + 5 * 2 ^ 40 + 1 * 2 ^ 35 + 2 * 2 ^ 29) = some (.sclSub 0 h0 ⟨5, 1, false, 2, 0⟩) ∧
    decodeTableWord 128 (hw 1 15 1 0 0 0 + 5 * 2 ^ 40 + 2 ^ 64 * 77) = some (.sclLi 0 h0 ⟨5, 0, false, 0, 0⟩ 77) := by decide +kernel
/-- Layout V: VEC.FMA v1, v2, v3, v4 with EV, e3 and p1. Layout F: GATE.SILU v2, v3. Layout T: CAIRN.FLIP, KV.LOAD, COLL.POST, UPD.SWEEP with RULE 3. -/
theorem test_decode_units :
    decodeTableWord 64 (hw 4 3 0 1 3 1 + 1 * 2 ^ 40 + 2 * 2 ^ 35 + 3 * 2 ^ 30 + 4 * 2 ^ 25) = some (.vecFma 0 h1 ⟨1, 2, 3, 4, 0, 0, 0, 0⟩) ∧
    decodeTableWord 64 (hw 5 4 0 0 0 0 + 2 * 2 ^ 40 + 3 * 2 ^ 35) = some (.gateSilu 0 h0 ⟨2, 3, 0, false⟩) ∧
    decodeTableWord 64 (hw 9 3 0 0 0 0 + tw 2 1 0 3 4 0 0) = some (.kvLoad 0 h0 ⟨2, 1, 0, 3, 4, 0, 0⟩) ∧
    decodeTableWord 64 (hw 12 0 0 0 0 0 + tw 0 6 0 7 0 0 0) = some (.collPost 0 h0 ⟨0, 6, 0, 7, 0, 0, 0⟩) ∧
    decodeTableWord 64 (hw 13 0 0 0 0 0 + tw 2 4 3 1 0 5 (3 * 2 ^ 16)) = some (.updSweep 0 h0 ⟨2, 4, 3, 1, 0, 5, 196608⟩) := by decide +kernel
/-- Layout B: WC.TAKE s6, [s3], 5 and ATOM.CAS with its extension word; class 0xF: SYS.CAPS s5, 2. -/
theorem test_decode_sync : decodeTableWord 64 (hw 11 3 0 0 0 0 + bw 0 0 0 3 0 6 1 5) = some (.wcTake 0 h0 ⟨0, 0, 0, 3, 0, 6, true, 5⟩) ∧
    decodeTableWord 128 (hw 11 7 1 0 0 0 + bw 0 0 0 3 1 6 0 0 + 2 ^ 64 * 41) = some (.atomCas 0 h0 ⟨0, 0, 0, 3, 1, 6, false, 0⟩ 41) ∧
    decodeTableWord 64 (hw 15 1 0 0 0 0 + 5 * 2 ^ 40 + 2 ^ 34 + 2) = some (.sysCaps 0 h0 ⟨5, 0, true, 0, 2⟩) := by decide +kernel
/-- R79, R80: a reserved opcode, a reserved bit that is set, an X bit that the opcode table does not give, an extension word
that is missing, and EV in class 0x0. -/
theorem test_decode_refuses : decodeTableWord 64 (hw 0 3 0 0 0 0) = none ∧ decodeTableWord 64 (hw 4 3 0 0 0 0 + 1) = none ∧
    decodeTableWord 64 (hw 4 3 1 0 0 0) = none ∧ decodeTableWord 64 (hw 1 15 1 0 0 0 + 5 * 2 ^ 40) = none ∧ decodeTableWord 64 (hw 0 0 0 1 3 1 + 2) = none := by decide +kernel

/-! Hypotheses that can be met, statement by statement -/

def okR {α : Type} (r : Res α) : Bool :=
  match r with
  | .ok _ _ => true
  | .fault _ _ _ _ => false
  | .bad _ _ => false
def doneE (e : Eff) : Bool :=
  match e with
  | .done _ => true
  | .wait _ _ _ _ => false
  | .fault _ _ _ _ _ _ => false
  | .bad _ _ => false

/-- ScalarClass, ControlAndSystem, Descriptors, VectorUnit, FunctionRegisters, MatrixUnit, LedgerFrame, RowUnit, Scratch,
SortAndAttention, QuantiseAndEscalate, StreamsInScratch, UpdateSweep: sett 0 issues and is sound. -/
theorem test_meets_issue : issuesNow s0 0 h0 ∧ issuesAny s0 0 ∧ (s0.sett 0).sound := by
  unfold issuesNow issuesAny Sett.sound
  decide +kernel

/-- SYNC.WAIT: counter e2 has reached the value, and has not. -/
theorem test_meets_sync_wait : issuesNow (rs fun t => { t with evt := [(2, 5)] }) 0 h0 ∧
    ((rs fun t => { t with evt := [(2, 5)] }).sett 0).ereg 2 = 5 ∧ (s0.sett 0).ereg 2 = 0 := by
  unfold issuesNow
  decide +kernel

/-- Descriptors: DESC.SET of a descriptor that passes and of one that fails; DESC.ADJ at OFFSET 0 and of kind 1. -/
theorem test_meets_descriptors :
    descCheck (s0.sett 0).carving false (dsc 0 0 9 508 [1] [1]) = true ∧ descCheck (s0.sett 0).carving false (dsc 0 0 9 512 [1] [1]) = false ∧
    effDescAdj ⟨1, 0, true, 0, 4⟩ (s0.sett 0) ≠ none ∧ effDescAdj ⟨1, 0, true, 0, 510⟩ (s0.sett 0) = none ∧
    Fmt.ofCode (descFmt ((s0.sett 0).areg 1)) = some .u32 ∧ descKind1 ((s0.sett 0).areg 1) = false ∧
    descOffset ((s0.sett 0).areg 1) + 4 < 2 ^ 22 ∧ descKind1 ((s0.sett 0).areg 3) = true := by
  decide +kernel

theorem test_meets_suppressed : suppressedNow s0 0 h1 ∧ ((useOf (.sclAdd 0 h1 (fS true 0))).map (·.unit)) = some none ∧
    (useOf (.vecLd 0 h1 fV)).map (·.lanes) = some true ∧ (useOf (.mma 0 h1 (fT 0 1 2))).map (·.lanes) = some false := by
  unfold suppressedNow
  decide +kernel

theorem test_meets_function : (fF false).m = false ∧ (fF true).m = true ∧ (s0.sett 0).mode = 0 ∧
    issuesAny (rs fun t => { t with mode := 1 }) 0 := by
  unfold issuesAny
  decide +kernel

/-- MatrixUnit: a kind-0 and a kind-1 AB; a bank just cleared at an anchor. -/
theorem test_meets_matrix : isMemOp (s0.sett 0) 2 = false ∧ isMemOp (s0.sett 0) 3 = true ∧
    issuesNow (rs fun t => { t with banks := SMap.set Bank.zero [] 0 ⟨-3, [], []⟩ }) 0 h0 ∧
    ((rs fun t => { t with banks := SMap.set Bank.zero [] 0 ⟨-3, [], []⟩ }).sett 0).sound := by
  unfold issuesNow Sett.sound
  decide +kernel

/-- TermOrder: two orders of three terms. -/
theorem test_meets_perm : ([.fin 1, .fin 2, .nan] : List Val).Perm [.nan, .fin 1, .fin 2] := by decide +kernel

/-- TernaryRounding: a block with a value below, at and above one half. -/
theorem test_meets_ternary : (let vs : List (Option Val) := [some (.fin 1), some (.fin (mkRat 1 2)), some (.fin (mkRat (-3) 4)), none, some (.fin 0)]
    (vs.all fun v => (v.map Val.isFin).getD true) && (vs.any fun v => (v.map fun x => !x.isZero).getD false) &&
      (Fmt.t2.narrowBlock vs).scale == 127 && (Fmt.t2.narrowBlock vs).codes == [1, 0, 3, 0, 0]) = true := by decide +kernel

/-- EmptyWindow: no output position, and what both opcodes then leave. -/
theorem test_meets_empty_window : (let ext : W64 := BitVec.ofNat 64 (15 * 2 ^ 48)
    (winGeo ((rs fun t => t.setA 2 (dsc 0 1 0 64 [2, 8] [2, 8])).sett 0) (fW 0) ext).positions = 0 ∧
    ((after (exec (.winPool 0 h0 (fW 0) ext) (rs fun t => t.setA 2 (dsc 0 1 0 64 [2, 8] [2, 8])))).sett 0).flags = flEmpty) := by
  decide +kernel

/-- ESC.MARK: a slot with a wider step and one without. -/
theorem test_meets_escalation : Slot.reset.next = none ∧ ({ Slot.reset with steps := 0x1E } : Slot).next = some 2 ∧
    ((s0.sett 0).slot (modSlot14 (fT 0 1 2))).next = none := by decide +kernel

/-- UnitExecution: an effect that is done, that waits, that faults; a full queue. -/
theorem test_meets_units :
    doneE (unitEffect 0 0 0 [] (.escPin 0 h0 (fT 0 1 2)) (accepted s0 0 .stream (.escPin 0 h0 (fT 0 1 2)) 8)) = true ∧
    doneE (unitEffect 0 0 0 [] (.haloPut 0 h0 (fT 0 1 2)) (accepted s0 0 .haloN (.haloPut 0 h0 (fT 0 1 2)) 8)) = false ∧
    unitDepth .haloN ≤ (((rs fun t => { t with queue := List.replicate 64 ⟨0, .haloN, .haloPut 0 h0 (fT 0 1 2), .waiting .haloCredit, 0, [], []⟩ }).sett
      0).queue.filter fun e => e.unit == .haloN).length := by decide +kernel

/-! Accesses that find their bytes at once -/

theorem get_const {α : Type} (d v : α) (n b k : Nat) (h : b ≤ k) (hk : k < b + n) :
    SMap.get d ((List.range' b n).map fun j => (j, v)) k = v := by
  induction n generalizing b with
  | zero => omega
  | succ n ih =>
    rw [List.range'_succ, List.map_cons, SMap.get]
    split
    · rfl
    · rw [if_neg (by omega)]
      exact ih (b + 1) (by omega) (by omega)
theorem sector_bits : ∀ k, k < 8 → 0xFF#8 &&& (1#8 <<< k) = 1#8 <<< k ∧ 0#8 &&& (1#8 <<< k) = 0#8 := by decide
/-- With `n` Lintel lines from 0x10000 on that hold their bytes good, sett 0 reaches each of those bytes at once. -/
theorem hits_page (s : State) (n : Nat) (hn : n ≤ 256) (hb : bit (s.client 2).root.toNat 0 = true) (hr : s.stile.cur = some run)
    (ht : s.tlb (.sett 0) = [tlb0 2]) (hl : s.mem.lines = (List.range' 256 n).map fun k => (k, ⟨0xFF, 0, 0, [], [], false⟩)) :
    hitsIn s 0 0x10000 (0x10000 + 256 * n) 0 := by
  refine ⟨rfl, fun va h1 h2 => ⟨?_, fun b hbu => ?_⟩⟩
  · have hag : settAg s 0 = { client := 2, objs := some man.objects, mortar := false, engine := .sett 0 } := by
      simp only [settAg, runAgent, hr]
      rfl
    have hv : objVa (BitVec.ofNat 512 (2 ^ 64 * 2 ^ 30)) = 0 := by decide +kernel
    have hz : objBytes (BitVec.ofNat 512 (2 ^ 64 * 2 ^ 30)) = 2 ^ 30 := by decide +kernel
    have hca : canonAddr (0x10000 + (va - 0x10000)) = some va := by
      have h : va < hbmDieBytes := Nat.lt_of_lt_of_le h2 (by simp only [hbmDieBytes]; omega)
      rw [show 0x10000 + (va - 0x10000) = va by omega, canonAddr, if_pos h]
    refine ⟨by rw [hag]; exact hb, BitVec.ofNat 512 (2 ^ 64 * 2 ^ 30), ?_, by decide +kernel, by decide +kernel, by decide +kernel, by decide +kernel, fun k => ⟨tlb0 2, ?_⟩⟩
    · rw [hag]
      have hd : (decide (0 ≤ va) && decide (va < 0 + 2 ^ 30)) = true := by
        simp only [Nat.zero_le, decide_true, Bool.true_and, decide_eq_true_eq]
        omega
      simp only [Option.getD_some, findObject, man, List.find?, hv, hz, hd]
    · rw [hag, ht]
      have ho : targetOk (objTier (BitVec.ofNat 512 (2 ^ 64 * 2 ^ 30))) 0 = true := by decide +kernel
      have hc : (tlb0 2).covers 2 va = true := by
        have e1 : decide (0x10000 ≤ va) = true := decide_eq_true h1
        have e2 : decide (va < 0x10000 + 2 ^ 16) = true := decide_eq_true (by omega)
        show (((2 : Nat) == 2) && decide (0x10000 ≤ va) && decide (va < 0x10000 + 2 ^ 16)) = true
        rw [e1, e2]
        rfl
      generalize BitVec.ofNat 512 (2 ^ 64 * 2 ^ 30) = o at ho ⊢
      have hs : (tlb0 2).serve { client := 2, objs := some man.objects, mortar := false, engine := .sett 0 }
          (some o) k va = some (.dev va) := by
        simp [TlbEntry.serve, tlb0, ho, hca]
      simp [tlbFind, hc, hs]
  · have hf : isFallow va = false := decide_eq_false (by simp only [fallowBase]; omega)
    have hb : b = va / 32 * 32 := by
      have hq : (va + 1 - 1) / 32 - va / 32 + 1 = 1 := by
        have : (va + 1 - 1) / 32 = va / 32 := by rw [Nat.add_sub_cancel]
        omega
      simp only [burstsOf, burstBytes, hf, Nat.add_zero] at hbu
      simp only [Nat.one_ne_zero, if_false, Bool.false_eq_true, hq] at hbu
      simpa [iota] using hbu
    have hfb : isFallow b = false := decide_eq_false (by simp only [fallowBase]; omega)
    have hln : s.line (b / 256) = ⟨0xFF, 0, 0, [], [], false⟩ := by
      rw [State.line, hl]
      exact get_const _ _ n 256 (b / 256) (by omega) (by omega)
    have hk := sector_bits (b % 256 / 32) (by omega)
    refine ⟨?_, ?_, ?_, ?_⟩ <;> rw [hln] <;> simp only [sectorMask, hfb]
    · exact hk.1
    · exact hk.2
    · rfl
    · rfl
theorem hits_at (s : State) (n va len : Nat) (h : hitsIn s 0 0x10000 (0x10000 + 256 * n) 0) (h1 : 0x10000 ≤ va) (h2 : va + len ≤ 0x10000 + 256 * n)
    (h3 : va / 32 = (va + len - 1) / 32) (h4 : 0 < len) (h5 : isFallow va = false) : hitsAt s 0 va va len := by
  have h0 := h.2 va h1 (by omega)
  refine ⟨by simpa using h0.1, fun b hb => h0.2 b ?_⟩
  simp only [burstsOf, burstBytes, h5, Nat.add_zero] at hb ⊢
  rw [if_neg (by omega)] at hb
  simp only [Nat.one_ne_zero, if_false, Bool.false_eq_true] at hb ⊢
  rw [← h3] at hb
  simpa [iota] using hb

/-- Lintel: the word of S3 is reached at once; 5 ≤ 41 and 42 > 41. -/
theorem test_meets_lintel : s0.mem.wf = true ∧ hitsAt s0 0 0x10000 0x10000 8 ∧ ((s0.sett 0).sreg 3).toNat / 8 * 8 = 0x10000 ∧
    ((s0.sett 0).opB (fB 0 0)).toNat ≤ leNat ((iota 0x10000 8).map s0.devByte) ∧ leNat ((iota 0x10000 8).map s0.devByte) < 42 := by
  refine ⟨by decide +kernel, hits_at s0 8 _ _ (hits_page s0 8 (by decide) (by decide +kernel) rfl rfl rfl) (by decide) (by decide) (by decide)
    (by decide) (by decide), by decide +kernel, by decide +kernel, by decide +kernel⟩

/-- Reductions: one kind-0 element into one word that is reached at once; and a kind-0 AD. -/
theorem test_meets_reductions :
    (let t := s0.sett 0
     let aa := scrTensAs t 1 .i32
     let ad := tensAs t 3 .i32
     isMemOp t 3 = true ∧ isMemOp t 1 = false ∧ min aa.validCount ad.validCount = 1 ∧ ad.elemAddr (ad.validAt 0) = 0x10000 ∧
     okR (aa.readElem 0 (aa.validAt 0) s0) = true ∧ tiledObjs s0 = []) ∧ hitsAt s0 0 0x10000 0x10000 4 := by
  refine ⟨by decide +kernel, hits_at s0 8 _ _ (hits_page s0 8 (by decide) (by decide +kernel) rfl rfl rfl) (by decide) (by decide) (by decide)
    (by decide) (by decide)⟩

/-- PagedCache: a pool block of one FP8a head of 64 at 0x10000, sequence 0 at 0x10100 at position 5, its list at 0x10200, whose page
lies at 0x10400; scratch names that page with one valid token. -/
def kv (sa sb : W64) : State :=
  let s := rs fun t => { (t.setA 2 (dsc 0 0 10 0 [16384] [16384] + 1)) with
    carving := [⟨0, 512, 0, false⟩, ⟨512, 16384, 0, false⟩], s := [(1, sa), (2, sb)], scratch := SMap.setMany 0 [] 0 (leBytes (0x10400 + 2 ^ 48) 8) }
  { s with mem := { s.mem with
      dev := SMap.setMany 0 (SMap.setMany 0 (SMap.setMany 0 s.mem.dev 0x10000 (leBytes 0 24 ++ leBytes 4 4 ++ leBytes 0x10 4))
        0x10108 (leBytes 5 8 ++ leBytes 0x10200 8 ++ leBytes 1 8)) 0x10200 (leBytes (0x10400 + 5 * 2 ^ 48) 8)
      lines := (List.range' 256 64).map fun k => (k, ⟨0xFF, 0, 0, [], [], false⟩) } }
theorem kv_hits (sa sb : W64) : hitsIn (kv sa sb) 0 0x10000 (0x10000 + 256 * 64) 0 :=
  hits_page (kv sa sb) 64 (by decide) (by
    have h : ((kv sa sb).client 2).root = 0x1001 := rfl
    rw [h]
    decide +kernel) rfl rfl rfl
def wordOf (s : State) (va : Nat) : Nat := leNat ((iota va 8).map s.devByte)
theorem test_meets_cache :
    (let s := kv 0x10000 0
     let p := poolOf ((iota 0x10000 64).map s.devByte)
     let idx := scrTensAs (s.sett 0) 1 .u32
     let ad := scrTens (s.sett 0) 2
     let words := [idx.wordIn (viewOf s 0 0) (0, 0, 0, 0) + 2 ^ 32 * idx.wordIn (viewOf s 0 0) (1, 0, 0, 0)]
     (scrTens (s.sett 0) 3).valid 0 = 0 ∧ p.heads = 1 ∧ p.hb = 8448 ∧ (idx.hi ≤ ad.lo ∨ ad.hi ≤ idx.lo) ∧
     min (idx.valid 0 / 2) (descSpan ad.d ad.fmt.bits / p.hb) = 1 ∧
     ∀ j, j < 4 → let q := kvPart p 0 words ad j
       q.2.1 = 0 ∨ (0x10000 ≤ q.1 ∧ q.1 + q.2.1 ≤ 0x14000)) ∧
    (let s := kv 0x10100 0x10000
     wordOf s 0x10108 = 5 ∧ wordOf s 0x10110 = 0x10200 ∧ locVa (wordOf s 0x10200) = 0x10400 ∧ wordOf s 0x10118 % 2 ^ 32 = 1 ∧
     0x10400 + 8448 ≤ 0x14000 ∧ (scrTens (s.sett 0) 1).valid 0 ≠ 0 ∧
     (scrTens (s.sett 0) 1).valid 1 * (scrTens (s.sett 0) 1).valid 2 * (scrTens (s.sett 0) 1).valid 3 = 1) ∧
    (let s := rs fun t => t.setA 6 (dsc 0 0 9 0 [1] [1])
     let ab := scrTensAs (s.sett 0) 6 .u32
     ab.validCount = 1 ∧ ab.elemIn (viewOf s 0 0) (ab.validAt 0) = some (some 0, 0x7F) ∧ tiledObjs s = []) := by decide +kernel

/-- CairnUnit: an undeclared table; an owned one that nothing blocks, with its epoch named and not; clears due and under way. -/
def cn (k : Cairn) (sb : W64) : State := { (rs fun t => { t with s := [(2, sb)] }) with cairn := SMap.set Cairn.reset [] 0 k }
def owned : Cairn := { Cairn.reset with owned := true }
theorem test_meets_cairn : issuesNow (cn owned 0) 0 h0 ∧ (s0.cairnT 0).owned = false ∧ (tens (s0.sett 0) 1).fmt = .u32 ∧
    ((cn owned 0).cairnT 0).owned = true ∧ ((cn owned 0).cairnT 0).clearDue = false ∧ fillsBound (cn owned 0) 0 0 = 0 ∧
    ((cn owned 0).cairnT 0).epoch = 0 ∧ ((cn owned 1).sett 0).sreg 2 = 1 := by
  unfold issuesNow
  decide +kernel
theorem test_meets_cairn_clear : ((cn { owned with epoch := 1 } 0).cairnT 0).epoch.toNat = 1 ∧
    lookupsBound (cn { owned with epoch := 1 } 0) 0 0 = 0 ∧
    ((cn { owned with clearNeeded := true } 0).cairnT 0).clearNeeded = true ∧
    ((cn { owned with clearing := true } 0).cairnT 0).clearing = true := by decide +kernel

/-- HaloUnit: sett 1 lies east of sett 0; credits and slots there and absent; records to and from memory. -/
def hal (credits : Nat) (full : Bool) : State :=
  (rs fun t => { t with ports := [(1, { HaloPort.reset with
      depth := 2, slotBytes := 32, base := 256, credits := credits, returning := 1, nextSlot := b2n full
      slots := if full then [⟨7, 8, 8⟩] else [] })] }).setSett 1 fun t => { t with ports := [(3, { HaloPort.reset with
      depth := 2, slotBytes := 32, base := 256, credits := 1 })] }
def fE : LayT := fT 4 4 2 (BitVec.ofNat 18 (2 ^ 16))
theorem test_meets_halo :
    issuesNow (hal 1 true) 0 h0 ∧ ((hal 1 true).sett 0).sound ∧ ((hal 1 true).sett 1).sound ∧
    (SMap.wf Sett.reset (hal 1 true).setts = true ∧ neighbour (hal 1 true) 0 (modDir fE) = some 1 ∧
      okR (haloPayload 0 (scrTens ((hal 1 true).sett 0) 2) (hal 1 true)) = true) ∧
    (((hal 1 true).sett 0).port 1).credits = 1 ∧ (((hal 0 true).sett 0).port 1).credits = 0 ∧
    (((hal 1 true).sett 0).port 1).slots = [⟨7, 8, 8⟩] ∧ (((hal 1 false).sett 0).port 1).slots = [] ∧
    (isMemOp ((hal 1 true).sett 0) 4 = true ∧ isMemOp ((hal 1 true).sett 0) 2 = false ∧ ((hal 1 true).sett 0).softWords = [] ∧
      tiledObjs (hal 1 true) = [] ∧ 16 + 48 ≤ (tens ((hal 1 true).sett 0) 4).extent ∧
      (match writeSteps 0 0x10100 (spillRecord ⟨7, 8, 8⟩ (leBytes 0 8)) 0 (accepted (hal 1 true) 0 .stream (.haloSpill 0 h0 fE) 8) with
        | .done s => decide ((s.sett 0).port 1 = ((hal 1 true).sett 0).port 1) && (tiledObjs s).isEmpty
        | _ => false) = true) ∧
    (let s := accepted (hal 1 true) 0 .stream (.haloFill 0 h0 fE) 8
     (match readRest 0 0x10100 16 [] s with
     | (hd, .ok () s1) => recField hd 8 4 == 0 && (match readRest 0 0x10100 16 hd s1 with
       | (b, .ok () s2) => okR (fillSlot 0 1 (recField hd 0 8) (recField hd 12 4) false (b.drop 16) s2)
       | _ => false)
     | _ => false) = true) ∧
    (((hal 1 true).sett 0).queue = [] ∧ ((hal 1 true).sett 1).queue = [] ∧ 0 < (((hal 1 true).sett 0).port 1).returning) := by
  unfold issuesNow Sett.sound
  decide +kernel

/-- SORT.MERGE and ATTN.MERGE: the sett is the only member of its tree. -/
theorem test_meets_lone_tree : (mergeReq ((rs fun t => t.setS 1 0).sett 0) (fT 1 1 1)).tree (rs fun t => t.setS 1 0) 0 = ⟨[0], 0⟩ ∧
    attnTree s0 0 0 = ⟨[0], 0⟩ := by decide +kernel

def grp : Group :=
  { gid := 7, host := false, lgroup := 7, client := 2, runSeq := 4, ctx := some 3, stageVa := 0x10000, entries := [0, 9]
    anchor := 0, timeout := 100, epoch := 5, seq := 2, pairSeq := [] }
def withGrp (f : Ctx → Ctx) (s : State) : State :=
  { s with mortar := { s.mortar with groups := [grp], ctxs := SMap.set Ctx.reset [] 3 (f { Ctx.reset with phase := .bound, client := 2, runSeq := 4 }) } }

/-- CollectivePost: group 7 of the run, its member 0 at sett 0, its context idle, 64 readable bytes. -/
theorem test_meets_post : (let s := withGrp id (rs fun t => t.setA 2 (dsc 0 0 10 0 [64] [64]))
    isMemOp (s.sett 0) 2 = false ∧ s.stile.cur = some run ∧
    (s.mortar.groups.find? fun g => !g.host && g.client == run.client && g.runSeq == run.seqNo && g.lgroup == ((s.sett 0).sreg 1).toNat) = some grp ∧
    ((List.range grp.n).find? fun k => let e := grp.entries.getD k 0
      decide (entModule e = s.golger.moduleId) && !entHost e && decide (entRow e = ((s.logicalOf 0).getD (0, 0)).1) &&
        decide (entCol e = ((s.logicalOf 0).getD (0, 0)).2)) = some 0 ∧
    (s.ctx 3).queue.length < 64 ∧ (s.ctx 3).cur = none ∧ (s.ctx 3).ending = [] ∧ s.golger.lost = [] ∧ s.mortar.doom = none ∧
    okR ((tens (s.sett 0) 2).readBytes 0 (tens (s.sett 0) 2).base 64 s) = true) := by decide +kernel

/-- UpdateSweep: operands that break the conditions; operands that meet them, at step 0 and at step 1; one record, read. -/
def swp (step : W64) : State :=
  rs fun t => { ((t.setA 4 (dsc 1 0 10 0x10100 [64] [64])).setA 3 (dsc 1 0 0 0x10200 [16] [16])).setA 2 (dsc 0 0 0 0 [16] [16]) with s := [(1, step)] }
theorem test_meets_sweep :
    (let t := (swp 1).sett 0
     sweepOk (tens t 4) (tens t 3) (tens t 2) = true ∧ sweepOk (tens t 4) (tens t 4) (tens t 2) = false ∧
     (tens t 4).clashes (tens t 3) = false ∧ (tens t 4).valid 1 * (tens t 4).valid 2 * (tens t 4).valid 3 = 1 ∧
     (t.sreg 1).toNat % 2 ^ 32 = 1 ∧ okR ((tens t 2).readBytes 0 (tens t 2).base 28 (swp 1)) = true ∧
     okR (sweepRecord 0 3 1 (hyperOf []) (tens t 4) (tens t 3) 0 (swp 1)) = true) ∧
    (((swp 0).sett 0).sreg 1).toNat % 2 ^ 32 = 0 := by decide +kernel

/-- IssueReleases: a full queue's stall, a wait whose counter is reached, an executed and an unexecuted entry. -/
def qe (q : UnitId) (i : Instr) (x : EntrySt) : QEntry := ⟨0, q, i, x, 0, [], []⟩
theorem test_meets_issue_releases : s0.arrayRuns = true ∧ (useOf (.escPin 0 h0 (fT 1 1 1))).isSome = true ∧
    ((rs fun t => { t with stall := some (.syncWait 0 h0 (fB 0 0), 1), evt := [(2, 5)] }).sett 0).lane0 0 = true ∧
    ((s0.sett 0).opB (fB 0 0)).toNat ≤ (((rs fun t => { t with evt := [(2, 5)] }).sett 0).ereg (fB 0 0).e).toNat ∧
    (qe .stream (.escPin 0 h0 (fT 1 1 1)) .done).st = .done ∧ (s0.sett 0).phase ≠ .gated ∧
    (s0.sett 0).queue = [] ∧ (s0.sett 0).stall = none := by decide +kernel

/-- WaitReleases: each release with an entry that waits for it and an effect that then runs to its end. -/
def wt (k : WaitKind) (i : Instr) (s : State) : Bool :=
  let e := qe .mesh i (.waiting k)
  let s := s.setSett 0 fun t => { t with queue := [e] }
  s.arrayRuns && (s.sett 0).queue == [e] && (s.sett 0).trace.isNone && (useOf i).any (fun u => u.st == 0 && (u.lanes || (s.sett 0).lane0 u.h.pred)) &&
    match unitEffect 0 0 0 (boundAux s 0 i) i (withTrace 0 e s) with
    | .done s2 => (s2.sett 0).queue == [e] && s2.mortar.doom.isNone
    | .wait _ _ _ _ => false
    | .fault _ _ _ _ _ _ => false
    | .bad _ _ => false
theorem test_meets_waits :
    wt .swap (.mma 0 h0 (fT 1 3 1)) s0 = true ∧ wt .escCheck (.escCheck 0 h0 (fT 1 2 3)) s0 = true ∧
    wt .mortar (.collPost 0 h0 (fT 2 2 2)) (withGrp id (rs fun t => t.setA 2 (dsc 0 0 10 0 [64] [64]))) = true ∧
    wt .cairnFlip (.cairnFlip 0 h0 (fT 1 1 1)) s0 = true ∧ wt .cairnFill (.cairnFill 0 h0 (fT 1 1 1)) s0 = true ∧ wt .lintel (.wcTake 0 h0 (fB 0 0)) s0 = true ∧
    wt .haloSlot (.haloTake 0 h0 fE) (hal 1 true) = true ∧ wt .merge (.sortMerge 0 h0 (fT 1 1 1)) (rs fun t => t.setS 1 0) = true := by
  decide +kernel

/-- WaitReleases: the concrete cases. A swap whose plane is loaded, a check with nothing ahead, a filled slot, a flip and a fill that
nothing blocks, a word that has reached 5, a partner that has come, a record for an idle context. -/
def wq (q : UnitId) (i : Instr) (k : WaitKind) (aux : List Nat) : QEntry := ⟨0, q, i, .waiting k, 0, aux, []⟩
def mergeS : State :=
  (rs fun t => (t.setS 1 32)).setSett 1 fun t => { t with queue := [wq .mesh (.sortMerge 1 h0 (fT 1 1 1)) .merge [0]] }
theorem test_meets_concrete_waits : (s0.sett 0).sound ∧ (((hal 1 true).sett 0).port (modDir fE)).slots ≠ [] ∧
    (s0.cairnT (cairnTable (s0.sett 0) (fT 1 1 1))).clearDue = false ∧ fillsBound s0 0 0 = 0 ∧ lookupsBound s0 0 0 = 0 ∧
    ((mergeReq (mergeS.sett 0) (fT 1 1 1)).tree mergeS 0 = ⟨[0, 1], 0⟩ ∧ (senderEntry (mergeS.sett 1) 1).isSome = true ∧
      SMap.wf Sett.reset mergeS.setts = true ∧ (wq .mesh (.sortMerge 0 h0 (fT 1 1 1)) .merge [0]).aux ≠ []) := by
  unfold Sett.sound
  decide +kernel
/-- IssueReleases: words that have not come and are then found at once; a stall on a queue with one instruction still executing. -/
def fetchS : State := rs fun t => { t with fetchMiss := true, pc := 0x10000 }
def stallS : State := rs fun t => { t with
  stall := some (.escPin 0 h0 (fT 1 1 1), 7), nextSeq := 1, queue := [⟨0, .stream, .escPin 0 h0 (fT 1 1 1), .paused 6, 0, [], []⟩] }
theorem test_meets_fetch : (fetchS.sett 0).fetchMiss = true ∧ (fetchS.sett 0).pc.toNat % 8 = 0 ∧ hitsAt fetchS 0 (fetchS.sett 0).pc.toNat 0x10000 8 := by
  refine ⟨by decide +kernel, by decide +kernel, hits_at fetchS 8 _ _ (hits_page fetchS 8 (by decide) (by decide +kernel) rfl rfl rfl)
    (by decide +kernel) (by decide +kernel) (by decide +kernel) (by decide) (by decide +kernel)⟩
theorem test_meets_stall : (let t := stallS.sett 0
    t.stall = some (.escPin 0 h0 (fT 1 1 1), 7) ∧ (useOf (.escPin 0 h0 (fT 1 1 1))).map (·.unit) = some (some .stream) ∧ t.phase = .running ∧
    t.fetchMiss = false ∧ t.ended = false ∧ t.asleep = false ∧ t.stage = [] ∧ (t.queue.filter fun e => e.unit == .stream).length < unitDepth .stream ∧
    (∀ e ∈ t.queue, entryFree e = false ∧ e.seq < t.nextSeq) ∧ (∃ e ∈ t.queue, e.unit = .stream ∧ e.st ≠ .done)) := by decide +kernel

/-- IssueReleases: a fetch that meets a class, with and without a run, and one that meets bad memory; a sett that fetches nothing. -/
def fetchAt (pc : W64) (ended : Bool) : State := rs fun t => { t with pc := pc, ended := ended }
theorem test_meets_fetch_fault :
    (match readGranule (fetchAt 0x40000000 false) (settAg (fetchAt 0x40000000 false) 0) .read 0x40000000 8 with
     | .fault c s => c == 8 && s.stile.cur.isSome
     | _ => false) = true ∧
    (let s := { fetchAt 0 false with stile := { s0.stile with cur := none } }
     match readGranule s (settAg s 0) .read 0 8 with
     | .fault _ s => s.stile.cur.isNone
     | _ => false) = true ∧
    (let s := { fetchAt 0x10800 false with mem := { s0.mem with errs := [(0x10800, [5, 7, 9])] } }
     match readGranule s (settAg s 0) .read 0x10800 8 with
     | .bad x _ => x == 0x0301
     | _ => false) = true ∧
    fetches ((fetchAt 64 true).sett 0) = false ∧ fetches ((fetchAt 64 false).sett 0) = true := by decide +kernel

/-- WaitReleases: the array clock stands at level 3. -/
theorem test_meets_array_stands : ({ s0 with power := { s0.power with level := 3, step := 8 } } : State).arrayRuns = false := by decide +kernel

/-- SettCompletion: a draining sett, the other completed or still running; a run on the array. -/
def dr (other : SettPhase) : State :=
  (rs fun t => { t with phase := .draining, ended := true }).setSett 1 fun t => { t with phase := other }
theorem test_meets_completion : (dr .completed).arrayRuns = true ∧ ((dr .completed).sett 0).phase = .draining ∧
    ((dr .completed).sett 0).ended = true ∧ ((dr .completed).sett 0).queue = [] ∧ (dr .completed).stile.cur = some run ∧
    (∀ p ∈ run.placement, (((dr .completed).setSett 0 fun t => { t with phase := .completed, status := 0 }).sett p.2).phase = .completed) ∧
    (∃ p ∈ run.placement, (((dr .running).setSett 0 fun t => { t with phase := .completed, status := 0 }).sett p.2).phase ≠ .completed) := by
  decide +kernel
/-- SettCompletion, FaultAnswers: a run of one sett. -/
def loneS : State := { s0 with stile := { s0.stile with cur := some { run with placement := [(0, 0)] } } }
theorem test_meets_lone_run : loneS.settMode 0 = 0 ∧ loneS.stile.cur.map (·.placement) = some [(0, 0)] := by decide +kernel

/-- StepRunsFrontCommand and IdleStepTicks: a queue with a command, and an empty one, with and without supply. -/
theorem test_meets_queue : ({ up with pending := [.idcode, .bypass] } : State).pending = [.idcode, .bypass] ∧ up.pending = [] ∧
    up.conn.vin = true ∧ ({ up with conn := { up.conn with vin := false } } : State).conn.vin = false ∧ up.stile.runs = [] ∧ up.stile.cur = none := by decide +kernel

/-- StepKeepsInvariant: the booted state has the invariant, and steps. -/
theorem test_meets_invariant : up.inv := by
  unfold State.inv Power.legal
  decide +kernel

/-- DeviceMemory: bytes whose bursts stand good in their lines; each decoding of a stored burst; the ends of the spread view. -/
def bur (k : Nat) (e : List Byte) : State := { up with mem := { Mem.reset with errs := SMap.set [] [] (32 * k) e } }
theorem test_meets_memory : s0.mem.wf = true ∧ (∀ b ∈ burstsOf 0x1001F 2, cached s0 b) := by
  unfold cached
  decide +kernel
theorem test_meets_decodings : up.errs 64 = [] ∧ (decodeBurst (bur 2 [5]) 64).1 = .corrected 0 ∧
    (decodeBurst (bur 2 [5, 7, 9]) 64).1 = .uncorrectable ∧ (decodeBurst (memPoison up 64) 64).1 = .poisoned ∧ isFallow 64 = false ∧
    (up.mem.stuck.get [] (up.phys 64) = [] ∧ up.line (64 / 256) = Line.none) := by decide +kernel
theorem test_meets_spread : canonAddr spreadBase = some 0 ∧ canonAddr (spreadBase + 2 * hbmDieBytes - 1) = some (hbmDie1Base + hbmDieBytes - 1) ∧
    canonAddr (hbmDieBytes - 1) = some (hbmDieBytes - 1) ∧ canonAddr hbmDieBytes = none := by decide +kernel

/-- Faults: no object; objects of tiers 0, 2 and 3; tables that are not valid; a ring that is disabled. -/
def obj (tier : Nat) : BitVec 512 := BitVec.ofNat 512 (2 ^ 64 * 2 ^ 30 + tier * 2 ^ 128)
theorem test_meets_faults : findObject [obj 0] (2 ^ 30) = none ∧ findObject [obj 0] (2 ^ 30 - 1) = some (obj 0) ∧
    objTier (obj 0) < 2 ∧ bit (up.client 0).root.toNat 0 = false ∧ bit (up.client 0).fqCtrl.toNat 31 = false ∧
    AccKind.atomic.atomicLike = true ∧ ([2, 3].map fun k => (findObject [obj k] 5).map objTier) = [some 2, some 3] := by decide +kernel

/-- QueueAndFaultRegisters: ready for the host; fifteen and sixteen invalidations in progress; a deferred signal. -/
def inv0 : Inval := ⟨0, 0, 16, 9⟩
theorem test_meets_registers : up.hostReady = true ∧ (List.replicate 15 inv0).length < 16 ∧ ¬ (List.replicate 16 inv0).length < 16 ∧
    (({ up with xlat := { up.xlat with invals := [inv0] } } : State).xlat.invals = inv0 :: []) ∧
    ((up.setCl 2 fun k => { k with deferred := true }).cl 2).deferred = true ∧ (up.cl 2).holdoffEnd ≤ up.now ∧
    msixSize 2 = 64 ∧ up.msixOpen 2 3 = false ∧
    ({ up with conn := { up.conn with cfg := [(1024 * 2 + 16, 0x80000000)], msix := [(256 * 2 + 3, ⟨0, 0, false⟩)] } } : State).msixOpen 2 3 = true ∧
    SMap.wf [] s0.xlat.tlbs = true ∧ s0.tlb (.sett 0) = [tlb0 2] ∧ up.mortar.doom = none := by decide +kernel

/-- FaultAnswers: no waiting fault; a waiting fault of a sett, whose entry then runs to its end. -/
def flt : FaultRec := { id := 6, va := 0x10000, run := 4, agent := 0, cls := 1, acc := 0, time := 0, owner := .sett 0 .stream }
def pausedS : State := (rs fun t => { t with queue := [qe .stream (.escPin 0 h0 (fT 1 1 1)) (.paused 6)] }).setClient 2 fun x => { x with waiting := [flt] }
theorem test_meets_fault_answers : pausedS.hostReady = true ∧ answeredFault pausedS 2 5 = none ∧ answeredFault pausedS 2 6 = some flt ∧
    faultRun pausedS 2 flt = none ∧ flt.owner = .sett 0 .stream ∧ pausedS.stile.array ≠ .saving ∧ (pausedS.sett 0).stagePaused ≠ some 6 ∧
    (pausedS.sett 0).queue = [qe .stream (.escPin 0 h0 (fT 1 1 1)) (.paused 6)] ∧
    doneE (unitEffect 0 0 0 [] (.escPin 0 h0 (fT 1 1 1)) pausedS) = true := by decide +kernel

def descB (ty sub sid : Nat) (va : Nat) : List Byte :=
  leBytes 99 8 ++ leBytes ty 1 ++ leBytes 1 1 ++ leBytes 0 6 ++ leBytes sub 1 ++ leBytes 0 1 ++ leBytes sid 2 ++ leBytes 0 4 ++
    leBytes va 8 ++ leBytes 0 32
def desc (ty sub sid va : Nat) : Desc := ⟨5, descB ty sub sid va, 1, false, false, 0, none, 0⟩
/-- Client 2's queue 1 is enabled, its ring at 0x8000 in device memory. -/
def qs (tail : Nat) (f : Queue → Queue) : State :=
  ({ up with mem := { up.mem with dev := SMap.setMany 0 dev0 0x8000 (leBytes tail 4) } }.setClient 2 fun x => { x with root := 0x1001 }).setQ 2 1
    fun _ => f { Queue.reset with base := 0x8000, ctrl := 0x80000001 }

/-- QueuePoll: disabled; just enabled; TAIL unmoved, one ahead, beyond the ring; a header that no region holds. -/
theorem test_meets_poll : (up.hearth.ready = true ∧ up.powered = true) ∧ ((up.cl 2).q 1).enabled = false ∧
    (let q := ((qs 1 id).cl 2).q 1
     q.enabled = true ∧ q.resync = false ∧ q.slots = 16 ∧ q.descs = [] ∧ (ringRead 2 q 0 4 (qs 1 id)).2 = some [1, 0, 0, 0] ∧
     (BitVec.ofNat 32 1 : W32) = q.fetched + 1 ∧ q.slots < ((17 : W32) - q.fetched).toNat ∧
     (ringRead 2 q 64 64 (qs 1 id)).2.isSome = true) ∧
    (ringRead 2 { Queue.reset with base := 0xFFFFFFFFFF000, ctrl := 0x80000001 } 0 4 up).2 = none ∧
    (((qs 1 fun q => { q with resync := true }).cl 2).q 1).resync = true := by decide +kernel

def one (d : Desc) : State := qs 0 fun q => { q with descs := [d] }
/-- DescriptorsRun: a descriptor of each type stands next, or none; a copy under way that has moved all its bytes, or none. -/
theorem test_meets_descriptors_run :
    nextOf (one (desc 0 0 0 0)) 2 1 0 none = some (desc 0 0 0 0) ∧ nextOf (one (desc 2 0 0 0)) 2 1 2 none = some (desc 2 0 0 0) ∧
    nextOf (one (desc 1 0 0 0)) 2 1 1 none = some (desc 1 0 0 0) ∧ nextOf up 2 1 0 none = none ∧
    (let d := { desc 2 0 0 0 with started := true }
     ((((one d).cl 2).q 1).descs.find? fun d => d.started && !d.posted && descType d == 2 && d.paused.isNone) = some d ∧
     findDesc (one d) 2 1 5 = some d ∧ recField d.bytes 32 8 ≤ d.prog) ∧
    (((up.cl 2).q 1).descs.find? fun d => d.started && !d.posted && descType d == 2 && d.paused.isNone) = none := by decide +kernel
def okA : Machine.Acc → Bool
  | .ok _ _ => true
  | _ => false
/-- DescriptorsRun: a granule is read and written. -/
theorem test_meets_copy : okA (readGranule s0 (dmaAgent 2) .read 0x10000 8) = true ∧
    okA (writeGranule s0 (dmaAgent 2) .write 0x10100 [1, 2]) = true := by decide +kernel

/-- SettAtRunStart: a declaration without preloads, and one with a single scalar. -/
theorem test_meets_run_start : (⟨[], [], [(5, 9)], [], []⟩ : SettDecl).scalars = [(5, 9)] ∧ (⟨[], [], [], [], []⟩ : SettDecl).scalars = [] ∧
    (⟨[], [], [], [], []⟩ : SettDecl).descs = [] ∧ 0 < 5 ∧ 5 < 32 := by decide +kernel

/-- RunScheduling: the array taken; no run; a run chosen that is new and fails its checks, and one that was pre-empted. -/
def rdy (x : Option Saved) : State := { up with stile := { up.stile with runs := [{ run with placement := [], admitted := false, saved := x }] } }
def sav0 : Saved := { setts := [], cairn := [], counters := [], esc := Esc.reset, locked := [] }
theorem test_meets_scheduling : s0.stile.array ≠ .free ∧ chooseRun up = none ∧ (rdy none).stile.array = .free ∧
    admissionHeld (rdy none) = false ∧ ((chooseRun (rdy none)).map fun r => r.1.saved) = some none ∧
    ((chooseRun (rdy (some sav0))).map fun r => r.1.saved.isSome) = some true := by decide +kernel

/-- RunScheduling: a manifest that admission turns away. -/
theorem test_meets_admission : (∃ r, admissionCheck up 2 { man with level := 1 } = .inr r) := by
  have h : checkHeader up { man with level := 1 } = some ⟨0x0110, locus 1 0⟩ := by simp [checkHeader, man]
  exact ⟨_, by simp [admissionCheck, h, firstOf]; rfl⟩

def mkObj (va bytes pin kind : Nat) : BitVec 512 := BitVec.ofNat 512 (va + bytes * 2 ^ 64 + 4 * pin * 2 ^ 136 + kind * 2 ^ 144)
/-- One sett with a stream of one CTL.END, a save object and a counter in a Lintel-pinned object. -/
def goodM : Manifest :=
  { man with
    cols := 1, objects := [mkObj 0x400000 0x10000 1 1, mkObj 0x800000 0x2000000 1 2, mkObj 0x200000 0x10000 2 0], streams := [⟨0x400000, 1⟩]
    setts := [⟨[⟨0, 65536, 0, false⟩], [(3, dsc 0 1 0 0 [128, 4] [128, 4])], [(5, 0x200000)], [], []⟩], counters := [⟨0x200000, 0, 16⟩], saveObject := 1 }
def admS : State :=
  { rdy none with
    xlat := (up.setClient 2 fun x => { x with root := 0x1001 }).xlat
    mem := { up.mem with dev := SMap.setMany 0 (SMap.setMany 0 (SMap.setMany 0 [] 0x1000 (leBytes 0x2001 8)) 0x2000 (leBytes 7 8)) 0x400000 (leBytes (2 ^ 55) 8) } }
/-- RunScheduling: a manifest that admission accepts, if `Config` knows its version (R290). -/
theorem test_meets_admitted (h : Config.manifestVersionKnown 3 = true) : admissionCheck admS 2 goodM = .inl [[2 ^ 55]] ∧
    counterStatus admS { client := 2, objs := some goodM.objects, mortar := false } goodM = none ∧ manifestStatus admS run = none ∧
    (manifestStatus (rdy none) run).isSome = true ∧ (rdy none).mem.waits = [] ∧ (rdy none).mortar.doom = none := by
  have hp : placeable admS goodM = true := by decide +kernel
  have hh : checkHeader admS goodM = none := by simp [checkHeader, hp]; simp [goodM, man, h]
  refine ⟨?_, by decide +kernel, by decide +kernel, by decide +kernel, by decide +kernel, by decide +kernel⟩
  unfold admissionCheck
  rw [hh]
  decide +kernel

/-- Preemption: no run; a running run; a run that is saved once its setts have drained; a budget. -/
theorem test_meets_preemption : up.hostReady = true ∧ up.stile.cur = none ∧ s0.stile.cur = some run ∧ s0.stile.array = .running ∧
    SMap.wf Sett.reset s0.setts = true ∧ (s0.sett 0).phase = .running ∧ (∀ p ∈ run.placement, (s0.sett p.2).queue = []) ∧
    (∀ p ∈ run.placement, (s0.sett p.2).sound ∧ (s0.sett p.2).statsParity = false) ∧
    s0.arrayRuns = true ∧ wdogBudget s0 run ≠ 0 ∧ (∃ t, exec .preempt s0 = .next t ∧ t.stile.array = .saving) := by
  refine ⟨by decide +kernel, by decide +kernel, by decide +kernel, by decide +kernel, by decide +kernel, by decide +kernel,
    by decide +kernel, by unfold Sett.sound; decide +kernel, by decide +kernel, by decide +kernel, after (exec .preempt s0), rfl, by decide +kernel⟩

/-- Preemption: the end of a slice, due and not. -/
def sliceS (held : Nat) : State := { s0 with stile := { s0.stile with
  held := held, slices := [(0, 5)], runs := [{ run with client := 3, placement := [], admitted := false }] } }
theorem test_meets_slice : ((sliceS 5).stile.slices.get 0 run.cls).toNat = 5 ∧ (sliceS 5).stile.held = 5 ∧
    ((sliceS 5).readyRuns.any fun x => x.client != run.client && x.cls == run.cls) = true ∧ (sliceS 4).stile.held < 5 ∧
    (sliceS 5).stile.array.held = true := by decide +kernel

/-- Aperture: an access that client 0's tables allow, and one that they do not. -/
def ap : State :=
  { (s0.setClient 0 fun x => { x with root := 0x1001 }) with stile := { s0.stile with bar2Base := 0x10000 } }
theorem test_meets_aperture : ap.hostReady = true ∧ bar2Ok ap .read 0x10000 8 = true ∧
    okA (readRange ap (dmaAgent 0) .read 0x10000 8).2 = true ∧ bar2Ok ap .write 0x10000 2 = true ∧
    okA (writeRange ap (dmaAgent 0) .write 0x10000 [1, 2]).2 = true ∧ bar2Ok s0 .read 0x10000 8 = false ∧
    bar2Ok s0 .write 0x10000 2 = false ∧ s0.conn.linkUp = true ∧ 16 ≤ ap.bar2Size := by decide +kernel

/-! Codec, Mortar, Golger -/

/-- Stream blocks: a decode stream and an encode stream. -/
def block (dec : Bool) (quota va : Nat) : List Byte :=
  leBytes (if dec then 0 else 1) 1 ++ leBytes 1 1 ++ leBytes 1 1 ++ leBytes 1 1 ++ leBytes 0 1 ++ leBytes 8 1 ++ leBytes 0 2 ++ leBytes 64 2 ++
    leBytes 64 2 ++ leBytes quota 2 ++ leBytes (if dec then 1 else 2) 1 ++ leBytes 0 1 ++ leBytes va 8 ++ leBytes (quota * 65536) 8 ++
    (if dec then leBytes 0x40000 8 ++ leBytes 16 1 ++ leBytes 0 15 ++ leBytes 0x10400 8 ++ leBytes 0x10500 8 ++ leBytes 0x10600 8 ++ leBytes 0 48
     else leBytes 0 9 ++ leBytes 20 1 ++ leBytes 0 6 ++ leBytes 0x40000 8 ++ leBytes 0x10400 8 ++ leBytes 0x10500 8 ++ leBytes 0x10600 8 ++
       [0, 20, 30, 20] ++ leBytes 0 12 ++ leBytes 5000 4 ++ leBytes 0 4 ++ [0, 1, 1, 1] ++ leBytes 0 20) ++ leBytes 0 128
/-- Descriptor 5 of subtype `sub` stands next at client 2's queue 1, with stream `sid` and the block `b` at VA 0x10000. -/
def cod (sub sid : Nat) (b : List Byte) : State :=
  let s := one (desc 3 sub sid 0x10000)
  { s with
    mem := { s.mem with dev := SMap.setMany 0 (SMap.setMany 0 (SMap.setMany 0 [] 0x1000 (leBytes 0x2001 8)) 0x2000 (leBytes 7 8)) 0x10000 b }
    codec := { s.codec with poolBase := [(0, 0x2000000)], poolSize := [(0, 0x4000000)] } }
theorem test_meets_stream_open : nextOf (cod 0 7 []) 2 1 3 (some 0) = some (desc 3 0 7 0x10000) ∧ dmaPaused (cod 0 7 []) = false ∧
    okA (readRange (cod 0 7 (block true 2 0x2000000)) (dmaAgent 2) .read 0x10000 256).2 = true ∧ blockOk (block true 2 0x2000000) = true ∧
    blockOk (block false 6 0x2000000) = true ∧ blockOk [] = false ∧ areaInPool (cod 0 7 []) 2 (block true 2 0x2000000) = true ∧
    areaInPool (cod 0 7 []) 2 (block true 2 0x1000000) = false ∧ nextOf up 2 1 3 (some 0) = none ∧ nextOf up 2 1 3 (some 1) = none ∧
    nextOf up 2 1 3 (some 2) = none := by decide +kernel

/-- A stream of client 2, of number 7, with a block's quota of entries. -/
def str (dec : Bool) : Stream :=
  { client := 2, sid := 7, cls := 0, order := 0, block := block dec (if dec then 2 else 6) 0x2000000, entries := [0, 1], failed := none, flush := none
    total := none, cur := none, coded := 0, shown := 0, inRd := 0, outWr := 0, done := 0, concealed := 0, damaged := 0, poolWaits := 0
    outWaits := 0, budgets := 0, starved := false, wait := none, fed := [], seq := none, unit := none, joined := 0, pixels := 0, cutAt := none
    recent := [⟨0, 1, 1⟩], toShow := [], read := [], sizes := [] }
def e0 : PoolEntry := ⟨0, 0, 0, false, false, 0, none, 0, []⟩
def cs (sub : Nat) (x : Stream) (f : CodecCore → CodecCore) : State :=
  let s := cod sub 7 []
  { s with
    mem := { s.mem with dev := SMap.setMany 0 s.mem.dev 0x10400 (leBytes 500 8 ++ leBytes 0 24 ++ leBytes 5 8) }
    codec := { s.codec with streams := [(0, some x)], cores := [(3, f CodecCore.reset)], entries := [(0, some e0), (1, some e0)] } }
/-- CodecStreams: flush and close of a stream at work, failed, and with a flush outstanding; the pool full; no stream free. -/
theorem test_meets_stream_end : nextOf (cs 1 (str true) id) 2 1 3 (some 1) = some (desc 3 1 7 0x10000) ∧
    findStream (cs 1 (str true) id) 2 7 = some 0 ∧ ((cs 1 (str true) id).strm 0 = some (str true)) ∧ (str true).failed = none ∧
    (str true).flush = none ∧ ({ str true with flush := some (1, 4) } : Stream).flush ≠ none ∧
    nextOf (cs 2 (str true) id) 2 1 3 (some 2) = some (desc 3 2 7 0x10000) ∧ SMap.wf none (cs 2 (str true) id).codec.streams = true ∧
    (cs 0 (str true) id).strm 1 = none ∧
    2 ≤ (freeEntries (cs 0 (str true) id)).length := by decide +kernel

/-- CodecStreams: every entry taken. -/
theorem test_meets_no_entry :
    (freeEntries { up with codec := { up.codec with entries := (List.range' 0 512).map fun j => (j, some e0) } }).length < 2 := by
  have : freeEntries { up with codec := { up.codec with entries := (List.range' 0 512).map fun j => (j, some e0) } } = [] := by
    simp only [freeEntries, List.filter_eq_nil_iff, State.entry]
    intro k hk
    rw [get_const none (some e0) 512 0 k (by omega) (by simpa using hk)]
    simp
  simp [this]

def head0 : PicHeader :=
  { width := 64, height := 64, key := false, grain := false, layer := 0, excluded := false, order := some 0, inOrder := false, refs := []
    marks := [], shows := [] }
def pic0 : CurPic :=
  { slot := 0, n := 1, flags := 0, head := head0, refs := [], done := [], sub := none, band := 0, unit := [], qpMax := 0, spent := [], fill := false }
def seq0 : SeqHeader :=
  { profile := .hevcMain, level := 3, depth := 8, sampling := .s420, width := 64, height := 64, maxDec := 4, maxFrames := none, excluded := false }
def info0 : UnitInfo :=
  { seq := none, pic := none, good := [], lost := [], failed := false, reads := [], rows := 8, parts := 1, last := false, shows := [] }
/-- The stream at work on a slice of two bytes, which `n` cores have taken part in. -/
def atWork (dec : Bool) (n : Nat) (cut : Option Nat) : Stream :=
  { str dec with cur := some pic0, unit := some [1, 2], joined := n, cutAt := cut }
def worker (w : Nat) (q : CodecCore) : CodecCore := { q with ctx := some 0, busy := true, awake := true, worked := w }
/-- CodecCores: a core that may work with a stream ready, to decode or to encode; a slice to join; one fenced; one that waits on a fault. -/
theorem test_meets_cores :
    (let x := { str true with order := 1 }
     let s := cs 0 x id
     (s.core 3).usable = true ∧ s.power.level < 3 ∧ coreChoice s 3 = some 0 ∧ want s x = .work ∧ x.ending = false ∧ (s.core 3).ctx = none ∧
     x.toShow = [] ∧ (peek s x cntInWr).getD x.inRd - x.inRd = 500) ∧
    (let x := { str false with order := 1, cur := some pic0 }
     let s := cs 0 x id
     coreChoice s 3 = some 0 ∧ want s x = .work ∧ x.ending = false ∧ x.isEnc = true) ∧
    (let s := cs 0 { atWork true 1 none with order := 1 } id
     coreChoice s 3 = some 0 ∧ (atWork true 1 none).unit ≠ none) ∧
    coreChoice (cs 0 (str true) id) 3 = none ∧ ((cs 0 (str true) fun q => { q with fence := true }).core 3).usable = false ∧
    (str true).isEnc = false ∧ s0.arrayRuns = true ∧ s0.codec.streams = [] := by decide +kernel
/-- CodecCores: a core at work, alone and beside another; the budget run out, run out before, and not yet. -/
theorem test_meets_work : coreWork up 3 = none ∧ coreWork (cs 0 (atWork true 1 none) (worker 0)) 3 = some (0, atWork true 1 none, [1, 2]) ∧
    workersOf (cs 0 (atWork true 1 none) (worker 0)) 0 = [3] ∧
    (let s := (cs 0 (atWork true 2 none) (worker 0)).setCore 4 (worker 0)
     workersOf s 0 = [3, 4] ∧ coreWork s 3 = some (0, atWork true 2 none, [1, 2])) ∧
    budgetTicks (atWork true 1 none) ≤ 700 ∧ budgetTicks (atWork false 1 none) ≤ 800 ∧ 600 < budgetTicks (atWork true 1 none) ∧ (atWork true 1 none).subframe = false ∧
    ({ str true with block := [0, 1, 0, 0, 1] } : Stream).subframe = true ∧ (atWork true 1 (some 3)).cutAt ≠ none ∧
    (coreWork (cs 0 (atWork true 1 none) (worker 700)) 3).isSome = true ∧ (coreWork (cs 0 (atWork false 1 none) (worker 800)) 3).isSome = true ∧
    (let t := after (exec (.budgetExpiry 3) (cs 0 (atWork false 1 none) (worker 800)))
     (t.core 3).budgets = 1 ∧ ((t.strm 0).map fun x => x.cutAt.isSome) = some true) := by decide +kernel
/-- CodecCores: headers within R460 and outside it, a buffer larger than the quota, a picture larger than the block; a
counter that is read and written; units that failed and bad data of a reference. -/
theorem test_meets_headers : headerOk (str true) seq0 = true ∧ headerOk (str true) { seq0 with profile := .avcMain } = false ∧
    (str true).quota - 1 < dpbSize (str true) seq0 ∧ (str true).f 8 2 < 65 ∧ (str true).f 10 2 = 64 ∧ info0.seq = none ∧
    (match bumpCounter (codecAgent 3 2) ((str true).cnt cntInRd) (fun v => v + 1) (cs 0 (str true) id) with
     | .ok _ => true
     | _ => false) = true ∧
    (let i := { info0 with reads := [⟨0, ⟨0, 0, 8, 8⟩, ⟨8, 0, 8, 8⟩⟩] }
     let p := { pic0 with refs := [some 1] }
     hurtBlocks (str true) p i [((str true).entVa 1, 65536)] ≠ [] ∧ hurtBlocks (str true) p i [] = [] ∧ i.failed = false ∧ i.lost = []) ∧
    unitCut 1 [0, 0, 1, 2] = false := by decide +kernel
/-- CodecCores: where `Config` finds in a stream's bytes a header outside R460, the unit fails it. -/
theorem test_meets_bad_header (u : List Byte) (i : UnitInfo) (h : Config.decodeUnit (str true).block [] u = { i with seq := some { seq0 with excluded := true } }) :
    headerStatus (str true) (infoOf (str true) u) = some 0x0602 := by
  have e : headerOk (str true) { seq0 with excluded := true } = false := by decide +kernel
  have f : infoOf (str true) u = { i with seq := some { seq0 with excluded := true } } := h
  rw [f]
  simp [headerStatus, e]

/-- CodecCores: a fault that has stood for the limit, and one that has not; the flags of concealment. -/
def oldFault (limit : W32) : State :=
  let s := (cs 0 (str true) fun q => { q with ctx := some 0, fault := some 1 })
  let s := s.setClient 2 fun x => { x with waiting := [⟨1, 0x10000, 0, 8195, 9, 0, 10, .codec 3⟩] }
  { s with aon := 60, codec := { s.codec with faultLimit := limit } }
theorem test_fault_limit : faultLate (oldFault 50) 3 = true ∧ faultLate (oldFault 51) 3 = false ∧ faultLate (oldFault 0) 3 = false ∧
    ((oldFault 50).client 2).waiting.length = 1 ∧ ((oldFault 50).strm 0).isSome = true := by decide +kernel
/-- CodecCores: a slice that is all late rows, a reference that is missing, and a wait whose word has reached its operand. -/
def relS : State :=
  let s := rs fun t => { t with queue := [wq .mesh (.syncWaitge 0 h0 (fB 0 0)) .lintel []] }
  { s with mem := { s.mem with waits := [⟨0x10000, false, 5, 0⟩] } }
theorem test_meets_late : info0.rows ≤ lateRows ((str true).f 1 1) ∧ (takeSub (str true) true pic0).sub = some (some 1) ∧
    (takeSub { str true with recent := [] } true pic0).sub = some none ∧ relS.arrayRuns = true ∧
    relS.codec.streams = [] ∧ 5 ≤ leNat ((iota 0x10000 8).map relS.devByte) ∧ (relS.sett 0).lane0 h0.pred = true ∧
    relS.mem.waits = [⟨0x10000, false, 5, 0⟩] := by decide +kernel
theorem test_meets_release : ∀ b ∈ burstsOf 0x10000 8, cached relS b := by
  unfold cached
  decide +kernel

def group : Group :=
  { gid := 7, host := false, lgroup := 1, client := 2, runSeq := 4, ctx := some 3, stageVa := 0x10000, entries := [0, 0x40000, 9], anchor := 0
    timeout := 100, epoch := 5, seq := 2, pairSeq := [] }
def posted : PostRec := ⟨7, 0, leBytes 1 1 ++ leBytes 0 1 ++ leBytes 9 1 ++ leBytes 9 1 ++ leBytes 0 2 ++ leBytes 3 1 ++ leBytes 0 57, .sett 2 4 0, 2, 1, 4⟩
def coll : Coll :=
  { gid := 7, pair := false, seq := 2, epoch := 5, recs := [posted], ready := true, tasks := [], out := [], expect := [], got := [], overs := [] }
/-- The group's context is bound on this module, 0; port 1 leads to module 9. -/
def mor (f : Ctx → Ctx) : State :=
  let s := { up with
    mortar := { up.mortar with groups := [group] }
    golger := { up.golger with
      routes := [(9, 0x4002)]
      ports := [(1, { GPort.reset with phase := .up, ctrl := 0x36, txSeq := 1, rxSeq := 1, lanes := 0xFF })] } }
  s.setCtx 3 fun x => f { x with phase := .bound, client := 2, runSeq := 4, stageVa := 0x10000 }
def kept (again : Bool) : SendSlot := ⟨9, chunkHeader 1 1 0 8 7 5 2 1 0 2 0 0 0 [1], [1], again, 7⟩
/-- MortarContexts. -/
theorem test_meets_contexts :
    ((mor id).ctx 3).phase = .bound ∧ (mor id).golger.lost = [] ∧ (mor id).mortar.doom = none ∧ (up.ctx 3).phase ≠ .bound ∧
    ((mor fun x => { x with paused := some 4 }).ctx 3).paused ≠ none ∧
    (mor fun x => { x with queue := [posted] }).group 7 = some group ∧ { coll with ready := false }.full 0 group = false ∧
    collDone ((mor fun x => { x with cur := some coll }).ctx 3) coll = true ∧ recStatusVa posted.bytes = 0 ∧
    collDone ((mor fun x => { x with cur := some coll }).ctx 3) { coll with ready := false } = false ∧
    ((mor fun x => { x with cur := some coll }).ctx 3).freeSlot = some 0 ∧ 0 < ((mor id).ctx 3).credit 9 ∧ ((mor id).ctx 3).credit 9 = 1 ∧
    pickRoute (mor id) 0 9 0 false ≠ none ∧ ((mor fun x => { x with sends := [(0, some (kept false))] }).ctx 3).sends.get none 0 = some (kept false) ∧
    SMap.wf Ctx.reset (mor id).mortar.ctxs = true := by decide +kernel
/-- MortarContexts: a timer at the group's TIMEOUT and one below it; a kept chunk past the ACK limit and one within it. -/
def timed (n : Nat) : State := mor fun x => { x with cur := some coll, timer := n, sends := [(0, some (kept false))] }
theorem test_timeout : timedOut (timed 100) 3 = true ∧ timedOut (timed 99) 3 = false := by decide +kernel
theorem test_ack_limit : ackLate { timed 0 with aon := 31257 } 3 0 = true ∧ ackLate { timed 0 with aon := 31256 } 3 0 = false := by decide +kernel
def dataH (sl ep : Nat) : List Byte := chunkHeader 1 1 0 8 7 ep 2 sl 0 2 0 0 0 [1]
def ackH : List Byte := chunkHeader 2 1 0 8 7 5 2 1 0 2 0 1 0 []
/-- MortarMessages. -/
theorem test_meets_messages :
    chCrcOk (dataH 1 5) [1] = true ∧ chCrcOk (dataH 1 5) [2] = false ∧ (mor id).group (chGid (dataH 1 5)) = some group ∧ (dataH 1 5).length = 256 ∧
    up.group (chGid (dataH 1 5)) = none ∧ chEpoch (dataH 1 4) < group.epoch ∧ chEpoch (dataH 1 5) = group.epoch ∧
    alreadyTaken group ((mor id).ctx 3) (dataH 1 5) = false ∧
    alreadyTaken group ((mor fun x => { x with recvs := [⟨0, 9, dataH 1 5, [1]⟩] }).ctx 3) (dataH 1 5) = true ∧
    16 ≤ ((mor fun x => { x with recvs := List.replicate 16 ⟨0, 9, [], []⟩ }).ctx 3).recvs.length ∧
    answered (mor fun x => { x with cur := some coll, sends := [(0, some (kept false))] }) ackH = some (3, 0) ∧ chCrcOk ackH [] = true ∧
    answered (mor id) ackH = none ∧ coll.gid = chGid ackH ∧ coll.epoch = chEpoch ackH := by decide +kernel

/-- A declaration of host group 70 at VA 0x10000 with members on this module and on module 9, and a record after it. -/
def hostS (sub sid gid : Nat) (f : Ctx → Ctx) (gs : List Group) : State :=
  let ms := leBytes 0x2000 8 ++ leBytes 0x2009 8
  let s := cod 0 0 (leBytes gid 4 ++ leBytes 0 8 ++ leBytes 2 4 ++ leBytes 0 4 ++ leBytes 0 4 ++ leBytes (crc32c ms) 4 ++ leBytes 0 4 ++
    leBytes 0x10000 8 ++ leBytes 0 8 ++ ms)
  { s.setQ 2 1 fun q => { q with descs := [desc 4 sub sid 0x10000] } with
    mortar := { s.mortar with groups := gs, ctxs := [(0, f { Ctx.reset with phase := if gs.isEmpty then .free else .bound })] } }
def hgrp : Group := { group with gid := 70, host := true, lgroup := 3, ctx := some 0, entries := [0x2000, 0x2009] }
def agH : Agent := { client := 2, objs := none, mortar := true }
def declOf (s : State) : Nat × List Nat :=
  match readRange s agH .read 0x10000 64 with
  | (_, .ok b _) => (leNat (b.take 48), [recField b 48 8, recField b 56 8])
  | _ => (0, [])
/-- An admitted run of client 2 whose pinned object of TIER 0 holds the staging area. -/
def stageRun : Run := { run with manifest := { man with objects := [BitVec.ofNat 512 (2 ^ 64 * 2 ^ 30 + 4 * 2 ^ 136)] } }
/-- HostCollectives: OPEN. -/
theorem test_meets_host_open : (let s := hostS 1 3 70 id []
     hostStageOk s 2 0x10000 = false ∧ hostStageOk { s with stile := { s.stile with runs := [stageRun] } } 2 0x10000 = true ∧
     nextOf s 2 1 4 (some 1) = some (desc 4 1 3 0x10000) ∧ dmaPaused s = false ∧ okA (readRange s agH .read 0x10000 48).2 = true ∧
     (let d := declOf s
      declN d.1 = 2 ∧ hostGroup s 2 3 = none ∧ okA (readRange s agH .read 0x10030 (8 * (declFirst d.1 + declN d.1))).2 = true ∧
      groupsUsed s < 4096 ∧ membersUsed s + declN d.1 ≤ 32768 ∧ declOk s true d.1 d.2 entHost = true ∧ freeCtx s = some 0)) ∧
    hostGroup (hostS 1 3 70 id [hgrp]) 2 3 ≠ none := by decide +kernel
/-- HostCollectives: POST and CLOSE. -/
theorem test_meets_host_post :
    nextOf (hostS 0 3 70 id [hgrp]) 2 1 4 (some 0) = some (desc 4 0 3 0x10000) ∧ hostGroup (hostS 0 3 70 id [hgrp]) 2 3 = some hgrp ∧
    hostGroup (hostS 0 3 70 id []) 2 3 = none ∧ 0 < hgrp.n ∧ entHost (hgrp.entries.getD 0 0) = true ∧
    entModule (hgrp.entries.getD 0 0) = (hostS 0 3 70 id []).golger.moduleId ∧
    64 ≤ ((hostS 0 3 70 (fun x => { x with queue := List.replicate 64 posted }) [hgrp]).ctx 0).queue.length ∧
    nextOf (hostS 2 3 70 id [hgrp]) 2 1 4 (some 2) = some (desc 4 2 3 0x10000) := by decide +kernel

def pt (f : GPort → GPort) : State := { up with golger := { up.golger with ports := [(1, f { GPort.reset with phase := .up, ctrl := 0x36, rxSeq := 1 })] } }
def fl (h : FHdr) (n : Nat) : Flit := ⟨flitBytes h (List.replicate n 9), false, 3⟩
/-- GolgerPorts. -/
theorem test_meets_ports : up.hostReady = true ∧ up.hearthRuns = true ∧ ((pt id).port 1).live = true ∧ (up.port 1).phase ≠ .training ∧
    ((pt fun g => { g with phase := .training }).port 1).phase = .training ∧ ((pt fun g => { g with phase := .draining }).port 1).phase = .draining ∧
    SMap.wf GPort.reset (pt id).golger.ports = true ∧ (up.port 1).live = false ∧
    (let s := { pt fun g => { g with phase := .draining, drainAt := 5 } with aon := 312505 }
     (s.port 1).phase = .draining ∧ (s.port 1).drainAt + s.golger.drainLimit.toNat ≤ s.now) ∧
    (let g := (pt fun g => { g with credits := [(2, 0)], msgs := [⟨1, 2, 0, 5, 15, 0, false, true, [⟨true, true, false, [1], none⟩]⟩] }).port 1
     g.credit 2 = 0 ∧ ((g.headMsg 2).map fun m => m.flits.isEmpty) = some false ∧ g.blocked 2 = true ∧ g.tick.waits.get 0 2 = 1) ∧
    stallVc (pt fun g => { g with credits := [(2, 0)], waits := [(2, 312501)], msgs := [⟨1, 2, 0, 5, 15, 0, false, true, [⟨true, true, false, [1], none⟩]⟩] }) 1 = some 2 ∧
    (∀ q, q < 12 → (up.port q).phase = .down ∨ (up.port q).phase = .disabled) ∧ (mor id).golger.lost = [] := by decide +kernel
def hd (vc : Nat) : FHdr := { type := 1, seq := 1, dst := 0, src := 5, first := true, last := true, vc := vc, len := 20 }
/-- GolgerFlits. -/
theorem test_meets_flits : (let f := fl (hd 2) 20
     f.fecFailed = false ∧ flitCrcOk f = true ∧ (parseFlit f.bytes).seq = ((pt id).port 1).rxSeq ∧ (parseFlit f.bytes).first = true ∧
     (parseFlit f.bytes).last = true ∧ (parseFlit f.bytes).dst = (pt id).golger.moduleId ∧
     ((pt id).port 1).rx.get none (parseFlit f.bytes).vc = none) ∧
    flitCrcOk ⟨(fl (hd 2) 20).bytes.set 0 77, false, 0⟩ = false ∧
    (parseFlit (fl { hd 2 with seq := 4 } 20).bytes).seq ≠ ((pt id).port 1).rxSeq ∧ ((pt fun g => { g with asked := true }).port 1).asked = true ∧
    ((pt id).port 1).rxAsks < 7 ∧ 7 ≤ ((pt fun g => { g with rxAsks := 7 }).port 1).rxAsks ∧ ((pt fun g => { g with rx := [(2, some ⟨.deliver, 5, []⟩)] }).port 1).rx.get none 2 = some ⟨.deliver, 5, []⟩ ∧ ((pt id).port 1).txAsks = (0, 0) := by decide +kernel

/-! Memory maintenance, power, Hearth -/

def memS (f : DieMem → DieMem) : State :=
  { up with mem := { up.mem with errs := [(64, [5]), (256, [5, 7, 9])], dies := [(0, f (up.die 0))] } }
/-- MemoryMaintenance. -/
theorem test_meets_maintenance : (memS id).mem.wf = true ∧ canonAddr 64 = some 64 ∧ homeDie 64 = 0 ∧ isFallow 64 = false ∧
    scrubSkips (memS id) 0 64 = false ∧ scrubSkips (memS fun m => { m with mapout := 1 }) 0 64 = true ∧
    (decodeBurst (memS id) 64).1 = .corrected 0 ∧ (memS id).errs 96 = [] ∧ canonAddr 96 = some 96 ∧ (decodeBurst (memS id) 256).1 = .uncorrectable ∧
    (memS id).mem.stuck.get [] ((memS id).phys 64) = [] ∧ ((memS fun m => { m with failing := [7] }).die 0).failing = [7] ∧
    (memS id).mappedOut 0 < 16 ∧ ((memS id).die 0).mapPending = false ∧
    canonAddr (2 ^ 60) = none ∧ homeDie hbmDie1Base = 1 ∧ up.hearthRuns = true ∧ up.stile.array = .free ∧
    ((memS fun m => { m with mapPending := true, frames := [3] }).die 0).mapBusy = false ∧
    ((memS fun m => { m with mapPending := true, frames := [3], mapBusy := true, pendingPc := 7 }).die 0).mapBusy = true ∧
    ((memS fun m => { m with mapPending := true }).die 0).frames = [] ∧ releaseDie (memS fun m => { m with mapPending := true }) = some 0 ∧
    (let s := { memS fun m => { m with mapPending := true, refusedAt := some 4 } with aon := 3125004 }
     retryDue s 0 = true ∧ retryDue { s with aon := 3125003 } 0 = false) ∧
    (up.die 0).failing = [] ∧ (up.die 1).failing = [] ∧ releaseDie up = none ∧ bit up.telem.ctrl.toNat 31 = false := by decide +kernel
/-- MemoryMaintenance: a list of frames that an answer may name. -/
theorem pool_empty (s : State) (h : ∀ d, s.poolBytes d = 0) (a : Nat) : s.inPool a = false := by
  simp [State.inPool, h]
theorem up_pool (a : Nat) : up.inPool a = false := by
  refine pool_empty up (fun d => ?_) a
  have hs : up.codec.poolSize = [] := by decide +kernel
  have h0 : field (0#64).toNat 40 21 * 2 ^ 21 = 0 := by decide +kernel
  rw [State.poolBytes, hs]
  exact h0
theorem test_meets_frames (n : Nat) (hn : n ≤ 18432) :
    (∀ f ∈ List.range n, frameOk up 0 f = true) ∧ (List.range n).length = n ∧ (List.range n).Nodup := by
  refine ⟨fun f hf => ?_, List.length_range, List.nodup_range⟩
  have h : f < n := by simpa using hf
  simp only [frameOk, up_pool, hbmDieBytes, Nat.zero_mul, Nat.zero_add, Nat.zero_le, decide_true, Bool.true_and, Bool.not_false, Bool.and_true, decide_eq_true_eq]
  omega

def pw (f : Power → Power) : State := up.setPower f
/-- PowerAndClocks. -/
theorem test_meets_power : up.powered = true ∧ up.conn.vin = true ∧ levelClear (pw fun p => { p with level := 1, watts := 500, tj := 40 }).power 1 = true ∧
    levelClear up.power 0 = false ∧ wantedLevel (pw fun p => { p with level := 1, watts := 2100, limit := 2000, mv := 54000 }).power = 1 ∧
    wantedLevel (pw fun p => { p with watts := 500, tj := 40, mv := 54000 }).power = 0 ∧
    wantedLevel (pw fun p => { p with watts := 500, tj := 104, mv := 54000 }).power = 2 ∧
    100 * 500 < 95 * (pw fun p => { p with limit := 800 }).power.limit ∧ 95 * 800 ≤ 100 * 1000 ∧ up.hearthRuns = true ∧ up.power.railMv < 40 ∧
    40 ≤ (pw fun p => { p with railMv := 40 }).power.railMv ∧ up.stile.array = .free ∧ up.readyRuns = [] ∧ SMap.wf Sett.reset up.setts = true ∧
    s0.stile.array ≠ .free ∧ up.telem.crash = none := by decide +kernel

/-- PowerAndClocks and FirmwareUpdate: counts of ticks that have run long enough. -/
def longEnough : State := pw fun p => { p with level := 1, watts := 500, tj := 40, clear := [(1, 3125)], room := 3125, idle := 3125, calm := 3125000 }
theorem test_meets_counts : mayFall longEnough.power = true ∧ hasRoom longEnough.power = true ∧ 3125 ≤ longEnough.power.room ∧
    longEnough.power.gateIdle.toNat ≤ longEnough.power.idle ∧ arrayIdle longEnough = true ∧ 3125000 ≤ longEnough.power.calm ∧
    mayFall { longEnough.power with clear := [(1, 3124)] } = false := by decide +kernel
/-- A tick counts what is clear and starts again what is not (R529, R516). -/
theorem test_power_tick : let p := powerTick true longEnough.power
    p.clear.get 0 1 = 3126 ∧ p.idle = 3126 ∧ (powerTick false { longEnough.power with level := 2, tj := 99 }).calm = 0 ∧
    (powerTick false { longEnough.power with level := 2, tj := 99 }).clear.get 0 1 = 0 ∧ (powerTick false longEnough.power).idle = 0 := by
  decide +kernel

/-- HearthCores. -/
theorem test_meets_hearth : up.hostReady = true ∧ 4 ≤ up.hearth.stage ∧ (up.hcore 1).halted = false ∧ State.reset.hearth.stage < 4 ∧
    (let s := freezeCrash 0x0A00 up
     s.telem.crash.isSome = true ∧ s.telem.inFlash = false ∧ s.conn.vin = true ∧ s.hearth.stage ≠ 0 ∧ SMap.wf flashBlank s.hearth.flash = true) ∧
    ([up.now].length ≤ up.hearth.wdogLimit.toNat % 256) ∧ (up.now < (up.hcore 1).kick + up.hearth.wdogPeriod.toNat) ∧
    (let s : State := { up with aon := 2 ^ 40 }
     (s.hcore 1).kick + s.hearth.wdogPeriod.toNat ≤ s.now ∧ s.mortar.doom = none) ∧
    { up with hearth := { up.hearth with wdogLimit := 0 } }.hearth.wdogLimit.toNat % 256 < [up.now].length := by decide +kernel

/-- Mailboxes 0 to 2 have greeted with version 1.1. -/
def mb (f : Hearth → Hearth) : State :=
  { up with hearth := f { up.hearth with boxes := [(0, ⟨some (1, 1), some (3, [1, 2])⟩), (1, ⟨some (1, 1), none⟩), (2, ⟨some (1, 1), none⟩)] } }
def rq (type : Nat) (p : List Byte) : List Byte := mailMsg (1, 1) type 9 p
/-- Mailboxes and FirmwareUpdate: good requests. -/
theorem test_meets_requests : ∀ p ∈ ([(0, 1, leBytes 0x000101 3), (0, 1, leBytes 0x050000 3), (0, 2, []), (1, 0x15, []), (2, 0x30, leBytes 5 8 ++ leBytes 20 4)
      , (2, 0x30, leBytes 0 8 ++ leBytes 4077 4), (1, 0x31, leBytes 3 4 ++ leBytes 10 4), (1, 0x31, leBytes 0 4 ++ leBytes 4077 4), (1, 0x10, leBytes 100 8 ++ leBytes 64 4)
      , (1, 0x10, leBytes 0 12), (1, 0x11, []), (1, 0x12, []), (1, 0x13, []), (1, 0x14, []), (0, 0x41, leBytes 0 12)] : List (Nat × Nat × List Byte)),
    goodRequest (mb id) p.1 (rq p.2.1 p.2.2) p.2.1 p.2.2.length := by unfold goodRequest; decide +kernel
set_option maxRecDepth 20000 in
theorem test_meets_recovery_requests : ∀ p ∈ ([(1, 0x20, leBytes 0x100 4 ++ leBytes 40 4), (1, 0x20, leBytes 4090 4 ++ leBytes 40 4), (1, 0x21, leBytes 7 252)
      , (1, 0x22, leBytes 2 1), (1, 0x22, leBytes 0 1)] : List (Nat × Nat × List Byte)),
    goodRequest (mb id) p.1 (rq p.2.1 p.2.2) p.2.1 p.2.2.length := by unfold goodRequest; decide +kernel
/-- Mailboxes. -/
theorem test_meets_mailboxes : mailOpen (mb id) 0 = true ∧ (mb id).hearth.staging = none ∧ typeAllowed (mb id) 0 0x77 = false ∧
    ((mb id).box 0).last = some (3, [1, 2]) ∧ mailSeq (mailMsg (1, 1) 2 3 []) = 3 ∧ blankGen (mb id) = some 0 ∧
    blankGen (mb fun h => { h with otp := [(0x400, 1), (0x500, 1), (0x600, 1), (0x700, 1)] }) = none ∧
    (up.hearth.waiting = [] ∧ up.hostReady = true) ∧ (mb fun h => { h with notify := true, waiting := [[1], [2]] }).hearth.waiting = [1] :: [[2]] ∧
    SMap.wf Mailbox.reset (mb id).hearth.boxes = true := by decide +kernel
/-- FirmwareUpdate. -/
theorem test_meets_firmware : (mb fun h => { h with staged := true }).hearth.staged = true ∧ (mb id).hearth.staged = false ∧ (mb id).power.level < 2 ∧
    copyRuns (mb id) = false ∧ copyRuns (memS fun m => { m with mapBusy := true }) = true ∧ (mb id).hearth.recovery = false ∧
    SMap.wf HCore.reset (mb id).hearth.cores = true ∧ (mb fun h => { h with fwState := .deferred }).hearth.fwState = .deferred ∧
    (mb id).hearth.fwState ≠ .deferred ∧ 2 ≤ (pw fun p => { p with level := 2 }).power.level ∧
    ((physRead (mb id) 0 false 0x1000 4).map fun x => x.2.1) = some 0 ∧ runningSvn (mb id) ≤ svnCount (mb id) := by decide +kernel
/-- SpdmAnswers. -/
theorem test_meets_spdm : pathOpen up 0 = true ∧ pathOpen up 2 = true ∧
    (∀ c ∈ [0x84, 0xE1, 0xE3, 0x81, 0x82, 0x83, 0xE0], recField [0, BitVec.ofNat 8 c, 0, 0] 1 1 = c ∧ spdmSupported c = true) ∧
    spdmSupported 0x85 = false := by decide +kernel

/-! Tests, resets, registers -/

def tj (j : Option TestJob) (w : List TestJob) : State := { up with test := { up.test with job := j, waiting := w, fenced := [(5, true)] } }
/-- DeviceTests. -/
theorem test_meets_tests : up.test.job = none ∧ (tj (some ⟨3, 0, 5, true, true⟩) []).test.job ≠ none ∧ (tj none []).test.fenced.get false 5 = true ∧
    (tj none []).test.fenced.get false 6 = false ∧ SMap.wf Sett.reset up.setts = true ∧ copyRuns up = false ∧ up.stile.array = .free ∧
    copyRuns (memS fun m => { m with mapBusy := true }) = true ∧ (up.port 3).phase = .disabled ∧ ((pt id).port 1).phase ≠ .disabled ∧
    ownedBy s0 0 = true ∧ s0.settMode 0 = 0 ∧ s0.stile.array ≠ .saving ∧ ownedBy up 0 = false ∧ routeNames up 3 = false ∧
    routeNames (mor id) 1 = true ∧ ((tj none [⟨3, 3, 4, false, false⟩]).port 4).phase = .disabled ∧ (tj none [⟨4, 1, 5, false, false⟩]).test.waiting ≠ [] ∧
    (rs fun t => { t with phase := .fenced }).sett 0 = { s2 with phase := .fenced } ∧
    ((List.range 24).find? fun c => (({ up with codec := { up.codec with cores := [(4, { CodecCore.reset with testing := true })] } } : State).core c).testing)
      = some 4 := by decide +kernel
/-- ResetLevels and TapInstructions. -/
theorem test_meets_resets : up.conn.vin = true ∧ up.powered = true ∧ copyRuns up = false ∧ bit up.telem.ctrl.toNat 31 = false ∧
    SMap.wf GPort.reset up.golger.ports = true ∧ up.conn.mrstLow = false ∧
    ({ up with conn := { up.conn with mrstLow := true } } : State).conn.mrstLow = true ∧ State.reset.hearth.stage = 0 ∧
    ({ State.reset with conn := up.conn } : State).powered = true ∧ up.test.memKept = false ∧ up.hostReady = true ∧
    ({ up with conn := { up.conn with vin := false } } : State).conn.vin = false := by decide +kernel
theorem test_meets_clean (k : Nat) : (up.line k).dirty = 0 := rfl
/-- Registers. -/
theorem test_meets_register_offsets : mapOffset 5 0x2000000 = none ∧ (reg64 up 0x30).isSome = true ∧ reg64 up 0x34 = none ∧ reg64 up 0x14 = none ∧ reg64 up 0x10 = none ∧ isWo 0x30 = false ∧ isWo 0x800520 = true ∧
    (reg64 up 0x800520).isSome = true ∧ mapOffset 5 0x1020 = some 0x800520 ∧ msixSize 0 = 256 ∧
    mapOffset 0 0x30 = some 0x30 ∧ mapOffset 0 0x34 = some 0x34 ∧ mapOffset 0 0x14 = some 0x14 := by decide +kernel

/-- SpdmAnswers: where `Config` has a certificate chain, offset 0 lies in it. -/
theorem test_meets_chain (s : State) (h : chainLen s ≠ 0) : 0 % 16 = 0 ∧ 0 < chainLen s := ⟨rfl, Nat.pos_of_ne_zero h⟩
/-! Hypotheses of operands in memory, and of what a fault, a reset or a codeword leaves -/

/-- Operands that lie in the first 2 KiB of sett 0's page are reached at once. -/
theorem reaches_page (s : State) (l : List Tens) (hb : bit (s.client 2).root.toNat 0 = true) (hr : s.stile.cur = some run)
    (ht : s.tlb (.sett 0) = [tlb0 2]) (hl : s.mem.lines = lines0) (hw : s.mem.wf = true)
    (h : (l.all fun t => !t.mem || ((tiledObjs s).isEmpty && t.storeRanges.all fun e => decide (0x10000 ≤ e.1) && decide (e.1 + e.2 ≤ 0x10800))) = true) :
    reaches s 0 0x10000 0x10800 0 l := by
  refine ⟨hw, hits_page s 8 (by decide) hb hr ht hl, fun t ht hm => ?_⟩
  have := List.all_eq_true.mp h t ht
  simp only [hm, Bool.not_true, Bool.false_or, Bool.and_eq_true, List.isEmpty_iff, List.all_eq_true, decide_eq_true_eq] at this
  exact this
/-- StreamsInScratch: A3, in memory, and A1, in scratch; the destination of STR.COPY. CairnUnit: A3 and A1, of U32. -/
theorem test_meets_reaches : reaches s0 0 0x10000 0x10800 0 [tens (s0.sett 0) 3, tens (s0.sett 0) 1] ∧
    reaches s0 0 0x10000 0x10800 0 [tens (s0.sett 0) 4, tensAs (s0.sett 0) 3 .u8] ∧
    reaches (swp 1) 0 0x10000 0x10800 0 [tens ((swp 1).sett 0) 3] ∧
    reaches (cn owned 0) 0 0x10000 0x10800 0 [tens ((cn owned 0).sett 0) 3, tens ((cn owned 0).sett 0) 1] :=
  ⟨reaches_page _ _ (by decide +kernel) rfl rfl rfl (by decide +kernel) (by decide +kernel),
    reaches_page _ _ (by decide +kernel) rfl rfl rfl (by decide +kernel) (by decide +kernel),
    reaches_page _ _ (by
      have h : ((swp 1).client 2).root = 0x1001 := rfl
      rw [h]
      decide +kernel) rfl rfl rfl (by decide +kernel) (by decide +kernel),
    reaches_page _ _ (by
      have h : ((cn owned 0).client 2).root = 0x1001 := rfl
      rw [h]
      decide +kernel) rfl rfl rfl (by decide +kernel) (by decide +kernel)⟩
theorem test_meets_apart : apart (s0.sett 0) (.strLoad 0 h0 (fT 1 3 0)) ∧ apart (s0.sett 0) (.cairnLookup 0 h0 (fT 1 3 0)) ∧
    apart (s0.sett 0) (.rowNorm 0 h0 (fT 2 2 0)) ∧ apart ((swp 1).sett 0) (.updSweep 0 h0 (fT 2 4 3)) := by
  unfold apart
  decide +kernel
/-- UpdateSweep: the record lies in the page. CairnUnit: AD of U32, nothing due, no lookup of the epoch before. -/
theorem test_meets_sweep_range : 0x10000 ≤ (tens ((swp 1).sett 0) 4).base ∧ (tens ((swp 1).sett 0) 4).base + (tens ((swp 1).sett 0) 4).ext 0 ≤ 0x10800 ∧
    (tens ((cn owned 0).sett 0) 1).fmt = .u32 ∧ ((cn owned 0).cairnT 0).clearDue = false ∧ lookupsBound (cn owned 0) 0 0 = 0 := by decide +kernel
/-- StreamsInScratch: STR.PREF of a burst that stands in its line, and of one that does not. -/
theorem test_meets_pref :
    (let t := s0.sett 0
     isMemOp t 3 = true ∧ (tens t 3).storeRanges = [(0x10000, 4)] ∧ burstsOf 0x10000 4 = [0x10000]) ∧
    (let s := { s0 with mem := { s0.mem with lines := [] } }
     let s1 := accepted s 0 .stream (.strPref 0 h0 (fT 1 3 0)) 8
     (s.line 256).poison &&& sectorMask 0x10000 = 0 ∧ (s.line 256).valid &&& sectorMask 0x10000 ≠ sectorMask 0x10000 ∧
     (memRead s1 0x10000).2.2 = 0 ∧ hasWay (memRead s1 0x10000).1 256 = true) := by decide +kernel
/-- SortAndAttention: a run in order. -/
theorem test_meets_in_order : inOrder (fun a b : Nat × Nat => keyBefore 0 false a.1 b.1) ((scrTens (s0.sett 0) 1).pairsIn (viewOf s0 0 0)) = true := by
  decide +kernel

/-- HaloUnit: one slot whose record fits AD; a record to take, with a credit of the neighbour. -/
def hal1 : State := (hal 1 true).setSett 0 fun t => { (t.setA 4 (dsc 1 0 10 0x10100 [80] [80])) with s := [(1, 7), (2, 1)] }
theorem test_meets_spill :
    hal1.mem.wf = true ∧ SMap.wf Sett.reset hal1.setts = true ∧ neighbour hal1 0 (modDir fE) = some 1 ∧
    ((hal1.sett 0).port (modDir fE)).slots = [⟨7, 8, 8⟩] ∧ (spillRecord ⟨7, 8, 8⟩ (leBytes 0 8)).length ≤ (tens (hal1.sett 0) 4).extent ∧
    ((hal1.sett 0).sreg 2).toNat = 1 ∧ ((hal1.sett 1).port (oppDir (modDir fE))).credits ≠ 0 ∧
    recField ((viewOf hal1 0 0).mem 0x10100 16) 8 4 = 0 ∧ 16 ≤ (tens (hal1.sett 0) 4).extent := by decide +kernel

/-- PagedCache: one row whose page of sequence 0 stands, at position 5. -/
def kvScat : State := (kv 0x10100 0x10000).setSett 0 fun t => t.setA 6 (dsc 0 0 9 8 [1] [1])
theorem test_meets_scatter :
    (let t := kvScat.sett 0
     let ab := scrTensAs t 6 .u32
     let v := viewOf kvScat 0 0
     0 < ab.validCount ∧ ab.elemIn v (ab.validAt 0) = some (some 0, 0x7F) ∧ tiledObjs kvScat = [] ∧
     v.word 0x10108 = 5 ∧ v.word 0x10110 = 0x10200 ∧ locVa (v.word 0x10200) = 0x10400 ∧ v.word 0x10118 % 2 ^ 32 = 1 ∧ v.word 0x10200 ≠ 0 ∧
     apart t (.kvScatter 0 h0 (fT 2 1 6))) := by
  unfold apart
  decide +kernel

/-- QueueAndFaultRegisters: a TLB entry that an invalidation leaves. Faults: a fault that is met again, and one that is not. -/
def fault1 : FaultRec := { id := 3, va := 0x10000, run := 4, agent := 0, cls := 1, acc := 0, time := 0, owner := .sett 0 .stream }
theorem test_meets_left : tlb0 2 ∈ (flushTlbs 5 0x10000 16 s0).tlb (.sett 0) ∧ tlb0 2 ∉ (flushTlbs 2 0x10000 16 s0).tlb (.sett 0) ∧
    (up.client 0).again = none ∧ ((up.setClient 2 fun x => { x with again := some fault1 }).client 2).again = some fault1 ∧
    bit ((up.setClient 2 fun x => { x with again := some fault1 }).client 2).fqCtrl.toNat 31 = false := by decide +kernel

/-- FaultAnswers: the paused entry as the answer starts it. -/
theorem test_meets_resume : pausedS.arrayRuns = true ∧ (pausedS.sett 0).trace = none ∧ resumes (.escPin 0 h0 (fT 1 1 1)) = false ∧
    resumes (.strLoad 0 h0 (fT 1 1 1)) = true ∧
    (let w := writeResp 2 6 pausedS
     let s1 := (w.setClient 2 fun x => { x with waiting := [] }).setSett 0 fun t =>
       { t with queue := [qe .stream (.escPin 0 h0 (fT 1 1 1)) .queued] }
     match unitEffect 0 0 0 (boundAux s1 0 (.escPin 0 h0 (fT 1 1 1))) (.escPin 0 h0 (fT 1 1 1)) s1 with
     | .done s2 => (s2.sett 0).queue == [qe .stream (.escPin 0 h0 (fT 1 1 1)) .queued]
     | _ => false) = true := by decide +kernel

/-- DescriptorsRun: a granule in the frame pool, and one outside. -/
def poolS : State := { s0 with codec := { s0.codec with poolBase := [(0, 0)], poolSize := [(0, 0x200000)] } }
theorem test_meets_pool : poolHit poolS 2 .read 0x10000 = true ∧ poolHit s0 2 .read 0x10000 = false ∧ poolHit s0 2 .write 0x10100 = false := by
  decide +kernel

/-- Aperture: memory that answers as bad; a configuration request before boot's end and after it. -/
theorem test_meets_bad_read :
    (match (readRange { ap with mem := { ap.mem with errs := [(0x10800, [5, 7, 9])] } } (dmaAgent 0) .read 0x10800 8).2 with
     | .bad _ _ => true
     | _ => false) = true ∧ up.powered = true ∧ up.conn.linkUp = true ∧ up.hearth.ready = true ∧
    ({ up with hearth := Hearth.reset } : State).hearth.ready = false ∧ SMap.wf 0 up.woLow = true := by decide +kernel

/-- CodecStreams: the slot records of an encode are written; a FLUSH with a zero and with a nonzero ARG. -/
theorem test_meets_records : okA (writeRange (cs 0 (str false) id) (codecAgent 0 2) .write (recField (str false).block 64 8)
    (slotRecords (newStream 2 7 0 (str false).block [0, 1]))).2 = true ∧ recField (desc 3 1 7 0).bytes 24 8 = 0 ∧
    recField (desc 3 1 7 0x10000).bytes 24 8 ≠ 0 := by decide +kernel

/-- MortarContexts: a record of a member, and one of no member. MortarMessages: a group without a context. -/
theorem test_meets_lone : lone group posted = false ∧ lone group { posted with member := 3 } = true ∧
    ({ group with ctx := none } : Group).ctx = none ∧ ((mor id).ctx 3).freeRecv = 0 ∧ coll.owns (dataH 1 5) = true ∧
    coll.owns (dataH 1 4) = false := by decide +kernel

/-- GolgerFlits: a good flit of each TYPE; a port within a codeword that failed; seven requests and eight. -/
theorem test_meets_flit_types : (∀ k, k < 16 → flitCrcOk (fl { hd 2 with type := k } 20) = true ∧ (parseFlit (fl { hd 2 with type := k } 20).bytes).type = k) ∧
    ((pt fun g => { g with cwPos := 2048, cwBad := true }).port 1).cwBad = true ∧ ((pt id).port 1).cwPos = 0 ∧
    ((pt fun g => { g with txAsks := (1, 7) }).port 1).txAsks = (1, 7) := by decide +kernel

/-- MemoryMaintenance: a stack beyond ten times the threshold, at a job boundary and not; a poisoned burst that has a copy. -/
def badStack : State :=
  { up with mem := { up.mem with dies := [(1, { (up.die 1) with symbols := [(64 * 40, 20000)] })] } }
theorem test_meets_stack : failingStack (badStack.die 1) = some 1 ∧ mayStart ⟨4, 1, 7, true, false⟩ badStack = true ∧
    mayStart ⟨4, 1, 7, true, false⟩ { badStack with stile := { badStack.stile with array := .running } } = false ∧
    failingStack (up.die 0) = none ∧ hasCopy s0 0x10000 = true := by decide +kernel

/-- HearthCores: a record that the block still holds, and one that needs the next. -/
theorem test_meets_log : up.hearth.log.used + 4 + 40 ≤ 65536 ∧ SMap.wf flashBlank up.hearth.flash = true ∧
    ({ up.hearth.log with used := 65500 } : LogRing).used + 4 + 40 = 65544 := by decide +kernel

/-- SpdmAnswers: a path on which the algorithms have been negotiated. -/
theorem test_meets_connection : up.hearth.spdm.get 0 2 = 0 ∧
    ({ up with hearth := { up.hearth with spdm := [(2, 3)] } } : State).hearth.spdm.get 0 2 = 3 := by decide +kernel

/-- DeviceTests: a run that has been placed and has issued nothing. ResetLevels, FirmwareUpdate: a running FW_STAGE. -/
theorem test_meets_placed :
    (let s := { s0 with stile := { s0.stile with array := .admitting, cur := some { run with issued := false } } }
     ownedBy s 0 = true ∧ s.stile.array = .admitting) ∧ (s0.stile.cur.any fun r => r.issued) = true ∧
    (let s := mb fun h => { h with staging := some ⟨1, 9, 0x1000, 100, false⟩ }
     s.hearth.staging = some ⟨1, 9, 0x1000, 100, false⟩ ∧ SMap.wf flashBlank s.hearth.flash = true ∧ 100 ≤ slotBytes) := by decide +kernel


end Sys2Proof.Tests
end

section
/-! PROOFS. What the gates of a command let through: the host, the clients, the queues, the powered block. -/

namespace Sys2Proof.Proofs

open Sys2Proof Sys2Proof.Machine Sys2Proof.Laws

theorem powered_of_hostReady {s : State} (h : s.hostReady = true) : s.powered = true := by
  simp only [State.hostReady, Bool.and_eq_true] at h
  exact h.2

theorem bootEnded_of_hostReady {s : State} (h : s.hostReady = true) : s.hearth.ready = true := by
  simp only [State.hostReady, Bool.and_eq_true] at h
  exact h.1.1

theorem fromHost_ready {s : State} (h : s.hostReady = true) (f : State → State) : fromHost f s = f s := if_pos h

theorem forClient_lt {c : Nat} (h : c < 32) (f : State → State) (s : State) : forClient c f s = f s := if_pos h

theorem settleDoom_none {s : State} (h : s.mortar.doom = none) : settleDoom s = s := by
  simp only [settleDoom, settleDoomBy, h]

theorem live_powered {s : State} (h : s.powered = true) (f : State → State) (hd : (f s).mortar.doom = none) : live f s = f s := by
  rw [live, if_pos h, settleDoom_none hd]

theorem forQueue_ready {s : State} {c n : Nat} (hc : c < 32) (hn : n < 8) (h : s.hostReady = true) (f : State → State)
    (hd : (f s).mortar.doom = none) : forQueue c n f s = f s := by
  rw [forQueue, if_pos ⟨hc, hn, bootEnded_of_hostReady h, powered_of_hostReady h⟩, settleDoom_none hd]

end Sys2Proof.Proofs
end

section
/-! PROOFS. Canonical sparse maps: what a store, an entry and a rebuilding fold read as. -/

namespace Sys2Proof.Proofs

open Sys2Proof Sys2Proof.Machine Sys2Proof.Laws

section Maps

variable {α : Type} [DecidableEq α] {d : α}

/-- A key below all of a canonical map's reads as the default. -/
theorem get_of_wfAbove {lo i : Nat} {m : List (Nat × α)} (h : SMap.wfAbove d lo m = true) (hi : i ≤ lo) : SMap.get d m i = d := by
  cases m with
  | nil => rfl
  | cons e t =>
    simp only [SMap.wfAbove, Bool.and_eq_true, decide_eq_true_eq] at h
    rw [SMap.get, if_neg (by omega), if_pos (by omega)]

/-- In a canonical map a store, of the default too, changes its own key alone. -/
theorem get_set_of_wf {m : SMap α} (h : SMap.wf d m = true) (i j : Nat) (v : α) :
    SMap.get d (SMap.set d m i v) j = if j = i then v else SMap.get d m j := by
  by_cases hv : v = d
  · subst hv
    induction m with
    | nil => simp [SMap.set]
    | cons e t ih =>
      obtain ⟨k, w⟩ := e
      simp only [SMap.wf, Bool.and_eq_true, decide_eq_true_eq] at h
      have above : ∀ j, j ≤ k → SMap.get v t j = v := fun j hj => get_of_wfAbove h.2 hj
      simp only [SMap.set, if_true]
      rcases Nat.lt_trichotomy i k with hik | rfl | hik
      · rw [if_pos hik]
        split
        · next e => subst e; rw [SMap.get, if_neg (by omega), if_pos hik]
        · rfl
      · rw [if_neg (Nat.lt_irrefl i), if_pos rfl]
        rcases Nat.lt_trichotomy j i with hj | rfl | hj
        · rw [above j (by omega), if_neg (by omega), SMap.get, if_neg (by omega), if_pos hj]
        · rw [above j (by omega), if_pos rfl]
        · rw [if_neg (by omega), SMap.get, if_neg (by omega), if_neg (by omega)]
      · rw [if_neg (by omega), if_neg (by omega), SMap.get, SMap.get, ih (wf_of_wfAbove v k t h.2)]
        by_cases e : j = i
        · rw [if_pos e, if_neg (by omega), if_neg (by omega), if_pos e]
        · simp only [if_neg e]
  · by_cases e : j = i
    · rw [e, get_set_self d v m i hv, if_pos rfl]
    · rw [get_set_other d v m i j hv e, if_neg e]

theorem lt_of_mem {lo k : Nat} {v : α} {m : List (Nat × α)} (h : SMap.wfAbove d lo m = true) (hm : (k, v) ∈ m) : lo < k := by
  induction m generalizing lo with
  | nil => cases hm
  | cons e t ih =>
    simp only [SMap.wfAbove, Bool.and_eq_true, decide_eq_true_eq] at h
    rcases List.mem_cons.1 hm with rfl | ht
    · exact h.1.1
    · exact Nat.lt_trans h.1.1 (ih h.2 ht)

/-- An entry of a canonical map is what its key reads as. -/
theorem get_of_mem {m : SMap α} (h : SMap.wf d m = true) {k : Nat} {v : α} (hm : (k, v) ∈ m) : SMap.get d m k = v := by
  induction m with
  | nil => cases hm
  | cons e t ih =>
    simp only [SMap.wf, Bool.and_eq_true, decide_eq_true_eq] at h
    rcases List.mem_cons.1 hm with rfl | ht
    · rw [SMap.get, if_pos rfl]
    · have hk := lt_of_mem h.2 ht
      rw [SMap.get, if_neg (by omega), if_neg (by omega), ih (wf_of_wfAbove d e.1 t h.2) ht]

/-- A map built anew from the images of another's values holds at each key what it held, or the image of an entry of that key. -/
theorem get_foldl_set (f : α → α) (m : List (Nat × α)) {t : SMap α} (ht : SMap.wf d t = true) (k : Nat) :
    SMap.get d (m.foldl (fun t e => SMap.set d t e.1 (f e.2)) t) k = SMap.get d t k ∨
    ∃ v, (k, v) ∈ m ∧ SMap.get d (m.foldl (fun t e => SMap.set d t e.1 (f e.2)) t) k = f v := by
  induction m generalizing t with
  | nil => exact .inl rfl
  | cons e m ih =>
    rcases ih (wf_set d (f e.2) t e.1 ht) with h | ⟨v, hv, h⟩
    · rw [get_set_of_wf ht] at h
      split at h
      · next hk => exact .inr ⟨e.2, hk ▸ List.mem_cons_self, h⟩
      · exact .inl h
    · exact .inr ⟨v, List.mem_cons_of_mem e hv, h⟩

end Maps

end Sys2Proof.Proofs
end

section
/-! PROOFS. What holds of a state holds of the state that a sequence of accesses leaves. -/

namespace Sys2Proof.Proofs

open Sys2Proof Sys2Proof.Machine Sys2Proof.Laws

theorem bind_st {α β : Type} {P : State → Prop} {r : Res α} {f : α → State → Res β} (hr : P (Res.st r))
    (hf : ∀ a s, P s → P (Res.st (f a s))) : P (Res.st (r.bind f)) := by
  cases r with
  | ok a s => exact hf a s hr
  | fault => exact hr
  | bad => exact hr

theorem mapM_st {α β : Type} {P : State → Prop} {f : α → State → Res β} (hf : ∀ a s, P s → P (Res.st (f a s))) (l : List α)
    {s : State} (h : P s) : P (Res.st (Res.mapM f l s)) := by
  induction l generalizing s with
  | nil => exact h
  | cons a l ih => exact bind_st (hf a s h) fun _ _ h => bind_st (ih h) fun _ _ h => h

theorem foldl_st {α : Type} {P : State → Prop} {g : State → α → State} (hg : ∀ s a, P s → P (g s a)) (l : List α) {s : State}
    (h : P s) : P (l.foldl g s) := by
  induction l generalizing s with
  | nil => exact h
  | cons a l ih => exact ih (hg s a h)

end Sys2Proof.Proofs
end

section
/-! PROOFS. What a write to memory leaves: nothing beyond memory, translation, the doom that Mortar keeps and the count of
free values drawn. -/

namespace Sys2Proof.Proofs

open Sys2Proof Sys2Proof.Machine Sys2Proof.Laws

/-- The part of the state that no memory access changes. -/
def beyondMem (s : State) : State := { s with fresh := 0, mem := Mem.reset, xlat := Xlat.reset, mortar := Mortar.reset }

theorem setts_of_beyondMem {s t : State} (h : beyondMem t = beyondMem s) : t.setts = s.setts :=
  (congrArg State.setts h : (beyondMem t).setts = (beyondMem s).setts)

theorem beyondMem_foldl {α : Type} {g : State → α → State} (h : ∀ s a, beyondMem (g s a) = beyondMem s) (l : List α) (s : State) :
    beyondMem (l.foldl g s) = beyondMem s :=
  foldl_st (P := fun t => beyondMem t = beyondMem s) (fun t a ht => (h t a).trans ht) l rfl

@[simp] theorem beyondMem_setLine (s : State) (k : Nat) (f : Line → Line) : beyondMem (s.setLine k f) = beyondMem s := rfl
@[simp] theorem beyondMem_mem (s : State) (m : Mem) : beyondMem { s with mem := m } = beyondMem s := rfl
@[simp] theorem beyondMem_xlat (s : State) (x : Xlat) : beyondMem { s with xlat := x } = beyondMem s := rfl
@[simp] theorem beyondMem_fresh (s : State) (n : Nat) : beyondMem { s with fresh := n } = beyondMem s := rfl

/-! Stored bursts -/

@[simp] theorem beyondMem_linkTransfer (s : State) (b : Nat) : beyondMem (linkTransfer s b).1 = beyondMem s := by
  unfold linkTransfer
  split <;> rfl

@[simp] theorem beyondMem_countBurst (s : State) (b : Nat) (o : Decoded) : beyondMem (countBurst s b o).1 = beyondMem s := by
  cases o <;> rfl

@[simp] theorem beyondMem_deliver (s : State) (b : Nat) (bs : List Byte) : beyondMem (deliver s b bs) = beyondMem s := by
  unfold deliver
  dsimp only
  split <;> rfl

@[simp] theorem beyondMem_memRead (s : State) (b : Nat) : beyondMem (memRead s b).1 = beyondMem s := by
  simp only [memRead, apply_ite beyondMem, beyondMem_deliver, beyondMem_countBurst, beyondMem_linkTransfer, ite_self]

@[simp] theorem beyondMem_memWrite (s : State) (b : Nat) : beyondMem (memWrite s b) = beyondMem s := by
  simp only [memWrite, beyondMem_mem, beyondMem_linkTransfer]

@[simp] theorem beyondMem_memPoison (s : State) (b : Nat) : beyondMem (memPoison s b) = beyondMem s := by
  simp only [memPoison, beyondMem_mem, beyondMem_linkTransfer]

/-! The Lintel cache -/

@[simp] theorem beyondMem_countEcc (k n : Nat) (s : State) : beyondMem (countEcc k n s) = beyondMem s := rfl

@[simp] theorem beyondMem_checkDirty (k : Nat) (bs : List Nat) (s : State) : beyondMem (checkDirty k bs s) = beyondMem s := by
  unfold checkDirty
  dsimp only
  split
  · rfl
  · split <;> rfl

@[simp] theorem beyondMem_cleanLine (s : State) (k : Nat) : beyondMem (cleanLine s k) = beyondMem s := by
  unfold cleanLine
  dsimp only
  rw [beyondMem_setLine, beyondMem_foldl fun s b => by rw [apply_ite beyondMem, beyondMem_memWrite, beyondMem_memPoison, ite_self]]
  split <;> simp

@[simp] theorem beyondMem_dropLine (s : State) (k : Nat) : beyondMem (dropLine s k) = beyondMem s := by simp [dropLine]

@[simp] theorem beyondMem_makeRoom (s : State) (k : Nat) : beyondMem (makeRoom s k) = beyondMem s := by
  unfold makeRoom
  split
  · rfl
  · dsimp only
    split <;> simp

@[simp] theorem beyondMem_fetchBurst (s : State) (b : Nat) (alloc : Bool) : beyondMem (fetchBurst s b alloc).1 = beyondMem s := by
  unfold fetchBurst
  dsimp only
  split
  · simp
  · split <;> simp

@[simp] theorem beyondMem_doomWaits (b status : Nat) (s : State) : beyondMem (doomWaits b status s) = beyondMem s := by
  unfold doomWaits
  split <;> rfl

@[simp] theorem beyondMem_sliceRead (s : State) (b : Nat) (alloc : Bool) : beyondMem (sliceRead s b alloc).1 = beyondMem s := by
  unfold sliceRead
  dsimp only
  split
  · rfl
  split
  · simp
  split
  · split <;> simp
  · split <;> simp

@[simp] theorem beyondMem_readBurst (s : State) (b : Nat) (alloc : Bool) : beyondMem (readBurst s b alloc).1 = beyondMem s := by
  simp only [readBurst, apply_ite beyondMem, beyondMem_doomWaits, beyondMem_sliceRead, ite_self]

@[simp] theorem beyondMem_readBursts (alloc : Bool) (s : State) (l : List Nat) : beyondMem (readBursts alloc s l).1 = beyondMem s := by
  induction l generalizing s with
  | nil => rfl
  | cons b l ih =>
    unfold readBursts
    dsimp only
    split
    · rw [ih, beyondMem_readBurst]
    · exact beyondMem_readBurst s b alloc

@[simp] theorem beyondMem_devRead (s : State) (ca len : Nat) (alloc : Bool) : beyondMem (devRead s ca len alloc).1 = beyondMem s :=
  beyondMem_readBursts alloc s _

@[simp] theorem beyondMem_putBurst (b lo : Nat) (part : List Byte) (whole : Bool) (s : State) :
    beyondMem (putBurst b lo part whole s) = beyondMem s := by
  unfold putBurst
  dsimp only
  split <;> simp

@[simp] theorem beyondMem_writeBurst (ca : Nat) (bs : List Byte) (s : State) (b : Nat) :
    beyondMem (writeBurst ca bs s b) = beyondMem s := by
  unfold writeBurst
  dsimp only
  split
  · simp
  split
  · simp
  split <;> simp

@[simp] theorem beyondMem_devWrite (s : State) (ca : Nat) (bs : List Byte) : beyondMem (devWrite s ca bs) = beyondMem s :=
  beyondMem_foldl (beyondMem_writeBurst ca bs) _ s

@[simp] theorem beyondMem_streamWrite (s : State) (ca : Nat) (bs : List Byte) : beyondMem (streamWrite s ca bs) = beyondMem s := by
  unfold streamWrite
  split
  · rw [beyondMem_foldl beyondMem_memWrite, beyondMem_setLine, beyondMem_mem]
  · exact beyondMem_devWrite s ca bs

@[simp] theorem beyondMem_hostWrite (s : State) (a : Nat) (bs : List Byte) : beyondMem (hostWrite s a bs) = beyondMem s := rfl

/-! Translation and accesses to a granule -/

@[simp] theorem beyondMem_walk (obj : Option (BitVec 512)) (va n table : Nat) (s : State) :
    beyondMem (walk obj va n table s).2 = beyondMem s := by
  induction n generalizing table s with
  | zero => rfl
  | succ n ih =>
    unfold walk
    split
    · rfl
    · simp only [apply_ite Prod.snd, apply_ite beyondMem, beyondMem_devRead, ih, ite_self]

@[simp] theorem beyondMem_fillTlb (ag : Agent) (e : TlbEntry) (s : State) : beyondMem (fillTlb ag e s) = beyondMem s := rfl
@[simp] theorem beyondMem_fillL2 (ag : Agent) (e : TlbEntry) (s : State) : beyondMem (fillL2 ag e s) = beyondMem s := rfl

theorem beyondMem_of_eq {α : Type} {p : α × State} {x : α} {s t : State} (e : p = (x, t)) (h : beyondMem p.2 = beyondMem s) :
    beyondMem t = beyondMem s := by
  rw [e] at h
  exact h

@[simp] theorem beyondMem_missXl (ag : Agent) (obj : Option (BitVec 512)) (kind : AccKind) (va : Nat) (s : State) :
    beyondMem (missXl ag obj kind va s).2 = beyondMem s := by
  unfold missXl
  split
  · rfl
  · dsimp only
    split
    · next hw => exact (beyondMem_of_eq hw (beyondMem_walk ..)).trans (beyondMem_xlat s _)
    · next hw =>
      have h := (beyondMem_of_eq hw (beyondMem_walk ..)).trans (beyondMem_xlat s _)
      split
      · exact h
      · exact (beyondMem_fillTlb ..).trans ((beyondMem_fillL2 ..).trans h)

@[simp] theorem beyondMem_xlate (ag : Agent) (kind : AccKind) (va : Nat) (s : State) : beyondMem (xlate ag kind va s).2 = beyondMem s := by
  unfold xlate
  dsimp only
  split
  · simp only [apply_ite Prod.snd, apply_ite beyondMem, ite_eq_left_iff]
    intro _ _
    split
    · rfl
    · exact beyondMem_missXl ..
  · split
    · rfl
    · simp only [apply_ite Prod.snd, apply_ite beyondMem, ite_eq_left_iff]
      intro _ _ _
      split
      · rfl
      · exact beyondMem_missXl ..

@[simp] theorem beyondMem_hostRequest (fn addr len : Nat) (write : Bool) (s : State) :
    beyondMem (hostRequest fn addr len write s).1 = beyondMem s := by
  unfold hostRequest
  split <;> rfl

@[simp] theorem beyondMem_lockLine (ag : Agent) (va ca : Nat) (s : State) : beyondMem (lockLine ag va ca s) = beyondMem s := by
  unfold lockLine
  split
  · split <;> rfl
  · rfl

@[simp] theorem beyondMem_peerRequest (ag : Agent) (va len : Nat) (bs : Option (List Byte)) (s : State) :
    beyondMem (peerRequest ag va len bs s) = beyondMem s := rfl

theorem beyondMem_writeGranule (s : State) (ag : Agent) (kind : AccKind) (va : Nat) (bs : List Byte) :
    beyondMem (Acc.st (writeGranule s ag kind va bs)) = beyondMem s := by
  unfold writeGranule
  split
  · next hx => exact beyondMem_of_eq hx (beyondMem_xlate ..)
  · next hx =>
    have h := beyondMem_of_eq hx (beyondMem_xlate ..)
    split
    · exact h
    · rw [Acc.st, beyondMem_lockLine, apply_ite beyondMem, beyondMem_streamWrite, beyondMem_devWrite, ite_self, h]
  · next hx =>
    have h := beyondMem_of_eq hx (beyondMem_xlate ..)
    dsimp only
    split
    · exact (beyondMem_hostWrite ..).trans ((beyondMem_hostRequest ..).trans h)
    · exact (beyondMem_hostRequest ..).trans h
  · next hx => exact (beyondMem_peerRequest ..).trans (beyondMem_of_eq hx (beyondMem_xlate ..))

end Sys2Proof.Proofs
end

section
/-! PROOFS. The state after reset (R14, R47). -/

namespace Sys2Proof.Proofs

open Sys2Proof Sys2Proof.Machine Sys2Proof.Laws

theorem reset_inv : State.reset.inv := ⟨rfl, rfl, powReset⟩

/-- Settles O32: each sparse map is empty at reset, so each entry reads as its own reset value. That a port stands DISABLED is
the model's choice (log entry 18). -/
theorem resetState : Obligations.ResetState := by
  refine ⟨reset_inv, rfl, rfl, rfl, rfl, fun _ => rfl, rfl, rfl, rfl, fun r => ?_, fun _ => rfl, fun _ => rfl,
    fun _ => ⟨rfl, rfl⟩, rfl, rfl, rfl, rfl, fun _ => rfl⟩
  exact ite_self _

end Sys2Proof.Proofs
end

section
/-! PROOFS. The registers of BAR0 and BAR4 as a function reads and writes them (R12, R13, R18). -/

namespace Sys2Proof.Proofs

open Sys2Proof Sys2Proof.Machine Sys2Proof.Laws

/-! The register map of BAR0 (R18, R574, R575) -/

/-- An offset beyond a block of registers. -/
theorem inBlock_beyond {base stride n off : Nat} (h : base + stride * n ≤ off) : inBlock base stride n off = none :=
  if_neg fun hb => absurd hb.2 (Nat.not_lt.2 h)

/-- Offset `o` of the window of sett `i`. -/
theorem inBlock_sett {i o : Nat} (hi : i < 408) (ho : o < 0x8000) :
    inBlock 0x1000000 0x8000 408 (0x1000000 + 0x8000 * i + o) = some (i, o) := by
  have hd : (0x1000000 + 0x8000 * i + o - 0x1000000) / 0x8000 = i := by omega
  have hm : (0x1000000 + 0x8000 * i + o - 0x1000000) % 0x8000 = o := by omega
  rw [inBlock, if_pos ⟨by omega, by omega⟩, hd, hm]

theorem reg64_sett (s : State) {i o : Nat} (hi : i < 408) (ho : o < 0x8000) :
    reg64 s (0x1000000 + 0x8000 * i + o) = settReg64 (s.sett i) o := by
  simp (disch := omega) only [reg64, inBlock_beyond, inBlock_sett hi ho]

theorem write32_sett (s : State) (fn : Nat) (v : W32) {i o : Nat} (hi : i < 408) (ho : o < 0x8000) :
    write32 fn (0x1000000 + 0x8000 * i + o) v s = settWrite i o v s := by
  simp (disch := omega) only [write32, inBlock_beyond, inBlock_sett hi ho]

/-- A register offset below 2³⁴ names no byte of BAR4 (log entry 138). -/
theorem bar4Off_below {off : Nat} (h : off < 2 ^ 34) : bar4Off off = none := if_neg (by omega)

theorem bar4Off_above {o : Nat} (h : o < 65536) : bar4Off (2 ^ 34 + o) = some o := by
  rw [bar4Off, if_pos (by omega)]
  exact congrArg some (by omega)

/-- Offset `off` of function `fn` names the word of BAR0 at `a`. -/
def Names (fn off a : Nat) : Prop := bar4Off off = none ∧ (if off % 4 = 0 then mapOffset fn off else none) = some a

theorem names_of_mapOffset {fn off a : Nat} (h : off < 2 ^ 34) (h4 : off % 4 = 0) (hm : mapOffset fn off = some a) :
    Names fn off a := ⟨bar4Off_below h, (if_pos h4).trans hm⟩

/-- The physical function's offsets are those of BAR0 itself. -/
theorem names_pf {off : Nat} (h : off < 2 ^ 34) (h4 : off % 4 = 0) : Names 0 off off := names_of_mapOffset h h4 rfl

/-- The word at `a` is the high word of a 64-bit register that reads `x`. -/
def IsHigh (s : State) (a x : Nat) : Prop := reg64 s a = none ∧ 4 ≤ a ∧ reg64 s (a - 4) = some x

/-- The word at `a` is a 32-bit register, or none. -/
def IsSingle (s : State) (a : Nat) : Prop := reg64 s a = none ∧ (a < 4 ∨ reg64 s (a - 4) = none)

/-! Reads and writes of a register, by what its offset names (R12, R13) -/

section Access

variable {fn off a : Nat} (s : State) (v : W32)

theorem lowHalf_of_single {s : State} {a : Nat} (h : IsSingle s a) : (if 4 ≤ a then reg64 s (a - 4) else none) = none := by
  rcases h.2 with h4 | hn
  · exact if_neg (by omega)
  · rw [hn, ite_self]

/-- A captured or staged word that is not of the register at `low` has another register's tag. -/
theorem tag_ne {x : Option (Nat × W32)} {low b : Nat} {w : W32} (h : ∀ w, x ≠ some (low, w)) (hx : x = some (b, w)) : b ≠ low := by
  rintro rfl
  exact h w hx

theorem readReg_absent (hb : bar4Off off = none) (hm : (if off % 4 = 0 then mapOffset fn off else none) = none) :
    readReg fn off s = s.emit (.data (BitVec.ofNat 32 0)) := by
  simp only [readReg, hb, hm]

theorem writeReg_absent (hb : bar4Off off = none) (hm : (if off % 4 = 0 then mapOffset fn off else none) = none) :
    writeReg fn off v s = s := by
  simp only [writeReg, hb, hm]

theorem readReg_bar4 {o : Nat} (hb : bar4Off off = some o) :
    readReg fn off s = s.emit (.data (BitVec.ofNat 32 (if o % 4 = 0 then s.bar4Read fn o else 0))) := by
  simp only [readReg, hb]

theorem writeReg_bar4 {o : Nat} (hb : bar4Off off = some o) :
    writeReg fn off v s = if o % 4 = 0 then bar4Write fn o v s else s := by
  simp only [writeReg, hb]

theorem readReg_low {x : Nat} (hn : Names fn off a) (hx : reg64 s a = some x) :
    readReg fn off s = State.emit { s with shadow := SMap.set none s.shadow fn (some (a, BitVec.ofNat 32 (x / 2 ^ 32))) }
      (.data (BitVec.ofNat 32 x)) := by
  simp only [readReg, hn.1, hn.2, hx]

theorem writeReg_low {x : Nat} (hn : Names fn off a) (hx : reg64 s a = some x) :
    writeReg fn off v s = { s with staging := SMap.set none s.staging fn (some (a, v)) } := by
  simp only [writeReg, hn.1, hn.2, hx]

theorem readReg_high_captured {x : Nat} {w : W32} (hn : Names fn off a) (hx : IsHigh s a x)
    (hs : s.shadow.get none fn = some (a - 4, w)) :
    readReg fn off s = State.emit { s with shadow := SMap.set none s.shadow fn none } (.data w) := by
  obtain ⟨hl, h4, hx⟩ := hx
  simp only [readReg, hn.1, hn.2, hl, if_pos h4, hx, hs, if_true, BitVec.ofNat_toNat, BitVec.setWidth_eq]

theorem readReg_high_live {x : Nat} (hn : Names fn off a) (hx : IsHigh s a x)
    (hs : ∀ w, s.shadow.get none fn ≠ some (a - 4, w)) :
    readReg fn off s = s.emit (.data (BitVec.ofNat 32 (x / 2 ^ 32))) := by
  obtain ⟨hl, h4, hx⟩ := hx
  simp only [readReg, hn.1, hn.2, hl, if_pos h4, hx]
  split
  · next hb => rw [if_neg (tag_ne hs hb)]
  · rfl

theorem writeReg_high {x : Nat} (hn : Names fn off a) (hx : IsHigh s a x) :
    writeReg fn off v s = commitHigh fn (a - 4) x v s := by
  obtain ⟨hl, h4, hx⟩ := hx
  simp only [writeReg, hn.1, hn.2, hl, if_pos h4, hx]

theorem readReg_single (hn : Names fn off a) (hx : IsSingle s a) :
    readReg fn off s = s.emit (.data (BitVec.ofNat 32 (reg32 s a))) := by
  simp only [readReg, hn.1, hn.2, hx.1, lowHalf_of_single hx]

theorem writeReg_single (hn : Names fn off a) (hx : IsSingle s a) : writeReg fn off v s = write32 fn a v s := by
  simp only [writeReg, hn.1, hn.2, hx.1, lowHalf_of_single hx]

end Access

/-! The commit of a high word (R12) -/

/-- A write-only register at `low` keeps the low word `w` of its commit. -/
def keepLow (low : Nat) (w : W32) (s : State) : State :=
  if isWo low then { s with woLow := SMap.set 0 s.woLow low w } else s

theorem commitHigh_staged {fn low : Nat} {w : W32} (cur : Nat) (v : W32) (s : State) (h : s.staging.get none fn = some (low, w)) :
    commitHigh fn low cur v s =
      commit64 low (BitVec.ofNat 64 (v.toNat * 2 ^ 32 + w.toNat))
        (keepLow low w { s with staging := SMap.set none s.staging fn none }) := by
  simp only [commitHigh, h, if_true, Option.getD_some, Option.isSome_some, BitVec.ofNat_toNat, BitVec.setWidth_eq, keepLow]

theorem commitHigh_live {fn low : Nat} (cur : Nat) (v : W32) (s : State) (h : ∀ w, s.staging.get none fn ≠ some (low, w)) :
    let w := if isWo low then s.woLow.get 0 low else BitVec.ofNat 32 (cur % 2 ^ 32)
    commitHigh fn low cur v s = commit64 low (BitVec.ofNat 64 (v.toNat * 2 ^ 32 + w.toNat)) (keepLow low w s) := by
  intro w
  have hw : (if isWo low then (s.woLow.get 0 low).toNat else cur % 2 ^ 32) = w.toNat := by
    rw [apply_ite BitVec.toNat, BitVec.toNat_ofNat, Nat.mod_mod]
  rcases hs : s.staging.get none fn with _ | ⟨b, u⟩
  · simp only [commitHigh, hs, Option.getD_none, hw, Option.isSome_none, Bool.false_eq_true, if_false, BitVec.ofNat_toNat,
      BitVec.setWidth_eq, keepLow]
  · simp only [commitHigh, hs, if_neg (tag_ne h hs), Option.getD_none, hw, Option.isSome_none, Bool.false_eq_true, if_false,
      BitVec.ofNat_toNat, BitVec.setWidth_eq, keepLow]

/-! The commands of the registers, and the registers that the statement names -/

theorem exec_registerRead {s : State} {c : Nat} (h : s.hostReady = true) (hc : c < 32) (off : Nat) :
    exec (.reg64ShadowRead c off) s = .next (readReg c off s) := by
  simp only [exec, execReg64ShadowRead, fromHost_ready h, forClient_lt hc]

theorem exec_registerWrite {s : State} {c : Nat} (h : s.hostReady = true) (hc : c < 32) (off : Nat) (v : W32) :
    exec (.registerWrite c off v) s = .next (writeReg c off v s) := by
  simp only [exec, execRegisterWrite, fromHost_ready h, forClient_lt hc]

/-- The data word of entry `k` of a function's MSI-X table (R388). -/
theorem bar4Read_data (s : State) {c k : Nat} (h : k < msixSize c) : s.bar4Read c (16 * k + 8) = (s.msixEnt c k).data.toNat := by
  have hd : (16 * k + 8) / 16 = k := by omega
  have hm : (16 * k + 8) % 16 = 8 := by omega
  simp only [State.bar4Read, hd, hm, if_pos h]

/-- Its vector-control word. -/
theorem bar4Read_mask (s : State) {c k : Nat} (h : k < msixSize c) : s.bar4Read c (16 * k + 12) = b2n (s.msixEnt c k).mask := by
  have hd : (16 * k + 12) / 16 = k := by omega
  have hm : (16 * k + 12) % 16 = 12 := by omega
  simp only [State.bar4Read, hd, hm, if_pos h]

/-- STILE_AFFINITY stands beside no 64-bit register. -/
theorem affinity_single (s : State) : IsSingle s 0x14 := ⟨rfl, .inr rfl⟩

theorem limit_single (s : State) : IsSingle s 0xA00008 := ⟨rfl, .inr rfl⟩

theorem flags_single (s : State) {i : Nat} (hi : i < 408) : IsSingle s (0x1000000 + 0x8000 * i + 0x0C) :=
  ⟨reg64_sett s hi (by decide), .inr (reg64_sett (o := 0x08) s hi (by decide))⟩

theorem clampNat_eq_max_min {lo hi : Nat} (h : lo ≤ hi) (x : Nat) : clampNat lo hi x = max lo (min hi x) := by
  unfold clampNat
  split
  · omega
  · split <;> omega

/-- Settles O60: the access goes by what its offset names, which is nothing, the low or the high word of a 64-bit register, a
32-bit register, or a word of BAR4. One shadow and one staging register for each function are the model's choice (log entry 139),
as are the zeros at an offset that is no multiple of 4 (log entry 120). -/
theorem registers : Obligations.Registers := by
  intro s c off v hs hc
  simp only [exec_registerRead hs hc, exec_registerWrite hs hc, Host.Outcome.next.injEq]
  refine ⟨fun hlt hno => ?absent, fun a hlt h4 ha => ?_, fun o ho e => ?bar4, fun k hk => ⟨bar4Read_data s hk, bar4Read_mask s hk⟩,
    fun e0 e => ?affinity, fun e0 e => ?limit, fun i hi e0 e => ?flags⟩
  case absent =>
    have hm : (if off % 4 = 0 then mapOffset c off else none) = none := by
      rcases hno with h | h
      · exact if_neg h
      · rw [h, ite_self]
    exact ⟨readReg_absent s (bar4Off_below hlt) hm, writeReg_absent s v (bar4Off_below hlt) hm⟩
  case bar4 =>
    subst e
    exact ⟨readReg_bar4 s (bar4Off_above ho), writeReg_bar4 s v (bar4Off_above ho)⟩
  case affinity =>
    subst e0 e
    have hn : Names 0 0x14 0x14 := names_pf (by decide) rfl
    exact ⟨writeReg_single s v hn (affinity_single s), readReg_single s hn (affinity_single s)⟩
  case limit =>
    subst e0 e
    have hn : Names 0 0xA00008 0xA00008 := names_pf (by decide) rfl
    refine ⟨(writeReg_single s v hn (limit_single s)).trans ?_, readReg_single s hn (limit_single s)⟩
    rw [← clampNat_eq_max_min (by decide)]
    rfl
  case flags =>
    subst e0 e
    exact (writeReg_single s v (names_pf (by omega) (by omega)) (flags_single s hi)).trans (write32_sett s 0 v hi (by decide))
  have hn : Names c off a := names_of_mapOffset hlt h4 ha
  refine ⟨fun x hx => ⟨readReg_low s hn hx, writeReg_low s v hn hx⟩, fun x hl h4a hx => ?_,
    fun hl ha => ⟨readReg_single s hn ⟨hl, ha⟩, writeReg_single s v hn ⟨hl, ha⟩⟩⟩
  have hh : IsHigh s a x := ⟨hl, h4a, hx⟩
  exact ⟨fun w => readReg_high_captured s hn hh, readReg_high_live s hn hh,
    fun w hw => (writeReg_high s v hn hh).trans (commitHigh_staged x v s hw),
    fun hw => (writeReg_high s v hn hh).trans (commitHigh_live x v s hw)⟩

end Sys2Proof.Proofs
end

section
/-! PROOFS. The registers of fault rings, completion rings, queues and invalidations (R369, R373, R395, R405, R406). -/

namespace Sys2Proof.Proofs

open Sys2Proof Sys2Proof.Machine Sys2Proof.Laws

/-- What an invalidation leaves of a TLB. -/
def spared (c va n : Nat) (l : List TlbEntry) : List TlbEntry := l.filter fun e =>
  e.client != c || decide (e.va + 2 ^ e.log2 ≤ va) || decide (va + 2 ^ n ≤ e.va)

theorem flushTlbs_tlb (c va n : Nat) (s : State) (g : Engine) : (flushTlbs c va n s).tlb g =
    SMap.get [] (s.xlat.tlbs.foldl (fun t e => SMap.set [] t e.1 (spared c va n e.2)) []) g.key := rfl

/-- An invalidation leaves a TLB only entries that it held, of another client or clear of the range (R369). -/
theorem tlb_flushTlbs {s : State} (h : SMap.wf [] s.xlat.tlbs = true) {c va n : Nat} {g : Engine} {e : TlbEntry}
    (he : e ∈ (flushTlbs c va n s).tlb g) :
    e ∈ s.tlb g ∧ (e.client ≠ c ∨ e.va + 2 ^ e.log2 ≤ va ∨ va + 2 ^ n ≤ e.va) := by
  rw [flushTlbs_tlb] at he
  rcases get_foldl_set (d := []) (t := []) (spared c va n) s.xlat.tlbs rfl g.key with hn | ⟨l, hl, hk⟩
  · rw [hn] at he
    cases he
  · rw [hk] at he
    obtain ⟨hel, hp⟩ := List.mem_filter.1 he
    simp only [Bool.or_eq_true, bne_iff_ne, decide_eq_true_eq, or_assoc] at hp
    rw [← get_of_mem h hl] at hel
    exact ⟨hel, hp⟩

/-- A signal is a message where the function's entry is open, and pending where it is not (R386, R388). -/
theorem signal_eq {fn v : Nat} (h : v < msixSize fn) (s : State) : signal fn v s =
    if s.msixOpen fn v then s.emit (.msix fn v)
    else { s with conn := { s.conn with pba := SMap.set false s.conn.pba (256 * fn + v) true } } := if_neg (by omega)

@[simp] theorem signal_mortar (fn v : Nat) (s : State) : (signal fn v s).mortar = s.mortar := by
  unfold signal
  split
  · rfl
  · split <;> rfl

@[simp] theorem holdoffOver_mortar (c : Nat) (s : State) : (holdoffOver c s).mortar = s.mortar := by
  unfold holdoffOver signalCq
  split
  · dsimp only
    split
    · rfl
    · rw [signal_mortar, setCl_mortar]
  · rfl

@[simp] theorem invalDone_mortar (s : State) : (invalDone s).mortar = s.mortar := by
  unfold invalDone
  split <;> rfl

/-- HOLDOFF's end by the cases of the statement: nothing, the state without the deferred signal, or the signal (R406). -/
theorem holdoffOver_eq (c : Nat) (s : State) :
    let k := s.cl c
    let e := field k.cqCtrl.toNat 26 16
    let s1 := s.setCl c fun k => { k with deferred := false, holdoffEnd := s.now + k.holdoff }
    holdoffOver c s =
      if k.deferred = false ∨ s.now < k.holdoffEnd ∨ msixSize c ≤ e then
        if k.deferred = true ∧ k.holdoffEnd ≤ s.now then s1 else s
      else if s.msixOpen c e then s1.emit (.msix c e)
      else { s1 with conn := { s1.conn with pba := SMap.set false s1.conn.pba (256 * c + e) true } } := by
  intro k e s1
  by_cases hdue : k.deferred = true ∧ k.holdoffEnd ≤ s.now
  · have hsig : holdoffOver c s = signal c e s1 := by
      rw [holdoffOver, if_pos hdue, signalCq, if_neg (Nat.not_lt.2 hdue.2)]
    by_cases hv : msixSize c ≤ e
    · rw [hsig, if_pos (.inr (.inr hv)), if_pos hdue, signal, if_pos hv]
    · rw [hsig, if_neg (by simp [hdue, hv]), signal_eq (Nat.lt_of_not_le hv)]
      rfl
  · have hoff : k.deferred = false ∨ s.now < k.holdoffEnd ∨ msixSize c ≤ e := by
      by_cases hd : k.deferred = true
      · exact .inr (.inl (Nat.lt_of_not_le fun h => hdue ⟨hd, h⟩))
      · exact .inl (eq_false_of_ne_true hd)
    rw [if_pos hoff, if_neg hdue, holdoffOver, if_neg hdue]

/-- A control word enables or disables the queue; enabling it clears its error and has the next poll take the place (R395). -/
theorem writeQueueCtrl_eq (c n : Nat) (v : W32) (s : State) : writeQueueCtrl c n v s = s.setQ c n fun q =>
    { q with ctrl := v &&& 0x80001F1F, err := if bit v.toNat 31 then false else q.err
             resync := if bit v.toNat 31 then true else q.resync } := by
  unfold writeQueueCtrl
  by_cases h : bit v.toNat 31 <;> simp [h]

/-- The invalidation goes among the sixteen in progress, or waits (R369). -/
theorem invalidate_eq (w : W64) (v : W32) (s : State) :
    let n := clampNat 16 48 (field v.toNat 13 8)
    let lo := field w.toNat 47 16 * 65536 / 2 ^ n * 2 ^ n
    let i : Inval := ⟨field v.toNat 4 0, lo, n, BitVec.ofNat 16 (field v.toNat 31 16)⟩
    invalidate w v s = flushTlbs i.client lo n (dropResident
      (fun e => e.client == i.client && decide (e.va < lo + 2 ^ n) && decide (lo < e.va + e.objBytes))
      { s with xlat := { s.xlat with
          invVa := w &&& 0xFFFFFFFF0000
          invals := if s.xlat.invals.length < 16 then s.xlat.invals ++ [i] else s.xlat.invals
          invBlocked := if s.xlat.invals.length < 16 then s.xlat.invBlocked else s.xlat.invBlocked ++ [i] } }) := by
  intro n lo i
  unfold invalidate
  by_cases h : s.xlat.invals.length < 16
  · simp only [h, if_true]
    rfl
  · simp only [h, if_false]
    rfl

/-- Settles O35: each write is the operation that its row names, and a powered block with nothing to end settles at once.
That the TLBs drop their entries with the write of INVALIDATE is the model's choice (log entry 87). -/
theorem queueAndFaultRegisters : Obligations.QueueAndFaultRegisters := by
  refine ⟨fun s c v w hs hd hc => ?faults, fun s c n v w hs hd hc hn => ?queues⟩
  case faults =>
    have hp := powered_of_hostReady hs
    have hdone : exec .invalidationDone s = .next (invalDone s) :=
      congrArg _ (live_powered hp _ ((congrArg _ (invalDone_mortar s)).trans hd))
    refine ⟨?_, ?_, ?_, ?_, fun g e hw he => tlb_flushTlbs hw he, fun j rest hj => ?_, fun hj => ?_⟩
    · simp only [exec, execXlatFqTailWrite, fromHost_ready hs, forClient_lt hc]; rfl
    · simp only [exec, execXlatFqBaseWrite, fromHost_ready hs, forClient_lt hc]; rfl
    · simp only [exec, execXlatFqCtrlWrite, fromHost_ready hs, forClient_lt hc]; rfl
    · simp only [exec, execInvalidate, fromHost_ready hs, invalidate_eq]; rfl
    · simp only [hdone, invalDone, hj]; rfl
    · simp only [hdone, invalDone, hj]
  case queues =>
    refine ⟨?_, ?_, ?_, ?_, ?_⟩
    · have hq : forQueue c n (writeQueueCtrl c n v) s = writeQueueCtrl c n v s := forQueue_ready hc hn hs _ hd
      simp only [exec, execQueueEnable, fromHost_ready hs, hq, writeQueueCtrl_eq]
    · simp only [exec, execStileCqTailWrite, fromHost_ready hs, forClient_lt hc]; rfl
    · simp only [exec, execStileCqCtrlWrite, fromHost_ready hs, forClient_lt hc]; rfl
    · simp only [exec, execStileCqBaseWrite, fromHost_ready hs, forClient_lt hc]; rfl
    · have hl : live (forClient c (holdoffOver c)) s = holdoffOver c s := by
        rw [live_powered (powered_of_hostReady hs), forClient_lt hc]
        rw [forClient_lt hc, holdoffOver_mortar, hd]
      simp only [exec, execHoldoffExpiry, hl]
      exact congrArg _ (holdoffOver_eq c s)

end Sys2Proof.Proofs
end

section
/-! PROOFS. The answers to a sett's fault, and what a resumed instruction leaves in its unit's queue (R375, R381). -/

namespace Sys2Proof.Proofs

open Sys2Proof Sys2Proof.Machine Sys2Proof.Laws

/-! The unit queues of a sett, where they hold an instruction -/

/-- Sett `i` has the instructions `q` in its unit queues, one at least: it does not stand as at reset, so what is stored
in it is read. -/
def Holds (i : Nat) (q : List QEntry) (s : State) : Prop := (s.sett i).queue = q ∧ q ≠ []

theorem ne_reset_of_queue {t : Sett} (h : t.queue ≠ []) : t ≠ Sett.reset := fun e => h (e ▸ rfl)

section Queues

variable {i : Nat} {q : List QEntry} {s : State}

/-- A sett that keeps its queues through `f` holds what `f` makes of it. -/
theorem Holds.sett_setSett {f : Sett → Sett} (h : Holds i q s)
    (hf : (f (s.sett i)).queue = (s.sett i).queue) : (s.setSett i f).sett i = f (s.sett i) :=
  sett_setSett_self s i f (ne_reset_of_queue (by rw [hf, h.1]; exact h.2))

theorem Holds.setSett {f : Sett → Sett} (h : Holds i q s)
    (hf : (f (s.sett i)).queue = (s.sett i).queue) : Holds i q (s.setSett i f) :=
  ⟨by rw [h.sett_setSett hf, hf, h.1], h.2⟩

theorem Holds.beyondMem {t : State} (h : Holds i q s) (e : beyondMem t = beyondMem s) : Holds i q t := by
  have hs : t.sett i = s.sett i := congrArg (fun m => SMap.get Sett.reset m i) (setts_of_beyondMem e)
  exact ⟨hs ▸ h.1, h.2⟩

/-! Writes of a unit to scratch and memory -/

theorem Holds.onceMore (h : Holds i q s) {f : State → Acc}
    (hf : Holds i q (Acc.st (f s))) : Holds i q (Acc.st (onceMore i f s)) := by
  unfold Machine.onceMore
  split
  · exact hf
  · exact h.setSett rfl
  · split
    · next e => rw [e] at hf; exact Holds.setSett hf rfl
    · exact hf

theorem Holds.writeMem (h : Holds i q s) (va : Nat) (bs : List Byte) :
    Holds i q (Res.st (writeMem i va bs s)) := by
  refine bind_st (mapM_st (fun g s h => ?_) _ h) fun _ _ h => h
  rw [toRes_keeps]
  exact h.onceMore (h.beyondMem (beyondMem_writeGranule ..))

theorem Holds.checkWords (h : Holds i q s) (ws : List Nat) :
    Holds i q (Res.st (checkWords i ws s)) := by
  unfold Machine.checkWords
  dsimp only
  split
  · exact h
  · unfold Res.st
    dsimp only
    split
    · exact h
    · exact h.setSett rfl

theorem Holds.writeScratch (h : Holds i q s) (a : Nat) (bs : List Byte) :
    Holds i q (Res.st (writeScratch i a bs s)) :=
  bind_st (h.checkWords _) fun _ _ h => h.setSett rfl

theorem Holds.writeBytes (h : Holds i q s) (t : Tens) (a : Nat) (bs : List Byte) :
    Holds i q (Res.st (t.writeBytes i a bs s)) := by
  unfold Tens.writeBytes
  split
  · exact h.writeMem a bs
  · dsimp only
    split
    · exact h.writeScratch ..
    · exact h

theorem Holds.freeRange (h : Holds i q s) (t : Tens) (r : Nat × Nat) :
    Holds i q (freeRange i t r s) := by
  refine foldl_st (fun s g h => ?_) _ h
  split
  · next e =>
    have hw := Holds.writeBytes (s := { s with fresh := s.fresh + g.2 }) h t g.1 ((iota s.fresh g.2).map Config.freeByte)
    rw [e] at hw
    exact hw
  · exact h
  · exact h

/-- Free values in overlapping destinations (R94) leave the queues of the sett. -/
theorem Holds.clobber (h : Holds i q s) (ds : List (Tens × List Tens)) :
    Holds i q (clobber i ds s) := by
  refine foldl_st (fun s d h => ?_) _ h
  split
  · exact foldl_st (fun s r h => h.freeRange d.1 r) _ h
  · exact h

end Queues

/-! The one instruction that a sett holds, tried again -/

/-- What a destination is does not turn on the sett's queues. -/
theorem destsOf_queue (t : Sett) (q : List QEntry) (ins : Instr) : destsOf { t with queue := q } ins = destsOf t ins := rfl

theorem before_alone (t : Sett) (e : QEntry) (h : t.queue = [e]) : t.before e.seq = [] := by
  simp [Sett.before, h]

/-- Nothing holds up the one instruction that is in the units. -/
theorem holdOf_alone {t : Sett} {e : QEntry} (u : Use) (h : t.queue = [e]) : holdOf t e u = none := by
  simp only [holdOf, before_alone t e h, hazard_nil, List.any_nil, Bool.or_false, Bool.and_false, Bool.false_eq_true, if_false, ite_self]

/-- The one instruction in the units, executed to its end. -/
def finished (e : QEntry) (aux : List Nat) : QEntry := { e with st := .done, prog := 0, aux := aux, kept := [] }

theorem setEntryOf_alone {t : Sett} {e : QEntry} (h : t.queue = [e]) (f : QEntry → QEntry) :
    t.setEntryOf e.seq f = { t with queue := [f e] } := by
  simp [Sett.setEntryOf, h]

theorem setSett_congr {s : State} {i : Nat} {f g : Sett → Sett} (h : f (s.sett i) = g (s.sett i)) : s.setSett i f = s.setSett i g := by
  rw [setSett_const, h, ← setSett_const]

theorem trace_none_of_isNone {t : Sett} (h : t.trace.isNone = true) : { t with trace := none } = t := by
  rw [← Option.isNone_iff_eq_none.1 h]

/-- The mark that an execution to its end leaves on the one instruction in the units. -/
theorem endTrace_setEntryOf {i : Nat} {e : QEntry} {s : State} (h : Holds i [e] s) (aux : List Nat) :
    (endTrace i s).setSett i (fun t => t.setEntryOf e.seq fun e => finished e aux) =
      s.setSett i fun t => { t with trace := none, queue := [finished e aux] } := by
  unfold endTrace
  split
  · next hn =>
    refine setSett_congr ?_
    rw [setEntryOf_alone h.1, ← trace_none_of_isNone hn]
  · rw [setSett_setSett s i _ _ (ne_reset_of_queue (by rw [h.1]; exact h.2))]
    exact setSett_congr (setEntryOf_alone (t := { s.sett i with trace := none }) h.1 _)

/-- The state that the execution of the one instruction in the units of sett `i` leaves, its effect having left `s2`. -/
def afterAlone (i : Nat) (e : QEntry) (aux : List Nat) (ds : List (Tens × List Tens)) (s2 : State) : State :=
  (clobber i ds s2).setSett i fun t => { t with trace := none, queue := [finished e aux] }

/-- An execution that ends of the one instruction in the units. -/
theorem runEntry_alone {fin : Ender} {i : Nat} {e : QEntry} {u : Use} {s s2 : State} (hq : (s.sett i).queue = [e])
    (hu : useOf e.instr = some u) (hl : u.lanes = true ∨ (s.sett i).lane0 u.h.pred = true) (hp : isPost e.instr = false)
    (hd : unitEffect i e.seq e.prog (if e.aux.isEmpty then boundAux s i e.instr else e.aux) e.instr (withTrace i e s) = .done s2)
    (hk : (s2.sett i).queue = [e]) :
    runEntry fin i e.seq s =
      afterAlone i e (if e.aux.isEmpty then boundAux s i e.instr else e.aux) (destsOf (s.sett i) e.instr) s2 := by
  have hlane : (!u.lanes && !(s.sett i).lane0 u.h.pred) = false := by
    rcases hl with h | h <;> rw [h] <;> simp
  have hf : (s.sett i).queue.find? (fun x => x.seq == e.seq) = some e := by simp [hq]
  have hc : Holds i [e] (clobber i (destsOf (s.sett i) e.instr) s2) := Holds.clobber ⟨hk, by simp⟩ _
  simp only [runEntry, hf, hu, holdOf_alone u hq, hlane, hd, hp, Bool.false_eq_true, if_false]
  exact endTrace_setEntryOf hc _

/-- Once it stands executed, the units have nothing left to try. -/
theorem advance_finished {i : Nat} {e : QEntry} {aux : List Nat} {s : State} (hq : (s.sett i).queue = [finished e aux]) :
    advance i s = s := by
  have hf : entryFree (finished e aux) = false := rfl
  simp [advance, advanceBy, hq, tryEntry, hf]

theorem afterAlone_queue (i : Nat) (e : QEntry) (aux : List Nat) (ds : List (Tens × List Tens)) (s2 : State) :
    ((afterAlone i e aux ds s2).sett i).queue = [finished e aux] := by
  rw [afterAlone, sett_setSett_self _ _ _ (ne_reset_of_queue (List.cons_ne_nil _ _))]

/-- RESUME of the one instruction in the units that waits on fault `id`, where it then runs to its end (R375). -/
theorem resumeSett_alone {i id : Nat} {e : QEntry} {u : Use} {s s2 : State} (hq : (s.sett i).queue = [e])
    (hst : e.st = .paused id) (hu : useOf e.instr = some u) (hl : u.lanes = true ∨ (s.sett i).lane0 u.h.pred = true)
    (hp : isPost e.instr = false) :
    let e1 := { e with st := .queued }
    let s1 := s.setSett i fun t => { t with queue := [e1] }
    let aux := if e.aux.isEmpty then boundAux s1 i e.instr else e.aux
    unitEffect i e.seq e.prog aux e.instr (withTrace i e1 s1) = .done s2 → (s2.sett i).queue = [e1] →
    resumeSett i id s = afterAlone i e aux (destsOf (s.sett i) e.instr) s2 := by
  intro e1 s1 aux hd hk
  have hs1 : s1.sett i = { s.sett i with queue := [e1] } := sett_setSett_self s i _ (ne_reset_of_queue (List.cons_ne_nil _ _))
  have hq1 : (s1.sett i).queue = [e1] := by rw [hs1]
  have hgo : s.setSett i (fun t => { t with queue := t.queue.map fun e => if e.st = .paused id then { e with st := .queued } else e })
      = s1 := setSett_congr (by simp [hq, hst, e1])
  have hrun : runEntry failRun i e1.seq s1 = afterAlone i e1 aux (destsOf (s1.sett i) e.instr) s2 :=
    runEntry_alone hq1 hu (by rw [hs1]; exact hl) hp hd hk
  have htry : tryEntry failRun i (fun e => e.st == .queued) s1 e1.seq = runEntry failRun i e1.seq s1 := by
    simp [tryEntry, hq1, e1, Sett.ahead, before_alone (s1.sett i) e1 hq1]
  rw [resumeSett, hgo, retry, hq1]
  simp only [List.map, List.foldl, htry, hrun]
  rw [advance_finished (afterAlone_queue ..), hs1, destsOf_queue]
  rfl

/-! RESUME and FAIL (R375, R381) -/

theorem exec_resume {s : State} {c : Nat} (hs : s.hostReady = true) (hc : c < 32) (id : BitVec 48) :
    exec (.resume c id) s = .next (answerResume c id (writeResp c id s)) := by
  simp only [exec, execResume, fromHost_ready hs, forClient_lt hc]

theorem exec_fail {s : State} {c : Nat} (hs : s.hostReady = true) (hc : c < 32) (id : BitVec 48) :
    exec (.fail c id) s = .next (answerFail c id (writeResp c id s)) := by
  simp only [exec, execFail, fromHost_ready hs, forClient_lt hc]

/-- The write of the answer leaves the faults. -/
theorem answeredFault_writeResp (s : State) (c : Nat) (id : BitVec 48) :
    answeredFault (writeResp c id s) c id = answeredFault s c id := rfl

theorem faultRun_writeResp (s : State) (c : Nat) (id : BitVec 48) (f : FaultRec) :
    faultRun (writeResp c id s) c f = faultRun s c f := rfl

theorem answers_none {s : State} {c : Nat} {id : BitVec 48} (h : answeredFault s c id = none) :
    answerResume c id s = s ∧ answerFail c id s = s := by
  simp only [answerResume, answerFail, h, and_self]

/-- FAIL of a sett's fault. -/
theorem answerFail_sett {s : State} {c i : Nat} {id : BitVec 48} {f : FaultRec} {u : UnitId} (h : answeredFault s c id = some f)
    (hr : faultRun s c f = none) (ho : f.owner = .sett i u) : answerFail c id s = failRun i 0x0310 s := by
  simp only [answerFail, h, hr, ho]

/-- RESUME of a sett's fault (R375, R529). -/
theorem answerResume_sett {s : State} {c i : Nat} {id : BitVec 48} {f : FaultRec} {u : UnitId} (h : answeredFault s c id = some f)
    (hr : faultRun s c f = none) (ho : f.owner = .sett i u) :
    answerResume c id s = if s.stile.array = .saving ∨ s.arrayRuns = false then
        s.setClient c fun x => { x with resumed := x.resumed ++ [f.id] }
      else goSett i f.id (dropFault c f.id s) := by
  simp only [answerResume, h, hr, ho, Option.isSome_none, Bool.false_eq_true, if_false, Bool.not_eq_true']

/-- A run of one sett ends at once where that sett ends it: no other has to stop (R71). -/
theorem failRun_lone {s : State} {r : Run} {l i : Nat} (hc : s.stile.cur = some r) (hm : s.settMode i = 0) (hp : r.placement = [(l, i)])
    (status : Nat) : failRun i status s = endRun s status := by
  have hstop : stopOthers i s = s := by simp [stopOthers, runSetts, hc, hp]
  simp [failRun, hc, hm, hstop]

/-- Settles O36: the answer is the sett's own, and what the resumed instruction leaves is that of the one instruction in
its units. Recording the answer while the array saves or its clock stands is the model's choice (log entry 86). -/
theorem faultAnswers : Obligations.FaultAnswers := by
  intro s c id hs hc w
  rw [exec_resume hs hc, exec_fail hs hc]
  refine ⟨fun h => ?none, fun f i u h hr ho => ?_⟩
  case none =>
    have hn := answers_none ((answeredFault_writeResp s c id).trans h)
    exact ⟨congrArg _ hn.1, congrArg _ hn.2⟩
  have hw := (answeredFault_writeResp s c id).trans h
  have hrw := (faultRun_writeResp s c id f).trans hr
  have hfail : answerFail c id w = failRun i 0x0310 w := answerFail_sett hw hrw ho
  have hres := answerResume_sett hw hrw ho
  refine ⟨congrArg _ hfail, fun r l hcur hm hp => ?lone, fun hheld => ?held, fun e x hsave hrun _ hstage hq hst hu hx hl hp => ?_⟩
  case lone => exact congrArg _ (hfail.trans (failRun_lone (s := w) hcur hm hp _))
  case held => exact congrArg _ (hres.trans (if_pos hheld))
  intro s1 aux s2 hd hk
  have hgo : answerResume c id w = resumeSett i f.id (dropFault c f.id w) := by
    have hgate : ¬ (w.stile.array = .saving ∨ w.arrayRuns = false) :=
      fun hheld => hheld.elim hsave fun hoff => Bool.noConfusion (hrun.symm.trans hoff)
    rw [hres, if_neg hgate]
    exact if_neg hstage
  rw [hgo]
  exact congrArg _ (resumeSett_alone hq hst hu hl hp hd hk)

end Sys2Proof.Proofs
end

section
/-! PROOFS. A ledger that terms enter, in any order and over any instructions (R140–R142, R145). -/

namespace Sys2Proof.Proofs

open Sys2Proof Sys2Proof.Machine Sys2Proof.Laws

/-- Two partial sums of one ledger taken together: N and the counts add, a marker or INVALID of either stands. -/
def joinAcc (a b : LedAcc) : LedAcc :=
  ⟨a.n + b.n, a.nan || b.nan, a.pinf || b.pinf, a.ninf || b.ninf, a.sheds + b.sheds, a.sats + b.sats, a.invalid || b.invalid⟩

theorem joinAcc_assoc (a b c : LedAcc) : joinAcc (joinAcc a b) c = joinAcc a (joinAcc b c) := by
  simp only [joinAcc, Bool.or_assoc, Nat.add_assoc, Int.add_assoc]

theorem joinAcc_comm (a b : LedAcc) : joinAcc a b = joinAcc b a := by
  simp only [joinAcc, Bool.or_comm, Nat.add_comm, Int.add_comm]

@[simp] theorem joinAcc_zero (a : LedAcc) : joinAcc a LedAcc.zero = a := by simp [joinAcc, LedAcc.zero]

theorem joinAcc_right_comm (a b c : LedAcc) : joinAcc (joinAcc a b) c = joinAcc (joinAcc a c) b := by
  rw [joinAcc_assoc, joinAcc_comm b c, ← joinAcc_assoc]

/-- A term acts on its own: what it adds and raises does not depend on the ledger that it meets (R140–R142). -/
theorem add_eq_joinAcc (A : Int) (a : LedAcc) (v : Val) : a.add A v = joinAcc a (LedAcc.zero.add A v) := by
  cases v with
  | nan => simp [LedAcc.add, joinAcc, LedAcc.zero]
  | inf neg => cases neg <;> simp [LedAcc.add, joinAcc, LedAcc.zero]
  | fin q =>
    simp only [LedAcc.add]
    split
    · simp [joinAcc, LedAcc.zero]
    · split <;> simp [joinAcc, LedAcc.zero]

theorem add_right_comm (A : Int) (a : LedAcc) (v w : Val) : (a.add A v).add A w = (a.add A w).add A v := by
  rw [add_eq_joinAcc A (a.add A v) w, add_eq_joinAcc A a v, joinAcc_right_comm, ← add_eq_joinAcc A a w, ← add_eq_joinAcc A _ v]

/-- Terms that enter a ledger add to it what they sum to from nothing. -/
theorem foldl_add_eq_joinAcc (A : Int) (ts : List Val) (a : LedAcc) :
    ts.foldl (LedAcc.add A) a = joinAcc a (ts.foldl (LedAcc.add A) LedAcc.zero) := by
  induction ts generalizing a with
  | nil => exact (joinAcc_zero a).symm
  | cons v ts ih =>
    rw [List.foldl_cons, List.foldl_cons, ih, ih (LedAcc.zero.add A v), add_eq_joinAcc A a v, joinAcc_assoc]

@[simp] theorem toLedger_ofLedger (l : Ledger) : (LedAcc.ofLedger l).toLedger = l := by
  simp only [LedAcc.ofLedger, LedAcc.toLedger, BitVec.ofInt_toInt]

/-- What the bank keeps of a sum depends only on what it keeps of the parts: N modulo 2^136 and the markers (R142). -/
theorem toLedger_joinAcc_congr {a b : LedAcc} (h : a.toLedger = b.toLedger) (c : LedAcc) :
    (joinAcc a c).toLedger = (joinAcc b c).toLedger := by
  simp only [LedAcc.toLedger, Ledger.mk.injEq] at h
  obtain ⟨hn, hnan, hpinf, hninf⟩ := h
  simp only [joinAcc, LedAcc.toLedger, BitVec.ofInt_add, hn, hnan, hpinf, hninf]

/-- Settles O12: each term joins the ledger on its own, and joining is commutative and associative (R145). Between two
instructions the bank keeps N modulo 2^136 and the markers, and each instruction counts its own events from nothing. -/
theorem termOrder : Obligations.TermOrder := by
  intro A l x y enter
  refine ⟨fun hp => hp.foldl_eq' (fun v _ w _ a => add_right_comm A a v w) _, ?_⟩
  intro a b c
  have hb : b = joinAcc (LedAcc.ofLedger a.toLedger) (y.foldl (LedAcc.add A) LedAcc.zero) := foldl_add_eq_joinAcc A y _
  have hc : c = joinAcc a (y.foldl (LedAcc.add A) LedAcc.zero) :=
    List.foldl_append.trans (foldl_add_eq_joinAcc A y a)
  rw [hb, hc]
  refine ⟨toLedger_joinAcc_congr (toLedger_ofLedger _) _, ?_, ?_, ?_⟩ <;> simp [joinAcc, LedAcc.ofLedger]

end Sys2Proof.Proofs
end

section
/-! PROOFS. Narrowing of a block of finite values, and the rounding of T2 (R135, R136). -/

namespace Sys2Proof.Proofs

open Sys2Proof Sys2Proof.Machine Sys2Proof.Laws

/-! The model's powers of two and magnitudes -/

theorem pow2_pos (e : Int) : 0 < pow2 e := by
  have natCast_two_pow_pos (n : Nat) : (0 : Rat) < ((2 ^ n : Nat) : Rat) := Rat.natCast_pos.2 (Nat.two_pow_pos n)
  unfold pow2
  split
  · exact natCast_two_pow_pos _
  · rw [Rat.mkRat_eq_div, Rat.div_def]
    exact Rat.mul_pos (by decide) (Rat.inv_pos.2 (natCast_two_pow_pos _))

theorem mul_pow2_neg_iff (q : Rat) (e : Int) : q * pow2 e < 0 ↔ q < 0 := Rat.mul_neg_iff_of_pos_right (pow2_pos e)

theorem ratAbs_mul_pow2 (q : Rat) (e : Int) : ratAbs (q * pow2 e) = ratAbs q * pow2 e := by
  simp only [ratAbs, mul_pow2_neg_iff]
  split
  · exact (Rat.neg_mul q (pow2 e)).symm
  · rfl

theorem neg_le_clampInt {b x : Int} (h : 0 ≤ b) : -b ≤ clampInt (-b) b x := by
  unfold clampInt
  split
  · omega
  · split <;> omega

/-- The valid elements of a block. -/
theorem mem_present {v : Val} {vs : List (Option Val)} : v ∈ vs.filterMap id ↔ some v ∈ vs := by
  simp only [List.mem_filterMap, id_eq, exists_eq_right]

/-- The scale byte of a block of finite values that are not all zero stands for an `x`, and each element is the code of
its value over 2^x (R135). -/
theorem narrowBlock_of_finite (f : Fmt) {vs : List (Option Val)} (hfin : ∀ v, some v ∈ vs → v.isFin = true)
    (hnz : ∃ v, some v ∈ vs ∧ v.isZero = false) :
    ∃ x : Int, ((f.narrowBlock vs).scale : Int) = x + 127 ∧
      ∀ (i : Nat) (v : Val), vs[i]? = some (some v) →
        (f.narrowBlock vs).codes[i]? = some (f.narrowCode (v.finOr0 * pow2 (-x))) := by
  have hnan : ¬ (vs.filterMap id).any (fun v => !v.isFin) = true := fun h => by
    obtain ⟨v, hv, hbad⟩ := List.any_eq_true.1 h
    rw [hfin v (mem_present.1 hv)] at hbad
    exact Bool.noConfusion hbad
  have hzero : ¬ (vs.filterMap id).all (fun v => v.isZero) = true := fun h => by
    obtain ⟨v, hv, hz⟩ := hnz
    have hz' := List.all_eq_true.1 h v (mem_present.2 hv)
    exact Bool.noConfusion (hz.symm.trans hz')
  rw [Fmt.narrowBlock, if_neg hnan, if_neg hzero]
  refine ⟨clampInt (-127) 127 (f.blockExp ((vs.filterMap id).map Val.finOr0)), ?_, fun i v hv => ?_⟩
  · have hlow := neg_le_clampInt (b := 127) (x := f.blockExp ((vs.filterMap id).map Val.finOr0)) (by decide)
    exact Int.toNat_of_nonneg (by omega)
  · rw [List.getElem?_map, hv]
    rfl

theorem t2_narrowCode (w : Rat) : Fmt.t2.narrowCode w = if ratAbs w ≤ mkRat 1 2 then 0 else if w < 0 then 3 else 1 := rfl

/-- T2's element of a scaled value at or below one half (R136). -/
theorem t2_element_low {w : Rat} (h : ratAbs w ≤ mkRat 1 2) : Fmt.t2.elemVal (Fmt.t2.narrowCode w) = .fin 0 := by
  rw [t2_narrowCode, if_pos h]
  rfl

/-- T2's element of a scaled value above one half (R136). -/
theorem t2_element_high {w : Rat} (h : mkRat 1 2 < ratAbs w) :
    Fmt.t2.elemVal (Fmt.t2.narrowCode w) = .fin (if w < 0 then -1 else 1) := by
  rw [t2_narrowCode, if_neg (Rat.not_le.2 h)]
  split <;> rfl

/-- Settles O13: the block's scale byte is x + 127, so the element is the code of v ÷ 2^x, whose sign is v's. -/
theorem ternaryRounding : Obligations.TernaryRounding := by
  intro vs hfin hnz n i v hv w
  obtain ⟨x, hscale, hcodes⟩ := narrowBlock_of_finite .t2 hfin hnz
  have hexp : 127 - (n.scale : Int) = -x := by
    rw [hscale]
    omega
  have hw : ratAbs (v * pow2 (-x)) = w := (ratAbs_mul_pow2 v (-x)).trans (congrArg (fun e => ratAbs v * pow2 e) hexp.symm)
  have hlow : w ≤ mkRat 1 2 → Fmt.t2.elemVal (Fmt.t2.narrowCode (v * pow2 (-x))) = .fin 0 :=
    fun h => t2_element_low (hw ▸ h)
  refine ⟨_, hcodes i _ hv, fun h => hlow (Rat.le_of_lt h), fun h => ?_, fun h => hlow (h ▸ Rat.le_refl)⟩
  have hhigh := t2_element_high (hw ▸ h)
  simp only [mul_pow2_neg_iff] at hhigh
  exact hhigh

end Sys2Proof.Proofs
end

section
/-! PROOFS. KV.LOAD of a head beyond its pool whose AD overlaps its AA otherwise than in place (R94, R213). -/

namespace Sys2Proof.Proofs

open Sys2Proof Sys2Proof.Machine Sys2Proof.Laws

namespace Overlap

/-- A1: two U32 words, scratch bytes 0 to 7. A2: sixteen U8 elements, scratch bytes 0 to 15. S1: the VA of the pool block. S2:
head 1. The scratch word at byte 8, which A2 covers, has a single-bit error. -/
def sett : Sett :=
  { Sett.reset with
    phase := .running
    carving := [⟨0, 512, 0, false⟩]
    a := [(1, BitVec.ofNat 256 (9 * 2 ^ 57 + 2 ^ 64 * 0x1000100010002 + 2 ^ 128 * 0x1000100010002)),
      (2, BitVec.ofNat 256 (10 * 2 ^ 57 + 2 ^ 64 * 0x1000100010010 + 2 ^ 128 * 0x1000100010010))]
    s := [(1, 0x10000), (2, 1)]
    softWords := [(1, true)] }

/-- One object of 2^30 bytes, from address 0 on. -/
def object : BitVec 512 := BitVec.ofNat 512 (2 ^ 64 * 2 ^ 30)

/-- The run of client 2 on sett 0. -/
def run : Run :=
  { client := 2, queue := 0, cls := 0, desc := 0, tag := 0, irq := false, manifestVa := 0, warnVa := 0
    manifest :=
      { version := 3, level := 3, rows := 1, cols := 1, bytes := 0, objects := [object], streams := [], setts := [], counters := []
        pools := [], cairn := [], groups := [], members := [], saveObject := 0, escBudget := 0, wdogBudget := 5 }
    seqNo := 1, admitted := true, placement := [(0, 0)], contexts := [], wait := 0, runt := 0, save := 0, preempts := 0
    faults := 0, warn := false, issued := true, start := 0, wdog := 0, saved := none }

/-- The page of the pool block, as the sett's TLB holds it. -/
def page : TlbEntry := ⟨2, 0x10000, 16, 0x10000, 0, true⟩

/-- A pool block of one page and one FP8a head of 64, up to its last byte that is not 0 (R202). -/
def block : List Byte :=
  leBytes 0 8 ++ leBytes 1 8 ++ leBytes 0x20000 8 ++ leBytes 1 4 ++ leBytes 0x12 4 ++ leBytes 0x30000 8 ++ leBytes 12288 4 ++ leBytes 1 4

/-- Sett 0 runs, and the Lintel line of the pool block at 0x10000 holds it good. -/
def state : State :=
  { State.reset with
    conn := { Conn.reset with pwrGood := true }
    xlat := { Xlat.reset with clients := [(2, { XlatClient.reset with root := 0x1001 })], tlbs := [(0, [page])] }
    setts := [(0, sett)]
    mem := { Mem.reset with dev := SMap.setMany 0 [] 0x10000 block, lines := [(256, ⟨0xFF, 0, 0, [], [], false⟩)] }
    stile := { Stile.reset with cur := some run, array := .running } }

def hdr : Hdr := ⟨false, 0, 0⟩

/-- AD is A2, AA is A1, SA is S1 and SB is S2. -/
def ops : LayT := ⟨2, 1, 1, 1, 2, 0, 0⟩

theorem issues : issuesNow state 0 hdr := by
  unfold issuesNow
  decide +kernel

/-- Every byte of the pool block is in the sett's TLB, for any kind of access. -/
theorem translates : ∀ j, j < 64 → findObject [object] (0x10000 + j) = some object ∧
    ∀ k ∈ [AccKind.read, .write, .atomic, .waitOp],
      tlbFind (settAg state 0) (some object) k (0x10000 + j) (state.tlb (.sett 0)) = some (page, .dev (0x10000 + j)) := by
  decide +kernel

/-- And stands good in its Lintel line. -/
theorem stands : ∀ j, j < 64 → ∀ b ∈ burstsOf (0x10000 + j) 1, cached state b := by
  unfold cached
  decide +kernel

theorem hits : hitsIn state 0 0x10000 0x10040 0 := by
  refine ⟨rfl, fun va hlo hhi => ?_⟩
  obtain ⟨j, rfl⟩ := Nat.exists_eq_add_of_le hlo
  have hj : j < 64 := by omega
  obtain ⟨hobj, htlb⟩ := translates j hj
  refine ⟨⟨rfl, object, hobj, by decide +kernel, by decide +kernel, by decide +kernel, by decide +kernel,
    fun k => ⟨page, htlb k ?_⟩⟩, stands j hj⟩
  cases k <;> decide

/-- The marks of single-bit errors that a command leaves in sett 0; none where it answers no state. -/
def marksAfter (o : Answer) : Option (SMap Bool) :=
  match o with
  | .next t => some (t.sett 0).softWords
  | _ => none

/-- Free values have been written to all of A2, so that its words have fresh check bits. -/
theorem marks_load : marksAfter (exec (.kvLoad 0 hdr ops) state) = some [] := by
  decide +kernel

/-- The marks that an instruction leaves, from what it is said to leave of the sett. -/
theorem marksAfter_of_completesIn {ins : Instr} {q : UnitId} {len : W64} {s : State} {t t' : Sett}
    (h : completesIn ins 0 q len s fun x => x.asBefore t = t') : marksAfter (exec ins s) = some t'.softWords := by
  obtain ⟨s2, -, hexec, -, -, -, -, -, -, hleft⟩ := h
  rw [hexec]
  exact congrArg (fun x => some x.softWords) hleft

end Overlap

/-- Refutes O20, at its clause of a head beyond the pool: KV.LOAD sets EMPTY alone only where AD lies apart from AA, which the
clause does not ask. Where they overlap otherwise than in place, all of AD holds free values once the instruction has run (R94), and the
words so written have fresh check bits whatever the values are (R45). -/
theorem not_pagedCache : ¬ Obligations.PagedCache := by
  unfold Obligations.PagedCache
  intro h
  obtain ⟨-, hview⟩ := h Overlap.state 0 Overlap.hdr Overlap.ops Overlap.issues ⟨rfl, fun e he => nomatch he⟩ (by decide +kernel)
  obtain ⟨hload, -⟩ := hview 0x10000 0x10040 0 Overlap.hits
  obtain ⟨hbeyond, -⟩ := hload (by decide +kernel)
  have hkept := Overlap.marksAfter_of_completesIn (hbeyond (.inl (by decide +kernel)))
  have hgone : (Overlap.state.sett 0).softWords = [] := Option.some.inj (hkept.symm.trans Overlap.marks_load)
  exact absurd hgone (by decide +kernel)

end Sys2Proof.Proofs
end
